-- ==== Sys2Proof/Word.lean ====
section
/-! DEFINITION. The word types of the UTV-960 (spec/00_scope.md R4, R6): bits are bit vectors, counts and addresses used as keys are `Nat`. -/
namespace Sys2Proof

/-- One byte of memory (R4). -/
abbrev Byte := BitVec 8
/-- A stem register, a lane register of one thread, an object pointer (R6, R276). -/
abbrev Word := BitVec 64
/-- One bit for each of the 32 threads of a group (R44). -/
abbrev Mask := BitVec 32
/-- Logical time of a core, a line or a bank, 24 bits, serial-number arithmetic (R306). -/
abbrev Time := BitVec 24

end Sys2Proof
end

