-- ==== Sys2Proof/Args.lean ====
section
/-! DEFINITION. The arguments of instructions: operand types, fields and operands of leaf words (R43-R51), the
special registers, and what mailbox commands, messages and events carry. -/
namespace Sys2Proof

/-- Operand types (R48). -/
inductive Ty where
  | b64 | b32 | b16 | b8 | f64 | f32 | f16 | bf16 | e4m3 | e5m2 | pb8 | pb6 | pb4
  deriving DecidableEq, Repr

/-- Rounding modes (R150). -/
inductive RMode where
  | rne | rtz | rdn | rup | rna | sr | rto
  deriving DecidableEq, Repr

/-- Cache hints (R43, R221). -/
inductive Hint where
  | normal | evictFirst | keep | noL1
  deriving DecidableEq, Repr

/-- A leaf operand field (R45). -/
inductive Opnd where
  | lane (n : BitVec 7)
  | areg (n : BitVec 5)
  | const (n : BitVec 5)
  | indexed (x : BitVec 2) (k : BitVec 5)
  | pred (p : BitVec 3)
  | none
  deriving DecidableEq, Repr

/-- Guards and issue control of a leaf instruction (R43, R44, R51). -/
structure Ctl where
  g1n : Bool := false
  g1 : BitVec 3 := 7
  g2n : Bool := false
  g2 : BitVec 3 := 7
  safe : Bool := false
  stall : BitVec 3 := 0
  yld : Bool := false
  deriving DecidableEq, Repr

/-- The fields of a leaf instruction in the general form (R43, R50), less those that its mnemonic fixes. -/
structure Leaf where
  ctl : Ctl := {}
  ty : Ty := .b64
  d : Opnd := .none
  s1 : Opnd := .none
  s2 : Opnd := .none
  s3 : Opnd := .none
  s4 : Opnd := .none
  em : BitVec 4 := 0
  hint : Hint := .normal
  slot : BitVec 3 := 0
  imm : Option (BitVec 18) := Option.none
  opx : BitVec 5 := 0
  sel : BitVec 2 := 0
  cond : BitVec 4 := 0
  sgn : Bool := false
  sat : Bool := false
  rm : RMode := .rne
  deriving DecidableEq, Repr

/-- Integer conditions (R49). -/
inductive IntCond where
  | eq | ne | lt | le | gt | ge | ltu | leu | gtu | geu
  deriving DecidableEq, Repr

/-- Special registers of the stem (R79). -/
inductive SReg where
  | group | wg | cluster | ngroups | nwg | nclusters | task | core | grove | die | pkg | pts | cycle
  | rcb | args | localp | srseed | faultCode | faultAddr | active | lease
  deriving DecidableEq, Repr

/-- Condition of `WAITA` (R218). -/
inductive WaitCond where
  | eq | ne | geu | ge
  deriving DecidableEq, Repr

/-- Source of operand A of a matrix pass (R243). -/
inductive ASrc where
  | ob | sp | lr
  deriving DecidableEq, Repr

/-- The imm21 field of `CP`, `CP2` and `GTH` (R265). -/
structure EngMods where
  i64 : Bool := false
  isp : Bool := false
  slot : BitVec 3 := 0
  key : Bool := false
  cwsp : Bool := false
  txb : Bool := false
  cw : Bool := false
  ssp : Bool := false
  dsp : Bool := false
  q : BitVec 2 := 0
  deriving DecidableEq, Repr

/-- Atomic operations (R318). -/
inductive AtomOp where
  | add | and | or | xor | min | max | exch | fadd | fmin | fmax
  deriving DecidableEq, Repr

/-- Module reductions (R349). -/
inductive RedOp where
  | fadd | bfadd | iadd | fmax | fmin
  deriving DecidableEq, Repr

/-- The mailbox range a command comes through: the package's base range or a partition's (R19, R398). -/
inductive Via where
  | base
  | part (n : Nat)
  deriving DecidableEq, Repr

/-- A PODSTAT command: its range and the package that it asks about (R335). -/
structure PodstatArg where
  via : Via
  pkg : Nat
  deriving DecidableEq, Repr

/-- The seven budget fields of an RCB, as written (R17). -/
structure Budgets where
  blreg : Nat
  bsram : Nat
  bob : Nat
  btag : Nat
  bgrove : Nat
  bstrm : Nat
  bbud : Nat
  deriving DecidableEq, Repr

/-- Parameters of PARTCREATE (R19). -/
structure PartParams where
  num : Nat
  tenant : BitVec 32
  poolBase : Nat
  poolCnt : Nat
  bud : Budgets
  prio : Nat
  lease : Nat
  fpolicy : Nat
  system : Bool
  deriving DecidableEq, Repr

/-- Parameters of PARTSET: the fields to change (R19). -/
structure PartPatch where
  poolBase : Option Nat
  poolCnt : Option Nat
  bud : Option Budgets
  prio : Option Nat
  lease : Option Nat
  fpolicy : Option Nat
  deriving DecidableEq, Repr

/-- A group as the crown controller names it (R84). -/
structure GroupName where
  part : Nat
  tid : Nat
  cluster : Nat
  wg : Nat
  group : Nat
  deriving DecidableEq, Repr

/-- What a bring-up test measured (R438, R440). -/
structure TestReport where
  corrected : Nat
  uncorrected : Nat
  repairs : Nat
  failed : Bool
  deriving DecidableEq, Repr

/-- A unit of the spare map (R438, R439). -/
inductive SpareUnit where
  | core (n : Nat)
  | lane (core : Nat) (n : Nat)
  | linkLane (port : Nat) (n : Nat)
  deriving DecidableEq, Repr

/-- What IDE_KM programs (R401, R402): the host link's stream, a TDI's selective stream, or a key slot of one
direction of a pod port, at the package's end or at the module's head. -/
inductive IdeTarget where
  | hostLink
  | tdi (n : Nat)
  | podPort (port : Nat) (dir : Nat) (slot : Nat)
  | moduleHead (port : Nat) (dir : Nat) (slot : Nat)
  deriving DecidableEq, Repr

/-- What an atomic does with its word (R318-R320). -/
inductive AtomFn where
  | op (op : AtomOp) (x : Word) (sgn : Bool)
  | cas (cmp : Word) (x : Word)
  deriving DecidableEq, Repr
/-- A thread's atomic on a word of a module (R320, R428). -/
structure AtomReq where
  thr : Nat
  addr : Nat
  n : Nat
  fn : AtomFn
  deriving DecidableEq, Repr

/-- An operation that a module head receives (R337, R338, R347, R349, R428). Addresses are module addresses; a queue has
those of its pages, the atomics are those of one sector, in thread order. -/
inductive ModOp where
  | write (bytes : List (Nat × Byte)) (keyed : Option Nat)
  | atom (xs : List AtomReq)
  | push (pages : List Nat) (cap : Nat) (x : Word)
  | pop (pages : List Nat) (cap : Nat) (wait : Bool)
  | redu (op : RedOp) (dst : Nat) (xs : List Word)
  deriving DecidableEq, Repr

/-- A stream operation on its way (R337): stream, sequence number, resync mark, operation. -/
structure ModMsg where
  sid : Nat
  seq : Nat
  resync : Bool
  op : ModOp
  deriving DecidableEq, Repr

/-- Which operation arrives at a module head: one of this package's own in flight, or another package's. -/
inductive MsgSrc where
  | own (sid : Nat) (seq : Nat)
  | foreign (m : ModMsg)
  deriving DecidableEq, Repr

/-- Kinds of graft messages (R356). -/
inductive BudKind where
  | bud | ret | refusal
  deriving DecidableEq, Repr

/-- A bud, return or refusal notice (R356). `ref`, `obj` and `tenant` stand beside its 128 bytes (log entry 10): the
sender's own number for it, the object it addresses, and the tenant identity of its partition (R368). -/
structure Bud where
  spkg : Nat
  sdie : Nat
  sgrove : Nat
  score : Nat
  slane : Nat
  sgpos : Nat
  sthread : Nat
  hops : Nat
  kind : BudKind
  fcode : BitVec 8
  region : Nat
  mask : BitVec 16
  strmid : Nat
  strmv : Bool
  dpart : Nat
  pts : Time
  leafbase : Word
  args : Word
  snap : List Word
  subset : List Word
  ref : Nat := 0
  obj : Nat := 0
  tenant : BitVec 32 := 0
  deriving DecidableEq, Repr

/-- A placement attempt (R191): the task, the first cluster of the reservation, the cores that the device chooses
(one list for each cluster, one core for each workgroup), the physical tags and frames it chooses, and the phase. -/
structure PlaceArg where
  tid : Nat
  cluster : Nat
  cores : List (List Nat)
  tags : List Nat
  commit : Bool
  deriving DecidableEq, Repr

/-- What a debug session reads (R262): a tile, or an operand-buffer range, of a core's slice. -/
inductive DebugWhat where
  | tile (core : Nat) (z : Nat)
  | range (core : Nat) (ob : Nat)
  deriving DecidableEq, Repr

/-- What a package reset finds (R437, R439, R440): the strap, failing cores, failing lanes, failing link lanes of
the pod ports, stacks with a channel that cannot be repaired, failing lanes of the host link. -/
structure ResetReport where
  strap : Bool
  badCores : List Nat
  badLanes : List (Nat × Nat)
  badLinkLanes : List (Nat × Nat)
  badStacks : List Nat
  badHostLanes : List Nat := []
  deriving DecidableEq, Repr

/-- Readings behind the wear word (R442). -/
structure WearReading where
  life : Nat
  rowrep : Nat
  ceday : Nat
  hoth : Nat
  deriving DecidableEq, Repr

/-- The SPDM algorithms a requester offers (R400). -/
structure SpdmOffer where
  sha512 : Bool
  ecdsaP521 : Bool
  secp521r1 : Bool
  aes256gcm : Bool
  deriving DecidableEq, Repr

/-- What a burst that arrives at a root tile carries (R381, R385): the node's number and tag or not, row and unit, and
which of its eight sectors hold an error that the controller cannot correct, and which one that it corrects. -/
structure BurstArg where
  node : Nat
  tagged : Bool
  row : Nat
  unit : Nat
  bad : List Nat
  fixed : List Nat := []
  deriving DecidableEq, Repr

end Sys2Proof
end

