-- ==== Sys2Proof/Syntax.lean ====
section
/-! DEFINITION. The instruction syntax: one constructor of `Instr` per row of spec/opcode_table.json (stem words
R34-R42, leaf instructions R43-R54, mailbox commands, protocol requests, and the device's and the host's events).
An event's arguments carry what comes from outside and what the spec leaves to the device's choice. -/
namespace Sys2Proof

/-- Every row of spec/opcode_table.json. -/
inductive Instr where
  /-- NOP (R82). -/
  | nop
  /-- SAFE (R82). -/
  | safe
  /-- LWAIT (R82). -/
  | lwait
  /-- DRAIN (R324). -/
  | drain
  /-- EXIT (R83). -/
  | exit
  /-- HALT (R84). -/
  | halt
  /-- BRK (R82). -/
  | brk
  /-- GWAIT (R362). -/
  | gwait
  /-- ADD (R85). -/
  | add (d s t : BitVec 5)
  /-- SUB (R85). -/
  | sub (d s t : BitVec 5)
  /-- MUL (R85). -/
  | mul (d s t : BitVec 5)
  /-- MULH (R85). -/
  | mulh (d s t : BitVec 5)
  /-- MULHU (R85). -/
  | mulhu (d s t : BitVec 5)
  /-- STEM_AND (R85). -/
  | stemAnd (d s t : BitVec 5)
  /-- STEM_OR (R85). -/
  | stemOr (d s t : BitVec 5)
  /-- STEM_XOR (R85). -/
  | stemXor (d s t : BitVec 5)
  /-- STEM_SHL (R85). -/
  | stemShl (d s t : BitVec 5)
  /-- STEM_SHR (R85). -/
  | stemShr (d s t : BitVec 5)
  /-- STEM_SRA (R85). -/
  | stemSra (d s t : BitVec 5)
  /-- MIN (R85). -/
  | min (d s t : BitVec 5)
  /-- MAX (R85). -/
  | max (d s t : BitVec 5)
  /-- MINU (R85). -/
  | minu (d s t : BitVec 5)
  /-- MAXU (R85). -/
  | maxu (d s t : BitVec 5)
  /-- STEM_SEL (R85). -/
  | stemSel (d : BitVec 5) (q : BitVec 3) (s t : BitVec 5)
  /-- ADDI (R86). -/
  | addi (d s : BitVec 5) (i : BitVec 16)
  /-- ANDI (R86). -/
  | andi (d s : BitVec 5) (i : BitVec 16)
  /-- ORI (R86). -/
  | ori (d s : BitVec 5) (i : BitVec 16)
  /-- XORI (R86). -/
  | xori (d s : BitVec 5) (i : BitVec 16)
  /-- SHLI (R86). -/
  | shli (d s : BitVec 5) (n : BitVec 6)
  /-- SHRI (R86). -/
  | shri (d s : BitVec 5) (n : BitVec 6)
  /-- SRAI (R86). -/
  | srai (d s : BitVec 5) (n : BitVec 6)
  /-- MOVI (R87). -/
  | movi (d : BitVec 5) (i : BitVec 16)
  /-- MOVK (R87). -/
  | movk (d : BitVec 5) (k : BitVec 2) (i : BitVec 16)
  /-- CMP (R88). -/
  | cmp (q : BitVec 3) (c : IntCond) (s t : BitVec 5)
  /-- CMPI (R88). -/
  | cmpi (q : BitVec 3) (c : IntCond) (s : BitVec 5) (i : BitVec 14)
  /-- PADD (R286). -/
  | padd (d s t : BitVec 5)
  /-- PADDI (R286). -/
  | paddi (d s : BitVec 5) (i : BitVec 16)
  /-- PRST (R287). -/
  | prst (d s : BitVec 5) (m : BitVec 3)
  /-- PSIZE (R288). -/
  | psize (d s : BitVec 5)
  /-- SLD (R89). -/
  | sld (d s : BitVec 5) (i : BitVec 16)
  /-- SST (R89). -/
  | sst (d s : BitVec 5) (i : BitVec 16)
  /-- BR (R91). -/
  | br (q : BitVec 3) (n : Bool) (disp : BitVec 22)
  /-- JMP (R91). -/
  | jmp (disp : BitVec 22)
  /-- CALL (R91). -/
  | call (disp : BitVec 22)
  /-- RET (R91). -/
  | ret (s : BitVec 5)
  /-- LOOP (R92). -/
  | loop (c : BitVec 5) (disp : BitVec 21)
  /-- LRUN (R93). -/
  | lrun (off : BitVec 21)
  /-- RFAL (R96). -/
  | rfal (d : BitVec 5) (v : BitVec 7)
  /-- VOTE_ANY (R97). -/
  | voteAny (d : BitVec 5) (p : BitVec 3)
  /-- VOTE_ALL (R97). -/
  | voteAll (d : BitVec 5) (p : BitVec 3)
  /-- VOTE_UNIFORM (R97). -/
  | voteUniform (d : BitVec 5) (p : BitVec 3)
  /-- SREAD (R98). -/
  | sread (d : BitVec 5) (n : SReg)
  /-- SWRITE_FAULT_CODE (R81). -/
  | swriteFaultCode (s : BitVec 5)
  /-- SWRITE_FAULT_ADDR (R81). -/
  | swriteFaultAddr (s : BitVec 5)
  /-- SWRITE_LEASE (R98). -/
  | swriteLease (s : BitVec 5)
  /-- TRAP (R99). -/
  | trap (code : BitVec 16)
  /-- SRSD (R100). -/
  | srsd (s : BitVec 5)
  /-- STRM_BIND (R340). -/
  | strmBind (w : BitVec 3) (s : BitVec 5)
  /-- STRM_JOIN (R341). -/
  | strmJoin (wa wb : BitVec 3)
  /-- CP (R266). -/
  | cp (b : BitVec 5) (m : EngMods)
  /-- CP2 (R266). -/
  | cp2 (b : BitVec 5) (m : EngMods)
  /-- GTH (R266). -/
  | gth (b : BitVec 5) (m : EngMods)
  /-- QJOIN (R270). -/
  | qjoin (m : BitVec 5)
  /-- WAITA (R218). -/
  | waita (b : BitVec 5) (c : WaitCond) (sp : Bool)
  /-- TASK (R200). -/
  | task (b : BitVec 5)
  /-- TGRAPH (R201). -/
  | tgraph (b : BitVec 5)
  /-- TGRAPH_RESUME (R201). -/
  | tgraphResume (b : BitVec 5)
  /-- BAR (R227). -/
  | bar (t : BitVec 3)
  /-- WGBAR (R225). -/
  | wgbar
  /-- TXB_EXP (R230). -/
  | txbExp (s t : BitVec 5)
  /-- TXB_ARR (R230). -/
  | txbArr (s : BitVec 5)
  /-- TXB_WAIT (R230). -/
  | txbWait (s t : BitVec 5)
  /-- SRMODE_CACHE (R205). -/
  | srmodeCache (bank : BitVec 4)
  /-- SRMODE_SCRATCH (R205). -/
  | srmodeScratch (bank : BitVec 4)
  /-- SRMODE_FIFO (R207). -/
  | srmodeFifo (bank : BitVec 4)
  /-- OBRES (R239). -/
  | obres (b : BitVec 5) (units : BitVec 8) (ob : BitVec 4)
  /-- OBREL (R242). -/
  | obrel (ob : BitVec 4)
  /-- OBFILL (R240). -/
  | obfill (b : BitVec 5) (ob : BitVec 4)
  /-- MX (R243). -/
  | mx (b : BitVec 5) (k : BitVec 10) (bsp : Bool) (asrc : ASrc) (acc wide : Bool) (tile : BitVec 6)
  /-- MXWAIT (R256). -/
  | mxwait (tile : BitVec 6)
  /-- MXWAIT_ALL (R256). -/
  | mxwaitAll
  /-- GROW (R103). -/
  | grow (n : BitVec 5)
  /-- SHRINK (R103). -/
  | shrink (n : BitVec 5)
  /-- XSET (R108). -/
  | xset (x : BitVec 2) (limit : BitVec 8) (base : BitVec 7)
  /-- MQPUSH (R347). -/
  | mqpush (b : BitVec 5) (slot : BitVec 3) (wait : Bool)
  /-- MQPOP (R347). -/
  | mqpop (b : BitVec 5) (slot : BitVec 3) (wait : Bool)
  /-- MRED_FADD (R349). -/
  | mredFadd (b : BitVec 5) (slot : BitVec 3)
  /-- MRED_BFADD (R349). -/
  | mredBfadd (b : BitVec 5) (slot : BitVec 3)
  /-- MRED_IADD (R349). -/
  | mredIadd (b : BitVec 5) (slot : BitVec 3)
  /-- MRED_FMAX (R349). -/
  | mredFmax (b : BitVec 5) (slot : BitVec 3)
  /-- MRED_FMIN (R349). -/
  | mredFmin (b : BitVec 5) (slot : BitVec 3)
  /-- KLOAD (R396). -/
  | kload (b : BitVec 5)
  /-- KDROP (R397). -/
  | kdrop (p : BitVec 4) (h : BitVec 8)
  /-- IADD (R121). -/
  | iadd (w : Leaf)
  /-- ISUB (R121). -/
  | isub (w : Leaf)
  /-- IMUL (R121). -/
  | imul (w : Leaf)
  /-- IMAD (R121). -/
  | imad (w : Leaf)
  /-- IMULH (R121). -/
  | imulh (w : Leaf)
  /-- IMIN (R121). -/
  | imin (w : Leaf)
  /-- IMAX (R121). -/
  | imax (w : Leaf)
  /-- IABS (R121). -/
  | iabs (w : Leaf)
  /-- AND (R122). -/
  | and (w : Leaf)
  /-- OR (R122). -/
  | or (w : Leaf)
  /-- XOR (R122). -/
  | xor (w : Leaf)
  /-- SHL (R122). -/
  | shl (w : Leaf)
  /-- SHR (R122). -/
  | shr (w : Leaf)
  /-- SRA (R122). -/
  | sra (w : Leaf)
  /-- ROT (R122). -/
  | rot (w : Leaf)
  /-- CLZ (R122). -/
  | clz (w : Leaf)
  /-- POPC (R122). -/
  | popc (w : Leaf)
  /-- BREV (R122). -/
  | brev (w : Leaf)
  /-- BFE (R123). -/
  | bfe (w : Leaf)
  /-- BFI (R123). -/
  | bfi (w : Leaf)
  /-- ICMP (R124). -/
  | icmp (w : Leaf)
  /-- SEL (R124). -/
  | sel (w : Leaf)
  /-- MOV (R114). -/
  | mov (w : Leaf)
  /-- MOVI_LANE (R115). -/
  | moviLane (c : Ctl) (ty : Ty) (d : Opnd) (imm : BitVec 32)
  /-- IDP4 (R125). -/
  | idp4 (w : Leaf)
  /-- PLOP (R126). -/
  | plop (w : Leaf)
  /-- FADD (R129). -/
  | fadd (w : Leaf)
  /-- FSUB (R129). -/
  | fsub (w : Leaf)
  /-- FMUL (R129). -/
  | fmul (w : Leaf)
  /-- FFMA (R129). -/
  | ffma (w : Leaf)
  /-- FMIN (R130). -/
  | fmin (w : Leaf)
  /-- FMAX (R130). -/
  | fmax (w : Leaf)
  /-- FCMP (R131). -/
  | fcmp (w : Leaf)
  /-- FCLASS (R132). -/
  | fclass (w : Leaf)
  /-- FRCP (R133). -/
  | frcp (w : Leaf)
  /-- FRSQ (R133). -/
  | frsq (w : Leaf)
  /-- FSQRT (R129). -/
  | fsqrt (w : Leaf)
  /-- FDIV (R129). -/
  | fdiv (w : Leaf)
  /-- FEX2 (R133). -/
  | fex2 (w : Leaf)
  /-- FLG2 (R133). -/
  | flg2 (w : Leaf)
  /-- FSIN (R133). -/
  | fsin (w : Leaf)
  /-- FCOS (R133). -/
  | fcos (w : Leaf)
  /-- FDOT2 (R134). -/
  | fdot2 (w : Leaf)
  /-- FCVT (R156). -/
  | fcvt (w : Leaf)
  /-- F2I (R157). -/
  | f2i (w : Leaf)
  /-- I2F (R158). -/
  | i2f (w : Leaf)
  /-- PBQ (R160). -/
  | pbq (w : Leaf)
  /-- PBQ_SCALE (R159). -/
  | pbqScale (w : Leaf)
  /-- PBDQ (R161). -/
  | pbdq (w : Leaf)
  /-- BRA (R139). -/
  | bra (c : Ctl) (s1 : Opnd) (disp recdisp : BitVec 18)
  /-- JOIN (R141). -/
  | join (w : Leaf)
  /-- LEND (R141). -/
  | lend (w : Leaf)
  /-- LEXIT (R141). -/
  | lexit (w : Leaf)
  /-- LTRAP (R143). -/
  | ltrap (w : Leaf)
  /-- LBRK (R141). -/
  | lbrk (w : Leaf)
  /-- LDG (R210). -/
  | ldg (w : Leaf)
  /-- STG (R210). -/
  | stg (w : Leaf)
  /-- STNT (R323). -/
  | stnt (w : Leaf)
  /-- LDP (R210). -/
  | ldp (w : Leaf)
  /-- STP (R210). -/
  | stp (w : Leaf)
  /-- LDL (R213). -/
  | ldl (w : Leaf)
  /-- STL (R213). -/
  | stl (w : Leaf)
  /-- LDK (R214). -/
  | ldk (w : Leaf)
  /-- PREF (R215). -/
  | pref (w : Leaf)
  /-- FPUSH (R216). -/
  | fpush (w : Leaf)
  /-- FPOP (R216). -/
  | fpop (w : Leaf)
  /-- ATOM_ADD (R320). -/
  | atomAdd (w : Leaf)
  /-- ATOM_AND (R320). -/
  | atomAnd (w : Leaf)
  /-- ATOM_OR (R320). -/
  | atomOr (w : Leaf)
  /-- ATOM_XOR (R320). -/
  | atomXor (w : Leaf)
  /-- ATOM_MIN (R320). -/
  | atomMin (w : Leaf)
  /-- ATOM_MAX (R320). -/
  | atomMax (w : Leaf)
  /-- ATOM_EXCH (R320). -/
  | atomExch (w : Leaf)
  /-- ATOM_FADD (R320). -/
  | atomFadd (w : Leaf)
  /-- ATOM_FMIN (R320). -/
  | atomFmin (w : Leaf)
  /-- ATOM_FMAX (R320). -/
  | atomFmax (w : Leaf)
  /-- ACAS (R320). -/
  | acas (w : Leaf)
  /-- LR (R321). -/
  | lr (w : Leaf)
  /-- SC (R322). -/
  | sc (w : Leaf)
  /-- ATOMP_ADD (R320). -/
  | atompAdd (w : Leaf)
  /-- ATOMP_AND (R320). -/
  | atompAnd (w : Leaf)
  /-- ATOMP_OR (R320). -/
  | atompOr (w : Leaf)
  /-- ATOMP_XOR (R320). -/
  | atompXor (w : Leaf)
  /-- ATOMP_MIN (R320). -/
  | atompMin (w : Leaf)
  /-- ATOMP_MAX (R320). -/
  | atompMax (w : Leaf)
  /-- ATOMP_EXCH (R320). -/
  | atompExch (w : Leaf)
  /-- ATOMP_FADD (R320). -/
  | atompFadd (w : Leaf)
  /-- ATOMP_FMIN (R320). -/
  | atompFmin (w : Leaf)
  /-- ATOMP_FMAX (R320). -/
  | atompFmax (w : Leaf)
  /-- NBR_LEFT (R174). -/
  | nbrLeft (w : Leaf)
  /-- NBR_RIGHT (R174). -/
  | nbrRight (w : Leaf)
  /-- SHFL (R176). -/
  | shfl (w : Leaf)
  /-- XPUT (R177). -/
  | xput (w : Leaf)
  /-- BCST (R178). -/
  | bcst (w : Leaf)
  /-- SCAN_ADD (R180). -/
  | scanAdd (w : Leaf)
  /-- SCAN_MIN (R180). -/
  | scanMin (w : Leaf)
  /-- SCAN_MAX (R180). -/
  | scanMax (w : Leaf)
  /-- SCAN_AND (R180). -/
  | scanAnd (w : Leaf)
  /-- SCAN_OR (R180). -/
  | scanOr (w : Leaf)
  /-- SCAN_XOR (R180). -/
  | scanXor (w : Leaf)
  /-- SCAN_CHAIN (R181). -/
  | scanChain (w : Leaf)
  /-- RED_ADD (R182). -/
  | redAdd (w : Leaf)
  /-- RED_MIN (R182). -/
  | redMin (w : Leaf)
  /-- RED_MAX (R182). -/
  | redMax (w : Leaf)
  /-- RED_AND (R182). -/
  | redAnd (w : Leaf)
  /-- RED_OR (R182). -/
  | redOr (w : Leaf)
  /-- RED_XOR (R182). -/
  | redXor (w : Leaf)
  /-- VOTEL_ANY (R183). -/
  | votelAny (w : Leaf)
  /-- VOTEL_ALL (R183). -/
  | votelAll (w : Leaf)
  /-- VOTEL_UNIFORM (R183). -/
  | votelUniform (w : Leaf)
  /-- VOTEL_BALLOT (R183). -/
  | votelBallot (w : Leaf)
  /-- MATCH (R184). -/
  | matchT (w : Leaf)
  /-- FEMK_TEST (R113). -/
  | femkTest (w : Leaf)
  /-- FEMK_EMPTY (R113). -/
  | femkEmpty (w : Leaf)
  /-- FEMK_FULL (R113). -/
  | femkFull (w : Leaf)
  /-- XMOV_SET (R110). -/
  | xmovSet (w : Leaf)
  /-- XMOV_ADD (R110). -/
  | xmovAdd (w : Leaf)
  /-- XMOV_READ (R110). -/
  | xmovRead (w : Leaf)
  /-- SREADL_THREAD (R154). -/
  | sreadlThread (w : Leaf)
  /-- SREADL_PAIR (R154). -/
  | sreadlPair (w : Leaf)
  /-- SREADL_FLAGS (R154). -/
  | sreadlFlags (w : Leaf)
  /-- SREADL_FLAGSCLR (R154). -/
  | sreadlFlagsclr (w : Leaf)
  /-- ZMOV (R258). -/
  | zmov (w : Leaf)
  /-- ZLD (R258). -/
  | zld (w : Leaf)
  /-- GRFT (R358). -/
  | grft (c : Ctl) (s1 : Opnd) (mask : BitVec 16) (region : BitVec 21) (slot : BitVec 3) (fb : Bool)
  /-- GRET (R361). -/
  | gret (c : Ctl)
  /-- RESERVED_WORD (R41). -/
  | reservedWord (w : BitVec 32)
  /-- PARTCREATE (R19). -/
  | partcreate (v : Via) (p : PartParams)
  /-- ROOTSET (R19). -/
  | rootset (v : Via) (part : Nat) (ptr : Word)
  /-- PARTSET (R19). -/
  | partset (v : Via) (part : Nat) (p : PartPatch)
  /-- LOCALSET (R19). -/
  | localset (v : Via) (part base count size : Nat)
  /-- SYSMARK (R19). -/
  | sysmark (v : Via) (part : Nat) (on : Bool)
  /-- PARTDESTROY (R19). -/
  | partdestroy (v : Via) (part : Nat)
  /-- DIRSET (R278). -/
  | dirset (v : Via) (part base count : Nat)
  /-- LOGSET (R278). -/
  | logset (v : Via) (part base size ans cons : Nat)
  /-- OBJINV (R284). -/
  | objinv (v : Via) (part : Nat) (obj page : Option Nat)
  /-- PMIGRATE (R299). -/
  | pmigrate (v : Via) (part obj page : Nat) (alt : Bool) (frame : Nat)
  /-- PODSET (R335). -/
  | podset (v : Via) (order pkg : Nat)
  /-- PODTRANSPORT (R335). -/
  | podtransport (v : Via) (port base size : Nat)
  /-- PODWIN (R335). -/
  | podwin (v : Via) (part port base size : Nat)
  /-- PODSTAT (R335). -/
  | podstat (a : PodstatArg)
  /-- GRAFTMAP (R356). -/
  | graftmap (v : Via) (part rpkg rpart : Nat)
  /-- HMAPGET (R375). -/
  | hmapget (v : Via) (stack : Nat)
  /-- HMAPSET (R376). -/
  | hmapset (v : Via) (stack : Nat) (value : Word)
  /-- CTXSET (R411). -/
  | ctxset (v : Via) (part base size : Nat)
  /-- PREEMPT (R411). -/
  | preempt (v : Via) (part : Nat) (rcb : Word)
  /-- RESUME (R411). -/
  | resume (v : Via) (part : Nat) (rcb : Word)
  /-- HALTED_GROUP_RESUME (R84). -/
  | haltedGroupResume (v : Via) (g : GroupName)
  /-- HALTED_GROUP_KILL (R84). -/
  | haltedGroupKill (v : Via) (g : GroupName)
  /-- MODULE_RESTORE (R350). -/
  | moduleRestore (v : Via) (m : Nat)
  /-- SAPLING (R437). -/
  | sapling (v : Via)
  /-- MEMTEST (R438). -/
  | memtest (v : Via) (stack : Nat) (r : TestReport)
  /-- LINKTEST (R438). -/
  | linktest (v : Via) (port : Option Nat) (r : TestReport)
  /-- SPARESET (R438). -/
  | spareset (v : Via) (u : SpareUnit)
  /-- SPAREGET (R438). -/
  | spareget (v : Via)
  /-- WEARGET (R442). -/
  | wearget (v : Via)
  /-- POWERCAP (R443). -/
  | powercap (v : Via) (watts : Nat)
  /-- MAILBOX_RESET (R444). -/
  | mailboxReset (v : Via) (r : ResetReport)
  /-- GET_TDISP_VERSION (R398). -/
  | getTdispVersion (tdi : Nat)
  /-- GET_TDISP_CAPABILITIES (R398). -/
  | getTdispCapabilities (tdi : Nat)
  /-- LOCK_INTERFACE_REQUEST (R399). -/
  | lockInterfaceRequest (tdi : Nat)
  /-- GET_DEVICE_INTERFACE_REPORT (R398). -/
  | getDeviceInterfaceReport (tdi : Nat)
  /-- GET_DEVICE_INTERFACE_STATE (R398). -/
  | getDeviceInterfaceState (tdi : Nat)
  /-- START_INTERFACE_REQUEST (R399). -/
  | startInterfaceRequest (tdi : Nat)
  /-- STOP_INTERFACE_REQUEST (R399). -/
  | stopInterfaceRequest (tdi : Nat)
  /-- GET_VERSION (R400). -/
  | getVersion
  /-- GET_CAPABILITIES (R400). -/
  | getCapabilities
  /-- NEGOTIATE_ALGORITHMS (R400). -/
  | negotiateAlgorithms (o : SpdmOffer)
  /-- GET_DIGESTS (R400). -/
  | getDigests
  /-- GET_CERTIFICATE (R400). -/
  | getCertificate (slot : Nat)
  /-- CHALLENGE (R400). -/
  | challenge (slot : Nat) (nonce : Nat)
  /-- GET_MEASUREMENTS (R400). -/
  | getMeasurements (index : Nat) (tdi : Nat)
  /-- KEY_EXCHANGE (R400). -/
  | keyExchange (sess : Nat)
  /-- FINISH (R400). -/
  | finish (sess : Nat) (ok : Bool)
  /-- KEY_UPDATE (R400). -/
  | keyUpdate (sess : Nat)
  /-- HEARTBEAT (R400). -/
  | heartbeat (sess : Nat)
  /-- END_SESSION (R400). -/
  | endSession (sess : Nat)
  /-- IDE_KM (R401). -/
  | ideKm (t : IdeTarget) (key : BitVec 256)
  /-- POD_KEY_ROTATION (R402). -/
  | podKeyRotation (port dir : Nat)
  /-- KEY_SLOT_RETIRE (R402). -/
  | keySlotRetire (port dir : Nat)
  /-- BAR_WRITE (R199): to a package physical address. -/
  | barWrite (part : Nat) (addr : Nat) (bytes : List Byte)
  /-- TASK_TAKE (R24). -/
  | taskTake (part : Nat) (rcb : Word)
  /-- TASK_LIST_REREAD (R24). -/
  | taskListReread (part : Nat) (rcb : Word)
  /-- PLACEMENT_ATTEMPT (R191). -/
  | placementAttempt (p : PlaceArg)
  /-- BACKOFF_EXPIRY (R192). -/
  | backoffExpiry (cid : Nat)
  /-- TASK_COMPLETION (R26). -/
  | taskCompletion (tid : Nat)
  /-- NODE_LAUNCH (R198). -/
  | nodeLaunch (graph node : Nat)
  /-- NODE_COMPLETE (R198). -/
  | nodeComplete (graph node : Nat)
  /-- ISSUE_ARBITRATION (R187). -/
  | issueArbitration (core lane : Nat)
  /-- LEAF_RUN_START (R94). -/
  | leafRunStart (gid : Nat)
  /-- LEAF_FILL (R61). -/
  | leafFill (gid slot : Nat)
  /-- FILL_ARRIVAL (R111). -/
  | fillArrival (gid reg thread : Nat)
  /-- CHAIN_READ_FILL (R165). -/
  | chainReadFill (gid reg thread : Nat)
  /-- GROW_DEADLOCK_EVICTION (R105). -/
  | growDeadlockEviction (core : Nat)
  /-- GROW_READMISSION (R106). -/
  | growReadmission (gid lane : Nat)
  /-- TABLE_WALK (R283). -/
  | tableWalk (core part obj page : Nat)
  /-- PAGE_REQUEST_RECORD (R294). -/
  | pageRequestRecord (part obj page tag : Nat)
  /-- CONSADDR_WRITE (R294). -/
  | consaddrWrite (part : Nat) (count : Word)
  /-- PAGE_ANSWER (R296). -/
  | pageAnswer (part tag : Nat) (w : Word)
  /-- CLUSTER_SWITCH_OUT (R292). -/
  | clusterSwitchOut (cid : Nat)
  /-- MIGRATION_COPY_END (R301). -/
  | migrationCopyEnd (part obj page : Nat)
  /-- PTS_IDLE_ADVANCE (R309). -/
  | ptsIdleAdvance (core : Nat)
  /-- TIMESTAMP_WRAP_ADJUST (R311). -/
  | timestampWrapAdjust
  /-- LR_RESERVATION_EXPIRY (R321). -/
  | lrReservationExpiry (gid thread : Nat)
  /-- STNT_PERFORM (R323). -/
  | stntPerform (gid k : Nat)
  /-- FIFO_REQUEST_SERVE (R217). -/
  | fifoRequestServe (grove bank : Nat) (pop : Bool)
  /-- WAITA_REREAD (R218). -/
  | waitaReread (gid : Nat)
  /-- TXB_WAIT_REREAD (R230). -/
  | txbWaitReread (gid : Nat)
  /-- ROUTE_TAG_RELEASE (R227). -/
  | routeTagRelease (tid tag : Nat)
  /-- ENGINE_OP_START (R264). -/
  | engineOpStart (grove q : Nat)
  /-- ENGINE_OP_PERFORMED (R267). -/
  | engineOpPerformed (grove q : Nat)
  /-- TXB_DECREMENT (R267). -/
  | txbDecrement (grove q n : Nat)
  /-- OB_FILL_COMPLETE (R240). -/
  | obFillComplete (core ob : Nat)
  /-- MATRIX_ARBITRATION (R250). -/
  | matrixArbitration (grove : Nat)
  /-- PASS_RETIRE (R251). -/
  | passRetire (grove pass : Nat)
  /-- STREAM_OP_SEND (R337). -/
  | streamOpSend (sid : Nat)
  /-- STREAM_OP_ARRIVAL (R338). -/
  | streamOpArrival (m head : Nat) (src : MsgSrc)
  /-- STREAM_CLOSE (R338). -/
  | streamClose (m head sid : Nat)
  /-- STREAM_ACK (R337). -/
  | streamAck (sid seq : Nat)
  /-- STREAM_CTX_TIMEOUT (R339). -/
  | streamCtxTimeout (m head sid : Nat)
  /-- BACK_INVALIDATE (R332). -/
  | backInvalidate (port line : Nat)
  /-- MQPOP_RETRY (R347). -/
  | mqpopRetry (gid : Nat)
  /-- RELAY_FORWARD (R331). -/
  | relayForward (m : Nat) (msg : ModMsg)
  /-- PORT_TRAINING (R328). -/
  | portTraining (port m head : Nat)
  /-- MODULE_FATAL_ERROR (R350). -/
  | moduleFatalError (m : Nat)
  /-- MODULE_LINK_TIMEOUT (R350). -/
  | moduleLinkTimeout (port : Nat)
  /-- MODULE_LOSS_NOTICE (R350). -/
  | moduleLossNotice (m : Nat)
  /-- BUD_SEND (R360). -/
  | budSend (core : Nat)
  /-- BUD_ARRIVAL (R368). -/
  | budArrival (die recv : Nat) (b : Bud)
  /-- BUD_QUEUE_TIMEOUT (R368). -/
  | budQueueTimeout (b : Bud)
  /-- HOST_GROUP_START (R363). -/
  | hostGroupStart (die recv core lane : Nat)
  /-- RETURN_APPLY (R365). -/
  | returnApply (b : Bud)
  /-- REFUSAL_NOTICE (R368). -/
  | refusalNotice (b : Bud)
  /-- HOST_GROUP_OVERRUN (R372). -/
  | hostGroupOverrun (gid : Nat)
  /-- ROOT_NODE_BIND (R378). -/
  | rootNodeBind (graph node : Nat)
  /-- ROOT_BURST_ARRIVAL (R381). -/
  | rootBurstArrival (b : BurstArg)
  /-- ROOT_NODE_COMPLETE (R382). -/
  | rootNodeComplete (graph node : Nat)
  /-- HBM_COLUMN_COMMAND (R377). -/
  | hbmColumnCommand (stack ch pc : Nat)
  /-- BULK_STARVATION_RELIEF (R377). -/
  | bulkStarvationRelief (stack ch pc : Nat)
  /-- CLUSTER_SAVE (R413). -/
  | clusterSave (cid : Nat)
  /-- SAFEPOINT_WATCHDOG (R414). -/
  | safepointWatchdog (cid : Nat)
  /-- POWER_CAP_HOLD (R443). -/
  | powerCapHold (watts : Nat)
  /-- THERMAL_HOLD (R444). -/
  | thermalHold (die : Nat) (temp : Nat)
  /-- THERMAL_TRIP (R444). -/
  | thermalTrip (die : Nat) (temp : Nat)
  /-- PACKAGE_RESET (R439). -/
  | packageReset (r : ResetReport)
  /-- WEAR_COUNTER_UPDATE (R442). -/
  | wearCounterUpdate (r : WearReading)
  /-- STEM_FETCH (R42). -/
  | stemFetch
  /-- DEBUG_READ (R262). -/
  | debugRead (privileged : Bool) (w : DebugWhat)
  /-- TDISP_ERROR (R399). -/
  | tdispError (tdi : Nat)
  /-- INTEGRITY_FAILURE (R402). -/
  | integrityFailure (port : Nat)
  /-- HEAD_LOSS_REPORT (R330). -/
  | headLossReport (m head : Nat) (lost : Bool)
  deriving DecidableEq, Repr

end Sys2Proof
end

