-- ==== Sys2Proof/Machine/LeafSpec.lean ====
section
/-! DEFINITION. The leaf instructions' entries: opcode, operand roles, types and func fields of each (R43-R54 and the
entry of each mnemonic), and the check of a leaf instruction against its entry. The decoder and `WellFormed` both
use this one table. -/
namespace Sys2Proof.Machine

/-- The leaf instructions of the general form (R54), one for each row of the opcode table that has it. -/
inductive LOp where
  | iadd | isub | imul | imad | imulh | imin | imax | iabs | and | or
  | xor | shl | shr | sra | rot | clz | popc | brev | bfe | bfi
  | icmp | sel | mov | idp4 | plop | fadd | fsub | fmul | ffma | fmin
  | fmax | fcmp | fclass | frcp | frsq | fsqrt | fdiv | fex2 | flg2 | fsin
  | fcos | fdot2 | fcvt | f2i | i2f | pbq | pbqScale | pbdq | join | lend
  | lexit | ltrap | lbrk | ldg | stg | stnt | ldp | stp | ldl | stl
  | ldk | pref | fpush | fpop | atomAdd | atomAnd | atomOr | atomXor | atomMin | atomMax
  | atomExch | atomFadd | atomFmin | atomFmax | acas | lr | sc | atompAdd | atompAnd | atompOr
  | atompXor | atompMin | atompMax | atompExch | atompFadd | atompFmin | atompFmax | nbrLeft | nbrRight | shfl
  | xput | bcst | scanAdd | scanMin | scanMax | scanAnd | scanOr | scanXor | scanChain | redAdd
  | redMin | redMax | redAnd | redOr | redXor | votelAny | votelAll | votelUniform | votelBallot | matchT
  | femkTest | femkEmpty | femkFull | xmovSet | xmovAdd | xmovRead | sreadlThread | sreadlPair | sreadlFlags | sreadlFlagsclr
  | zmov | zld
  deriving DecidableEq, Repr

/-- Every leaf instruction of the general form. -/
def LOp.all : List LOp := [
  .iadd, .isub, .imul, .imad, .imulh, .imin, .imax, .iabs, .and, .or,
  .xor, .shl, .shr, .sra, .rot, .clz, .popc, .brev, .bfe, .bfi,
  .icmp, .sel, .mov, .idp4, .plop, .fadd, .fsub, .fmul, .ffma, .fmin,
  .fmax, .fcmp, .fclass, .frcp, .frsq, .fsqrt, .fdiv, .fex2, .flg2, .fsin,
  .fcos, .fdot2, .fcvt, .f2i, .i2f, .pbq, .pbqScale, .pbdq, .join, .lend,
  .lexit, .ltrap, .lbrk, .ldg, .stg, .stnt, .ldp, .stp, .ldl, .stl,
  .ldk, .pref, .fpush, .fpop, .atomAdd, .atomAnd, .atomOr, .atomXor, .atomMin, .atomMax,
  .atomExch, .atomFadd, .atomFmin, .atomFmax, .acas, .lr, .sc, .atompAdd, .atompAnd, .atompOr,
  .atompXor, .atompMin, .atompMax, .atompExch, .atompFadd, .atompFmin, .atompFmax, .nbrLeft, .nbrRight, .shfl,
  .xput, .bcst, .scanAdd, .scanMin, .scanMax, .scanAnd, .scanOr, .scanXor, .scanChain, .redAdd,
  .redMin, .redMax, .redAnd, .redOr, .redXor, .votelAny, .votelAll, .votelUniform, .votelBallot, .matchT,
  .femkTest, .femkEmpty, .femkFull, .xmovSet, .xmovAdd, .xmovRead, .sreadlThread, .sreadlPair, .sreadlFlags, .sreadlFlagsclr,
  .zmov, .zld]

/-- The instruction with the given fields. -/
def LOp.instr : LOp → Leaf → Instr
  | .iadd, w => .iadd w
  | .isub, w => .isub w
  | .imul, w => .imul w
  | .imad, w => .imad w
  | .imulh, w => .imulh w
  | .imin, w => .imin w
  | .imax, w => .imax w
  | .iabs, w => .iabs w
  | .and, w => .and w
  | .or, w => .or w
  | .xor, w => .xor w
  | .shl, w => .shl w
  | .shr, w => .shr w
  | .sra, w => .sra w
  | .rot, w => .rot w
  | .clz, w => .clz w
  | .popc, w => .popc w
  | .brev, w => .brev w
  | .bfe, w => .bfe w
  | .bfi, w => .bfi w
  | .icmp, w => .icmp w
  | .sel, w => .sel w
  | .mov, w => .mov w
  | .idp4, w => .idp4 w
  | .plop, w => .plop w
  | .fadd, w => .fadd w
  | .fsub, w => .fsub w
  | .fmul, w => .fmul w
  | .ffma, w => .ffma w
  | .fmin, w => .fmin w
  | .fmax, w => .fmax w
  | .fcmp, w => .fcmp w
  | .fclass, w => .fclass w
  | .frcp, w => .frcp w
  | .frsq, w => .frsq w
  | .fsqrt, w => .fsqrt w
  | .fdiv, w => .fdiv w
  | .fex2, w => .fex2 w
  | .flg2, w => .flg2 w
  | .fsin, w => .fsin w
  | .fcos, w => .fcos w
  | .fdot2, w => .fdot2 w
  | .fcvt, w => .fcvt w
  | .f2i, w => .f2i w
  | .i2f, w => .i2f w
  | .pbq, w => .pbq w
  | .pbqScale, w => .pbqScale w
  | .pbdq, w => .pbdq w
  | .join, w => .join w
  | .lend, w => .lend w
  | .lexit, w => .lexit w
  | .ltrap, w => .ltrap w
  | .lbrk, w => .lbrk w
  | .ldg, w => .ldg w
  | .stg, w => .stg w
  | .stnt, w => .stnt w
  | .ldp, w => .ldp w
  | .stp, w => .stp w
  | .ldl, w => .ldl w
  | .stl, w => .stl w
  | .ldk, w => .ldk w
  | .pref, w => .pref w
  | .fpush, w => .fpush w
  | .fpop, w => .fpop w
  | .atomAdd, w => .atomAdd w
  | .atomAnd, w => .atomAnd w
  | .atomOr, w => .atomOr w
  | .atomXor, w => .atomXor w
  | .atomMin, w => .atomMin w
  | .atomMax, w => .atomMax w
  | .atomExch, w => .atomExch w
  | .atomFadd, w => .atomFadd w
  | .atomFmin, w => .atomFmin w
  | .atomFmax, w => .atomFmax w
  | .acas, w => .acas w
  | .lr, w => .lr w
  | .sc, w => .sc w
  | .atompAdd, w => .atompAdd w
  | .atompAnd, w => .atompAnd w
  | .atompOr, w => .atompOr w
  | .atompXor, w => .atompXor w
  | .atompMin, w => .atompMin w
  | .atompMax, w => .atompMax w
  | .atompExch, w => .atompExch w
  | .atompFadd, w => .atompFadd w
  | .atompFmin, w => .atompFmin w
  | .atompFmax, w => .atompFmax w
  | .nbrLeft, w => .nbrLeft w
  | .nbrRight, w => .nbrRight w
  | .shfl, w => .shfl w
  | .xput, w => .xput w
  | .bcst, w => .bcst w
  | .scanAdd, w => .scanAdd w
  | .scanMin, w => .scanMin w
  | .scanMax, w => .scanMax w
  | .scanAnd, w => .scanAnd w
  | .scanOr, w => .scanOr w
  | .scanXor, w => .scanXor w
  | .scanChain, w => .scanChain w
  | .redAdd, w => .redAdd w
  | .redMin, w => .redMin w
  | .redMax, w => .redMax w
  | .redAnd, w => .redAnd w
  | .redOr, w => .redOr w
  | .redXor, w => .redXor w
  | .votelAny, w => .votelAny w
  | .votelAll, w => .votelAll w
  | .votelUniform, w => .votelUniform w
  | .votelBallot, w => .votelBallot w
  | .matchT, w => .matchT w
  | .femkTest, w => .femkTest w
  | .femkEmpty, w => .femkEmpty w
  | .femkFull, w => .femkFull w
  | .xmovSet, w => .xmovSet w
  | .xmovAdd, w => .xmovAdd w
  | .xmovRead, w => .xmovRead w
  | .sreadlThread, w => .sreadlThread w
  | .sreadlPair, w => .sreadlPair w
  | .sreadlFlags, w => .sreadlFlags w
  | .sreadlFlagsclr, w => .sreadlFlagsclr w
  | .zmov, w => .zmov w
  | .zld, w => .zld w

/-- The leaf instruction of the general form that an instruction is, with its fields. -/
def leafOf : Instr → Option (LOp × Leaf)
  | .iadd w => some (.iadd, w)
  | .isub w => some (.isub, w)
  | .imul w => some (.imul, w)
  | .imad w => some (.imad, w)
  | .imulh w => some (.imulh, w)
  | .imin w => some (.imin, w)
  | .imax w => some (.imax, w)
  | .iabs w => some (.iabs, w)
  | .and w => some (.and, w)
  | .or w => some (.or, w)
  | .xor w => some (.xor, w)
  | .shl w => some (.shl, w)
  | .shr w => some (.shr, w)
  | .sra w => some (.sra, w)
  | .rot w => some (.rot, w)
  | .clz w => some (.clz, w)
  | .popc w => some (.popc, w)
  | .brev w => some (.brev, w)
  | .bfe w => some (.bfe, w)
  | .bfi w => some (.bfi, w)
  | .icmp w => some (.icmp, w)
  | .sel w => some (.sel, w)
  | .mov w => some (.mov, w)
  | .idp4 w => some (.idp4, w)
  | .plop w => some (.plop, w)
  | .fadd w => some (.fadd, w)
  | .fsub w => some (.fsub, w)
  | .fmul w => some (.fmul, w)
  | .ffma w => some (.ffma, w)
  | .fmin w => some (.fmin, w)
  | .fmax w => some (.fmax, w)
  | .fcmp w => some (.fcmp, w)
  | .fclass w => some (.fclass, w)
  | .frcp w => some (.frcp, w)
  | .frsq w => some (.frsq, w)
  | .fsqrt w => some (.fsqrt, w)
  | .fdiv w => some (.fdiv, w)
  | .fex2 w => some (.fex2, w)
  | .flg2 w => some (.flg2, w)
  | .fsin w => some (.fsin, w)
  | .fcos w => some (.fcos, w)
  | .fdot2 w => some (.fdot2, w)
  | .fcvt w => some (.fcvt, w)
  | .f2i w => some (.f2i, w)
  | .i2f w => some (.i2f, w)
  | .pbq w => some (.pbq, w)
  | .pbqScale w => some (.pbqScale, w)
  | .pbdq w => some (.pbdq, w)
  | .join w => some (.join, w)
  | .lend w => some (.lend, w)
  | .lexit w => some (.lexit, w)
  | .ltrap w => some (.ltrap, w)
  | .lbrk w => some (.lbrk, w)
  | .ldg w => some (.ldg, w)
  | .stg w => some (.stg, w)
  | .stnt w => some (.stnt, w)
  | .ldp w => some (.ldp, w)
  | .stp w => some (.stp, w)
  | .ldl w => some (.ldl, w)
  | .stl w => some (.stl, w)
  | .ldk w => some (.ldk, w)
  | .pref w => some (.pref, w)
  | .fpush w => some (.fpush, w)
  | .fpop w => some (.fpop, w)
  | .atomAdd w => some (.atomAdd, w)
  | .atomAnd w => some (.atomAnd, w)
  | .atomOr w => some (.atomOr, w)
  | .atomXor w => some (.atomXor, w)
  | .atomMin w => some (.atomMin, w)
  | .atomMax w => some (.atomMax, w)
  | .atomExch w => some (.atomExch, w)
  | .atomFadd w => some (.atomFadd, w)
  | .atomFmin w => some (.atomFmin, w)
  | .atomFmax w => some (.atomFmax, w)
  | .acas w => some (.acas, w)
  | .lr w => some (.lr, w)
  | .sc w => some (.sc, w)
  | .atompAdd w => some (.atompAdd, w)
  | .atompAnd w => some (.atompAnd, w)
  | .atompOr w => some (.atompOr, w)
  | .atompXor w => some (.atompXor, w)
  | .atompMin w => some (.atompMin, w)
  | .atompMax w => some (.atompMax, w)
  | .atompExch w => some (.atompExch, w)
  | .atompFadd w => some (.atompFadd, w)
  | .atompFmin w => some (.atompFmin, w)
  | .atompFmax w => some (.atompFmax, w)
  | .nbrLeft w => some (.nbrLeft, w)
  | .nbrRight w => some (.nbrRight, w)
  | .shfl w => some (.shfl, w)
  | .xput w => some (.xput, w)
  | .bcst w => some (.bcst, w)
  | .scanAdd w => some (.scanAdd, w)
  | .scanMin w => some (.scanMin, w)
  | .scanMax w => some (.scanMax, w)
  | .scanAnd w => some (.scanAnd, w)
  | .scanOr w => some (.scanOr, w)
  | .scanXor w => some (.scanXor, w)
  | .scanChain w => some (.scanChain, w)
  | .redAdd w => some (.redAdd, w)
  | .redMin w => some (.redMin, w)
  | .redMax w => some (.redMax, w)
  | .redAnd w => some (.redAnd, w)
  | .redOr w => some (.redOr, w)
  | .redXor w => some (.redXor, w)
  | .votelAny w => some (.votelAny, w)
  | .votelAll w => some (.votelAll, w)
  | .votelUniform w => some (.votelUniform, w)
  | .votelBallot w => some (.votelBallot, w)
  | .matchT w => some (.matchT, w)
  | .femkTest w => some (.femkTest, w)
  | .femkEmpty w => some (.femkEmpty, w)
  | .femkFull w => some (.femkFull, w)
  | .xmovSet w => some (.xmovSet, w)
  | .xmovAdd w => some (.xmovAdd, w)
  | .xmovRead w => some (.xmovRead, w)
  | .sreadlThread w => some (.sreadlThread, w)
  | .sreadlPair w => some (.sreadlPair, w)
  | .sreadlFlags w => some (.sreadlFlags, w)
  | .sreadlFlagsclr w => some (.sreadlFlagsclr, w)
  | .zmov w => some (.zmov, w)
  | .zld w => some (.zld, w)
  | _ => none

/-- Why a word is no instruction (R41, R59). -/
inductive Reject where
  | reservedOpcode | reservedSelector | fieldNotZero | blockPastA31 | badCount | badLimit
  | reservedType | reservedOperand | reservedRounding | reservedImmediate | reservedControl | reservedCombination
  | badPrefix | badCompactForm | shortBytes
  deriving DecidableEq, Repr

/-- What a small constant of an operand is converted to (R47): the instruction's type, a 64-bit integer, the
converter's other format, or f32. -/
inductive ConstTy where
  | own | int64 | srcFmt | f32
  deriving DecidableEq, Repr

/-- The role of a leaf operand field (R53, R118, R119). -/
inductive Role where
  | unused
  | absent
  | src (t : ConstTy)
  | srcOpt (t : ConstTy)
  | laneReg
  | laneRegTo120
  | regOrIndexed
  | regOrIndexedOpt
  | predSrc
  | predSrcOpt
  | predDest
  | predDestOpt
  | predOrLane
  deriving DecidableEq, Repr

/-- The entry of a leaf instruction of the general form. `opx` is func[15:11]: `opxFix` are the bits that the
mnemonic fixes and `opxFree` the bits left to the instruction. -/
structure LSpec where
  op : Nat
  types : List Ty
  d : Role := .regOrIndexed
  s1 : Role := .unused
  s2 : Role := .unused
  s3 : Role := .unused
  s4 : Role := .unused
  imm : Bool := false
  hint : Bool := false
  slot : Bool := false
  emZero : Bool := false
  opxFix : BitVec 5 := 0
  opxFree : BitVec 5 := 0
  sel : Nat := 0
  cond : Nat := 0
  sgn : Bool := false
  sat : Bool := false
  rm : Nat := 0
  deriving DecidableEq, Repr

namespace LSpec

/-- b64 b32 b16 b8. -/
def ints : List Ty := [.b64, .b32, .b16, .b8]
/-- f64 f32 f16 bf16. -/
def floats : List Ty := [.f64, .f32, .f16, .bf16]
/-- The formats of `FCVT`. -/
def cvts : List Ty := [.f64, .f32, .f16, .bf16, .e4m3, .e5m2]
/-- The types of the approximated functions without f64. -/
def floats3 : List Ty := [.f32, .f16, .bf16]
/-- The block formats. -/
def pbs : List Ty := [.pb8, .pb6, .pb4]

/-- Integer instruction of one source (R120). -/
def int1 (op : Nat) : LSpec := { op, types := ints, s1 := .src .own }
/-- Integer instruction of two sources (R120). -/
def int2 (op : Nat) : LSpec := { op, types := ints, s1 := .src .own, s2 := .src .own, imm := true }
/-- Integer instruction of three sources (R120). -/
def int3 (op : Nat) : LSpec := { op, types := ints, s1 := .src .own, s2 := .src .own, s3 := .src .own }
/-- Float instruction of one source (R128). -/
def flt1 (op : Nat) (ts : List Ty := floats) : LSpec := { op, types := ts, s1 := .src .own }
/-- Float instruction of two sources (R128). -/
def flt2 (op : Nat) : LSpec := { op, types := floats, s1 := .src .own, s2 := .src .own }
/-- Leaf control without operands (R141). -/
def ctl0 (op : Nat) : LSpec :=
  { op, types := [.b64], d := .absent, s1 := .absent, s2 := .absent, s3 := .absent, s4 := .absent, emZero := true }
/-- A load (R209). -/
def load (op : Nat) : LSpec :=
  { op, types := ints, s1 := .src .int64, s2 := .srcOpt .int64, imm := true, hint := true, sgn := true }
/-- A store (R209). -/
def store (op : Nat) (slot : Bool := false) : LSpec :=
  { op, types := ints, d := .absent, s1 := .src .int64, s2 := .srcOpt .int64, s4 := .src .own, imm := true,
    hint := true, slot }
/-- An atomic of the integer operations 0 to 6 (R318). -/
def atom (op : Nat) (f : BitVec 5) (slot : Bool) (sgn : Bool := false) : LSpec :=
  { op, types := [.b64, .b32], d := .regOrIndexedOpt, s1 := .src .int64, s2 := .srcOpt .int64, s4 := .src .own,
    imm := true, hint := true, slot, opxFix := f, sgn }
/-- An atomic of the float operations 7 to 9 (R318). -/
def fatom (op : Nat) (f : BitVec 5) (slot : Bool) : LSpec := { atom op f slot with types := [.f64, .f32] }
/-- A scan without chain (R169, R179). -/
def scan (f : BitVec 5) (ts : List Ty) (sgn : Bool) (rm : Nat) : LSpec :=
  { op := 0x84, types := ts, d := .laneReg, s1 := .src .own, s2 := .srcOpt .own, imm := true, opxFix := f,
    opxFree := 0b01000#5, sgn, rm }
/-- A reduction (R169, R179). -/
def red (f : BitVec 5) (ts : List Ty) (sgn : Bool) (rm : Nat) : LSpec :=
  { op := 0x85, types := ts, s1 := .src .own, s2 := .srcOpt .own, imm := true, opxFix := f, sgn, rm }
/-- A vote (R169, R183). -/
def votel (f : BitVec 5) (d : Role) : LSpec :=
  { op := 0x86, types := [.b64], d, s1 := .predSrc, opxFix := f }

end LSpec

open LSpec in
/-- The entry of each leaf instruction. A source that R169's table calls "lane" (s1 of `XPUT`, `SCAN`, `RED` and `MATCH`)
takes a uniform too, as any source does (DEDUCED, log entry 119). -/
def LOp.spec : LOp → LSpec
  -- R120
  | .iadd => { int2 0x00 with sgn := true, sat := true }
  | .isub => { int2 0x01 with sgn := true, sat := true }
  | .imul => { int2 0x02 with sgn := true, sat := true }
  | .imad => { int3 0x03 with sgn := true, sat := true }
  | .imulh => { int2 0x04 with sgn := true }
  | .imin => { int2 0x05 with sgn := true }
  | .imax => { int2 0x06 with sgn := true }
  | .iabs => { int1 0x07 with sat := true }
  | .and => int2 0x08
  | .or => int2 0x09
  | .xor => int2 0x0A
  | .shl => int2 0x0B
  | .shr => int2 0x0C
  | .sra => int2 0x0D
  | .rot => int2 0x0E
  | .clz => int1 0x0F
  | .popc => int1 0x10
  | .brev => int1 0x11
  | .bfe => { int3 0x12 with sgn := true }
  | .bfi => { int3 0x13 with s4 := .src .own }
  | .icmp => { int2 0x14 with d := .predOrLane, cond := 9, opxFree := 1 }
  | .sel => { op := 0x15, types := [.b64], s1 := .src .own, s2 := .src .own, s3 := .predSrc }
  | .mov => { op := 0x16, types := ints, s1 := .srcOpt .own, imm := true }
  | .idp4 => { int3 0x18 with types := [.b32], sgn := true, sat := true, opxFree := 1 }
  | .plop => { op := 0x19, types := [.b64], d := .predDest, s1 := .predSrc, s2 := .predSrcOpt, opxFree := 0b01111#5 }
  -- R128
  | .fadd => { flt2 0x20 with rm := 5 }
  | .fsub => { flt2 0x21 with rm := 5 }
  | .fmul => { flt2 0x22 with rm := 5 }
  | .ffma => { flt2 0x23 with s3 := .src .own, rm := 5 }
  | .fmin => flt2 0x24
  | .fmax => flt2 0x25
  | .fcmp => { flt2 0x26 with d := .predOrLane, cond := 7, opxFree := 1 }
  | .fclass => flt1 0x27
  | .frcp => flt1 0x28
  | .frsq => flt1 0x29
  | .fsqrt => { flt1 0x2A with rm := 5 }
  | .fdiv => { flt2 0x2B with rm := 5 }
  | .fex2 => flt1 0x2C floats3
  | .flg2 => flt1 0x2D floats3
  | .fsin => flt1 0x2E floats3
  | .fcos => flt1 0x2F floats3
  | .fdot2 => { flt2 0x30 with types := [.f16, .bf16], s3 := .src .f32, rm := 5 }
  -- R156-R161
  | .fcvt => { op := 0x40, types := cvts, s1 := .src .srcFmt, s2 := .srcOpt .own, opxFree := 0b01111#5, sel := 3,
               sat := true, rm := 6 }
  | .f2i => { op := 0x41, types := ints, s1 := .src .srcFmt, s2 := .srcOpt .own, opxFree := 0b01111#5, sel := 3,
              sgn := true, rm := 5 }
  | .i2f => { op := 0x42, types := floats, s1 := .src .srcFmt, s2 := .srcOpt .own, opxFree := 0b01111#5, sel := 3,
              sgn := true, sat := true, rm := 6 }
  | .pbq => { op := 0x43, types := pbs, s1 := .src .srcFmt, s2 := .src .own, s3 := .srcOpt .own,
              opxFree := 0b11100#5, sel := 3, rm := 6 }
  | .pbqScale => { op := 0x43, types := pbs, s1 := .src .srcFmt, s2 := .srcOpt .srcFmt, s3 := .srcOpt .own,
                   opxFix := 1, opxFree := 0b01100#5 }
  | .pbdq => { op := 0x44, types := pbs, s1 := .src .own, s2 := .src .own, opxFree := 0b11100#5, sel := 3, sat := true,
               rm := 5 }
  -- R141, R143
  | .join => ctl0 0x51
  | .lend => ctl0 0x52
  | .lexit => ctl0 0x53
  | .ltrap => { op := 0x54, types := [.b64], d := .absent, s1 := .absent, s4 := .absent, imm := true }
  | .lbrk => ctl0 0x55
  -- R209, R215, R216, R323
  | .ldg => load 0x60
  | .stg => store 0x61 true
  | .stnt => store 0x62 true
  | .ldp => load 0x63
  | .stp => store 0x64
  | .ldl => load 0x65
  | .stl => store 0x66
  | .ldk => load 0x67
  | .pref => { store 0x6F with types := [.b64], s4 := .unused }
  | .fpush => { op := 0x68, types := [.b64], d := .absent, s1 := .src .int64, s4 := .src .own }
  | .fpop => { op := 0x69, types := [.b64], s1 := .src .int64 }
  -- R318
  | .atomAdd => atom 0x6A 0 true
  | .atomAnd => atom 0x6A 1 true
  | .atomOr => atom 0x6A 2 true
  | .atomXor => atom 0x6A 3 true
  | .atomMin => atom 0x6A 4 true true
  | .atomMax => atom 0x6A 5 true true
  | .atomExch => atom 0x6A 6 true
  | .atomFadd => fatom 0x6A 7 true
  | .atomFmin => fatom 0x6A 8 true
  | .atomFmax => fatom 0x6A 9 true
  | .acas => { op := 0x6B, types := [.b64, .b32], s1 := .src .int64, s2 := .srcOpt .int64, s3 := .src .own,
               s4 := .src .own, hint := true, slot := true }
  | .lr => { load 0x6C with types := [.b64, .b32] }
  | .sc => { op := 0x6D, types := [.b64, .b32], s1 := .src .int64, s2 := .srcOpt .int64, s4 := .src .own, imm := true,
             hint := true, slot := true }
  | .atompAdd => atom 0x6E 0 false
  | .atompAnd => atom 0x6E 1 false
  | .atompOr => atom 0x6E 2 false
  | .atompXor => atom 0x6E 3 false
  | .atompMin => atom 0x6E 4 false true
  | .atompMax => atom 0x6E 5 false true
  | .atompExch => atom 0x6E 6 false
  | .atompFadd => fatom 0x6E 7 false
  | .atompFmin => fatom 0x6E 8 false
  | .atompFmax => fatom 0x6E 9 false
  -- R169
  | .nbrLeft => { op := 0x80, types := [.b64], s1 := .laneReg, s2 := .src .own, imm := true }
  | .nbrRight => { op := 0x80, types := [.b64], s1 := .laneReg, s2 := .src .own, imm := true, opxFix := 1 }
  | .shfl => { op := 0x81, types := ints, s1 := .laneReg, s2 := .src .own, opxFree := 1 }
  | .xput => { op := 0x82, types := ints, d := .laneReg, s1 := .src .own, s2 := .src .own, s3 := .predDestOpt,
               opxFree := 1 }
  | .bcst => { op := 0x83, types := ints, s1 := .laneReg, s2 := .src .int64, s3 := .srcOpt .int64, imm := true }
  | .scanAdd => scan 0 (ints ++ floats) false 4
  | .scanMin => scan 1 (ints ++ floats) true 0
  | .scanMax => scan 2 (ints ++ floats) true 0
  | .scanAnd => scan 3 ints false 0
  | .scanOr => scan 4 ints false 0
  | .scanXor => scan 5 ints false 0
  | .scanChain => { scan 0b10000#5 (ints ++ floats) true 4 with opxFree := 0b00111#5 }
  | .redAdd => red 0 (ints ++ floats) false 4
  | .redMin => red 1 (ints ++ floats) true 0
  | .redMax => red 2 (ints ++ floats) true 0
  | .redAnd => red 3 ints false 0
  | .redOr => red 4 ints false 0
  | .redXor => red 5 ints false 0
  | .votelAny => votel 0 .predDest
  | .votelAll => votel 1 .predDest
  | .votelUniform => votel 2 .predDest
  | .votelBallot => votel 3 .regOrIndexed
  | .matchT => { op := 0x87, types := [.b64, .b32], s1 := .src .own, sel := 1 }
  -- R113, R110, R154, R258
  | .femkTest => { op := 0x90, types := [.b64], d := .predDest, s1 := .regOrIndexed }
  | .femkEmpty => { op := 0x90, types := [.b64], opxFix := 1, opxFree := 0b11100#5 }
  | .femkFull => { op := 0x90, types := [.b64], opxFix := 2, opxFree := 0b11100#5 }
  | .xmovSet => { op := 0x91, types := [.b64], d := .absent, s1 := .src .int64, opxFree := 0b00011#5 }
  | .xmovAdd => { op := 0x91, types := [.b64], d := .absent, s1 := .src .int64, opxFix := 0b01000#5,
                  opxFree := 0b00011#5 }
  | .xmovRead => { op := 0x91, types := [.b64], opxFix := 0b10000#5, opxFree := 0b00011#5 }
  | .sreadlThread => { op := 0x92, types := [.b64], opxFix := 0 }
  | .sreadlPair => { op := 0x92, types := [.b64], opxFix := 1 }
  | .sreadlFlags => { op := 0x92, types := [.b64], opxFix := 2 }
  | .sreadlFlagsclr => { op := 0x92, types := [.b64], opxFix := 3 }
  | .zmov => { op := 0x93, types := [.f32, .b32], d := .laneRegTo120, s2 := .src .int64, imm := true, opxFree := 1 }
  | .zld => { op := 0x94, types := [.f32, .b32], d := .absent, s1 := .laneRegTo120, s2 := .src .int64, imm := true }

/-- An integer type (R147). -/
def Ty.isInt (t : Ty) : Bool := LSpec.ints.contains t
/-- A block format (R148). -/
def Ty.isPb (t : Ty) : Bool := LSpec.pbs.contains t

/-- Width of a sub-element, or of a block element (R118, R148). -/
def Ty.width : Ty → Nat
  | .b64 | .f64 => 64
  | .b32 | .f32 => 32
  | .b16 | .f16 | .bf16 => 16
  | .b8 | .e4m3 | .e5m2 | .pb8 => 8
  | .pb6 => 6
  | .pb4 => 4

/-- The type field's code (R48). -/
def Ty.code : Ty → Nat
  | .b64 => 0 | .b32 => 1 | .b16 => 2 | .b8 => 3 | .f64 => 4 | .f32 => 5 | .f16 => 6 | .bf16 => 7
  | .e4m3 => 8 | .e5m2 => 9 | .pb8 => 10 | .pb6 => 11 | .pb4 => 12

/-- The type of a code (R48); 0xD to 0xF are reserved. -/
def Ty.ofCode : Nat → Option Ty
  | 0 => some .b64 | 1 => some .b32 | 2 => some .b16 | 3 => some .b8 | 4 => some .f64 | 5 => some .f32
  | 6 => some .f16 | 7 => some .bf16 | 8 => some .e4m3 | 9 => some .e5m2 | 10 => some .pb8 | 11 => some .pb6
  | 12 => some .pb4 | _ => none

/-- The other format of a converter: func[14:11] of `FCVT`, `F2I` and `I2F` (R156-R158), func[14:13] of `PBQ` and
`PBDQ` (R159, R161). -/
def srcFormat (o : LOp) (opx : BitVec 5) : Option Ty :=
  match o with
  | .fcvt | .f2i | .i2f => Ty.ofCode (opx.toNat % 16)
  | .pbq | .pbqScale | .pbdq =>
    match opx.toNat / 4 % 4 with
    | 0 => some .f32
    | 1 => some .f16
    | 2 => some .bf16
    | _ => none
  | _ => none

/-- The type that a small constant of the operand is converted to (R47). -/
def ConstTy.ty (o : LOp) (w : Leaf) : ConstTy → Option Ty
  | .own => some w.ty
  | .int64 => some .b64
  | .srcFmt => srcFormat o w.opx
  | .f32 => some .f32

/-- Small constant `n` is allowed in an operand of the type (R47). -/
def constOk (n : BitVec 5) : Option Ty → Bool
  | none => false
  | some t =>
    if Ty.isPb t then false else if Ty.isInt t then decide (n.toNat < 24) else !(t == .e4m3 && n == 31)

/-- The operand has a kind that the role allows (R53). -/
def Role.ok (o : LOp) (w : Leaf) (r : Role) (x : Opnd) : Bool :=
  match r, x with
  | .unused, .none => true
  | .absent, .none => true
  | .src _, .lane _ => true
  | .src _, .indexed _ _ => true
  | .src _, .areg _ => true
  | .src t, .const n => constOk n (t.ty o w)
  | .srcOpt _, .none => true
  | .srcOpt _, .lane _ => true
  | .srcOpt _, .indexed _ _ => true
  | .srcOpt _, .areg _ => true
  | .srcOpt t, .const n => constOk n (t.ty o w)
  | .laneReg, .lane _ => true
  | .laneRegTo120, .lane n => decide (n.toNat ≤ 120)
  | .regOrIndexed, .lane _ => true
  | .regOrIndexed, .indexed _ _ => true
  | .regOrIndexedOpt, .lane _ => true
  | .regOrIndexedOpt, .indexed _ _ => true
  | .regOrIndexedOpt, .none => true
  | .predSrc, .pred _ => true
  | .predSrcOpt, .pred _ => true
  | .predSrcOpt, .none => true
  | .predDest, .pred p => p != 7
  | .predDestOpt, .pred p => p != 7
  | .predDestOpt, .none => true
  | .predOrLane, .pred p => p != 7
  | .predOrLane, .lane _ => true
  | .predOrLane, .indexed _ _ => true
  | _, _ => false

/-- Lane-register and indexed operands have a full/empty state; only their em bit is read (R45). -/
def Opnd.hasEm : Opnd → Bool
  | .lane _ => true
  | .indexed _ _ => true
  | _ => false

/-- The em bits that mean something: those of lane-register and indexed sources (R45, R53). -/
def emMask (w : Leaf) (em : BitVec 4) : BitVec 4 :=
  em &&& BitVec.ofNat 4 ((if Opnd.hasEm w.s1 then 1 else 0) + (if Opnd.hasEm w.s2 then 2 else 0) +
    (if Opnd.hasEm w.s3 then 4 else 0) + (if Opnd.hasEm w.s4 then 8 else 0))

/-- Rounding mode's code (R150). -/
def RMode.code : RMode → Nat
  | .rne => 0 | .rtz => 1 | .rdn => 2 | .rup => 3 | .rna => 4 | .sr => 5 | .rto => 6

/-- The rounding mode of a code; 7 is reserved (R50). -/
def RMode.ofCode : Nat → Option RMode
  | 0 => some .rne | 1 => some .rtz | 2 => some .rdn | 3 => some .rup | 4 => some .rna | 5 => some .sr
  | 6 => some .rto | _ => none

/-- The position p of a converter (R155). -/
def convPos (w : Leaf) : Nat := w.sel.toNat + (if w.opx.getLsbD 4 then 4 else 0)

/-- The merge field of a converter that does not narrow is unused (R155). -/
def s2Unused (o : LOp) (ty : Option Ty) (opx : BitVec 5) : Bool :=
  match o, ty, srcFormat o opx with
  | .fcvt, some d, some s => decide (Ty.width s ≤ Ty.width d)
  | .f2i, some d, some s => decide (Ty.width s ≤ Ty.width d)
  | .i2f, some d, some s => decide (Ty.width s ≤ Ty.width d)
  | _, _, _ => false

/-- Formats, position and merge source of `FCVT`, `F2I` and `I2F` (R155-R158). -/
def convOk (src : Option Ty) (oks : List Ty) (w : Leaf) : Bool :=
  match src with
  | none => false
  | some s =>
    let ws := Ty.width s
    let wd := Ty.width w.ty
    oks.contains s && s != w.ty && ws != 8 * wd && wd != 8 * ws && decide (convPos w < max ws wd / min ws wd)
      && (decide (wd < ws) || w.s2 == .none)

/-- Elements that one `PBQ` or `PBDQ` converts (R159, R161). -/
def pbCount : Option Ty → Nat
  | some .f32 => 2
  | _ => 4

/-- PB elements that a lane register holds (R149). -/
def pbCapacity : Ty → Nat
  | .pb4 => 16
  | _ => 8

/-- A `PBQ` or `PBDQ` position within the register (R159, R161). -/
def pbPosOk (o : LOp) (w : Leaf) : Bool :=
  let n := pbCount (srcFormat o w.opx)
  decide (convPos w * n + n ≤ pbCapacity w.ty)

/-- The combination rules of SCAN and RED (R179, R181). -/
def foldOk (op : Nat) (w : Leaf) : Bool :=
  decide (op < 6) && (Ty.isInt w.ty || decide (op < 3)) && (Ty.isInt w.ty || w.imm.isNone)
    && (w.rm == .rne || (!Ty.isInt w.ty && op == 0))
    && (!w.sgn || (Ty.isInt w.ty && (op == 1 || op == 2)))

/-- The checks of an entry that join several fields. -/
def extraOk (o : LOp) (w : Leaf) : Bool :=
  match o with
  | .iadd | .isub | .imul | .imad => !w.sgn || w.sat
  | .icmp | .fcmp =>
    match w.d with
    | .pred _ => true
    | _ => w.opx == 0
  | .mov => w.imm.isSome == (w.s1 == .none)
  | .idp4 => w.opx == 0 || w.sgn
  | .fcvt => convOk (srcFormat o w.opx) LSpec.cvts w
  | .f2i => convOk (srcFormat o w.opx) LSpec.floats w
  | .i2f => convOk (srcFormat o w.opx) LSpec.ints w
  | .pbq | .pbdq => (srcFormat o w.opx).isSome && pbPosOk o w
  | .pbqScale => (srcFormat o w.opx).isSome
  | .ltrap =>
    match w.imm with
    | some i => decide (i.toNat < 65536)
    | none => false
  | .ldg | .ldp | .ldl | .ldk => !w.sgn || w.ty != .b64
  | .lr => !w.sgn || w.ty == .b32
  | .bcst =>
    match w.imm with
    | some i => decide (i.toNat < 256)
    | none => true
  | .zmov | .zld =>
    match w.imm with
    | some i => decide (i.toNat < 64)
    | none => true
  | .femkEmpty | .femkFull =>
    match w.d with
    | .indexed _ _ => w.opx == 0
    | _ => true
  | .scanAdd | .redAdd => foldOk 0 w
  | .scanMin | .redMin => foldOk 1 w
  | .scanMax | .redMax => foldOk 2 w
  | .scanAnd | .redAnd => foldOk 3 w
  | .scanOr | .redOr => foldOk 4 w
  | .scanXor | .redXor => foldOk 5 w
  | .scanChain => foldOk w.opx.toNat w
  | .matchT => w.sel == 0 || w.ty == .b32
  | _ => true

/-- The first rule of R44 to R54 that the instruction's fields break, if any. -/
def LOp.check (o : LOp) (w : Leaf) : Option Reject :=
  let p := o.spec
  if !p.types.contains w.ty then some .reservedType
  else if decide (p.rm < RMode.code w.rm) then some .reservedRounding
  else if (w.sgn && !p.sgn) || (w.sat && !p.sat) || decide (p.cond < w.cond.toNat) || decide (p.sel < w.sel.toNat)
      || w.opx &&& ~~~p.opxFree != 0 then some .reservedSelector
  else if w.imm.isSome && !p.imm then some .reservedImmediate
  else if (w.hint != .normal && !p.hint) || (w.slot != 0 && !p.slot) then some .reservedControl
  else if w.imm.isSome && (w.s2 != .none || w.s3 != .none) then some .reservedImmediate
  else if !Role.ok o w p.d w.d || !Role.ok o w p.s1 w.s1 || !(w.imm.isSome || Role.ok o w p.s2 w.s2)
      || !(w.imm.isSome || Role.ok o w p.s3 w.s3) || !Role.ok o w p.s4 w.s4 then some .reservedOperand
  else if !extraOk o w then some .reservedCombination
  else none

/-- A leaf instruction of the general form that some word encodes: its entry's rules hold, and em is clear where it
means nothing. -/
def LOp.wf (o : LOp) (w : Leaf) : Bool :=
  (LOp.check o w).isNone && decide (emMask w w.em = w.em)

end Sys2Proof.Machine
end

