-- ==== Sys2Proof/WellFormed.lean ====
section
/-! DEFINITION. Which instructions some word encodes: a stem word's counts, limits, slots and register blocks
(R37-R41, R103, R108, R239, R243, R265, R270, R340), a leaf word's fields (R44-R54). The device's and the host's
events carry no encoding; every event is well formed. -/
namespace Sys2Proof

/-- A register block a[b] to a[b + n - 1] lies within a0 to a31 (R40). -/
def blockOk (b : BitVec 5) (n : Nat) : Bool := decide (b.toNat + n ≤ 32)

/-- The imm21 field of `CP`, `CP2` and `GTH` is not reserved (R265). -/
def EngMods.ok (m : EngMods) (gth : Bool) : Bool :=
  (m.cw || !m.cwsp) && (if gth then m.q == 0 else !m.i64 && !m.isp)

/-- Number of set bits of a register mask (R52). -/
def maskCount (m : BitVec 16) : Nat := ((List.range 16).filter (fun i => m.getLsbD i)).length

/-- The operand kinds of a `GRFT` address (R357). -/
def grftSrcOk : Opnd → Bool
  | .lane _ => true
  | .indexed _ _ => true
  | .areg _ => true
  | .const n => decide (n.toNat < 24)
  | _ => false

/-- The condition operand of `BRA` (R138). -/
def braSrcOk : Opnd → Bool
  | .pred _ => true
  | .none => true
  | _ => false

/-- A lane destination that is a lane register or an indexed field (R115). -/
def laneDestOk : Opnd → Bool
  | .lane _ => true
  | .indexed _ _ => true
  | _ => false

/-- Some word encodes the instruction, or it is an event. -/
def Instr.wf (i : Instr) : Bool :=
  match i with
  | .cp b m => blockOk b 6 && m.ok false
  | .cp2 b m => blockOk b 8 && m.ok false
  | .gth b m => blockOk b 6 && m.ok true
  | .qjoin m => m != 0
  | .waita b _ _ => blockOk b 2
  | .task b => blockOk b 2
  | .tgraph b => blockOk b 2
  | .tgraphResume b => blockOk b 2
  | .obres b u _ => blockOk b 4 && u != 0 && decide (u.toNat ≤ 128)
  | .mx b k _ _ _ _ _ => blockOk b 4 && k != 0
  | .grow n => n != 0 && decide (n.toNat ≤ 16)
  | .shrink n => n != 0 && decide (n.toNat ≤ 16)
  | .xset _ l b => decide (l.toNat ≤ 128) && decide (b.toNat + l.toNat ≤ 128)
  | .strmBind w _ => w != 0
  | .mqpush b _ _ => blockOk b 3
  | .mqpop b _ _ => blockOk b 2
  | .mredFadd b _ => blockOk b 4
  | .mredBfadd b _ => blockOk b 4
  | .mredIadd b _ => blockOk b 4
  | .mredFmax b _ => blockOk b 4
  | .mredFmin b _ => blockOk b 4
  | .kload b => blockOk b 3
  | .moviLane _ ty d _ => (ty == .b64 || ty == .b32 || ty == .f32) && laneDestOk d
  | .bra _ s _ _ => braSrcOk s
  | .grft _ s m _ _ _ => grftSrcOk s && m != 0 && decide (maskCount m ≤ 8)
  | .gret c => !c.g1n && c.g1 == 7 && !c.g2n && c.g2 == 7
  | i =>
    match Machine.leafOf i with
    | some (o, w) => Machine.LOp.wf o w
    | none => true

end Sys2Proof
end

