-- ==== Sys2Proof/Decode.lean ====
section
/-! DEFINITION. The decoder of stem words (R34-R41) and of stored leaf instructions (R43-R60), total on any bits and
rejecting by name, and the encoder, written from the same tables. -/
namespace Sys2Proof
open Machine (Reject LOp)

/-- The field of `n` bits at bit `lo`. -/
def fld (w lo n : Nat) : Nat := w / 2 ^ lo % 2 ^ n

/-- Fields joined into a word, least significant first: each entry is a width and a value below 2^width. -/
def joinFields : List (Nat × Nat) → Nat
  | [] => 0
  | (n, v) :: r => v + 2 ^ n * joinFields r

/-- A register field. -/
def reg5 (w lo : Nat) : BitVec 5 := BitVec.ofNat 5 (fld w lo 5)

/-- An instruction, unless a rule is broken. -/
def okIf (b : Bool) (r : Reject) (i : Instr) : Except Reject Instr := if b then .ok i else .error r

/-- The integer condition of a code (R49). -/
def IntCond.ofCode : Nat → Option IntCond
  | 0 => some .eq | 1 => some .ne | 2 => some .lt | 3 => some .le | 4 => some .gt | 5 => some .ge
  | 6 => some .ltu | 7 => some .leu | 8 => some .gtu | 9 => some .geu | _ => none

/-- The code of an integer condition (R49). -/
def IntCond.code : IntCond → Nat
  | .eq => 0 | .ne => 1 | .lt => 2 | .le => 3 | .gt => 4 | .ge => 5 | .ltu => 6 | .leu => 7 | .gtu => 8 | .geu => 9

/-- The special register of a number (R79). -/
def SReg.ofCode : Nat → Option SReg
  | 0 => some .group | 1 => some .wg | 2 => some .cluster | 3 => some .ngroups | 4 => some .nwg
  | 5 => some .nclusters | 6 => some .task | 7 => some .core | 8 => some .grove | 9 => some .die | 10 => some .pkg
  | 11 => some .pts | 12 => some .cycle | 13 => some .rcb | 14 => some .args | 15 => some .localp
  | 16 => some .srseed | 17 => some .faultCode | 18 => some .faultAddr | 19 => some .active | 20 => some .lease
  | _ => none

/-- The number of a special register (R79). -/
def SReg.code : SReg → Nat
  | .group => 0 | .wg => 1 | .cluster => 2 | .ngroups => 3 | .nwg => 4 | .nclusters => 5 | .task => 6 | .core => 7
  | .grove => 8 | .die => 9 | .pkg => 10 | .pts => 11 | .cycle => 12 | .rcb => 13 | .args => 14 | .localp => 15
  | .srseed => 16 | .faultCode => 17 | .faultAddr => 18 | .active => 19 | .lease => 20

/-- The condition of `WAITA` by its code (R218). -/
def WaitCond.ofCode : Nat → WaitCond
  | 0 => .eq | 1 => .ne | 2 => .geu | _ => .ge

/-- The code of a `WAITA` condition (R218). -/
def WaitCond.code : WaitCond → Nat
  | .eq => 0 | .ne => 1 | .geu => 2 | .ge => 3

/-- The source of A by its code (R243). -/
def ASrc.ofCode : Nat → Option ASrc
  | 0 => some .ob | 1 => some .sp | 2 => some .lr | _ => none

/-- The code of a source of A (R243). -/
def ASrc.code : ASrc → Nat
  | .ob => 0 | .sp => 1 | .lr => 2

/-- A bit of a word. -/
def bitAt (w lo : Nat) : Bool := fld w lo 1 == 1

/-- A bit as a field value. -/
def bitVal (b : Bool) : Nat := if b then 1 else 0

/-- The imm21 field of `CP`, `CP2` and `GTH` (R265). -/
def EngMods.ofWord (w : Nat) : EngMods :=
  { i64 := bitAt w 12, isp := bitAt w 11, slot := BitVec.ofNat 3 (fld w 8 3), key := bitAt w 7, cwsp := bitAt w 6,
    txb := bitAt w 5, cw := bitAt w 4, ssp := bitAt w 3, dsp := bitAt w 2, q := BitVec.ofNat 2 (fld w 0 2) }

/-- The fields of imm21 of an engine word, least significant first (R265). -/
def EngMods.fields (m : EngMods) : List (Nat × Nat) :=
  [(2, m.q.toNat), (1, bitVal m.dsp), (1, bitVal m.ssp), (1, bitVal m.cw), (1, bitVal m.txb), (1, bitVal m.cwsp),
   (1, bitVal m.key), (3, m.slot.toNat), (1, bitVal m.isp), (1, bitVal m.i64), (8, 0)]

/-- The zero-operand group (R38). -/
def decodeZeroOp (w : Nat) : Except Reject Instr :=
  if fld w 11 15 ≠ 0 then .error .fieldNotZero else
  match fld w 0 11 with
  | 0 => .ok .nop
  | 1 => .ok .safe
  | 2 => .ok .lwait
  | 3 => .ok .drain
  | 4 => .ok .exit
  | 5 => .ok .halt
  | 6 => .ok .brk
  | 7 => .ok .gwait
  | _ => .error .reservedSelector

/-- The ALU opcode (R39). -/
def decodeAlu (w : Nat) : Except Reject Instr :=
  let d := reg5 w 21
  let s := reg5 w 16
  let t := reg5 w 11
  if fld w 0 4 = 15 then okIf (fld w 4 4 == 0) .fieldNotZero (.stemSel d (BitVec.ofNat 3 (fld w 8 3)) s t)
  else if fld w 4 7 ≠ 0 then .error .fieldNotZero
  else match fld w 0 4 with
    | 0 => .ok (.add d s t)
    | 1 => .ok (.sub d s t)
    | 2 => .ok (.mul d s t)
    | 3 => .ok (.mulh d s t)
    | 4 => .ok (.mulhu d s t)
    | 5 => .ok (.stemAnd d s t)
    | 6 => .ok (.stemOr d s t)
    | 7 => .ok (.stemXor d s t)
    | 8 => .ok (.stemShl d s t)
    | 9 => .ok (.stemShr d s t)
    | 10 => .ok (.stemSra d s t)
    | 11 => .ok (.min d s t)
    | 12 => .ok (.max d s t)
    | 13 => .ok (.minu d s t)
    | _ => .ok (.maxu d s t)

/-- The 32-bit stem word (R37), by its opcode; the instruction of a word that breaks no rule of R37 to R41. -/
def decodeStemOp (w : Nat) : Except Reject Instr :=
  let d := reg5 w 21
  let s := reg5 w 16
  let t := reg5 w 11
  let i16 := BitVec.ofNat 16 (fld w 0 16)
  let q := BitVec.ofNat 3 (fld w 21 3)
  match fld w 26 6 with
  | 0x00 => decodeZeroOp w
  | 0x01 => decodeAlu w
  | 0x02 => .ok (.addi d s i16)
  | 0x03 => .ok (.andi d s i16)
  | 0x04 => .ok (.ori d s i16)
  | 0x05 => .ok (.xori d s i16)
  | 0x06 => okIf (fld w 6 10 == 0) .fieldNotZero (.shli d s (BitVec.ofNat 6 (fld w 0 6)))
  | 0x07 => okIf (fld w 6 10 == 0) .fieldNotZero (.shri d s (BitVec.ofNat 6 (fld w 0 6)))
  | 0x08 => okIf (fld w 6 10 == 0) .fieldNotZero (.srai d s (BitVec.ofNat 6 (fld w 0 6)))
  | 0x09 => okIf (fld w 16 5 == 0) .fieldNotZero (.movi d i16)
  | 0x0A => okIf (fld w 18 3 == 0) .fieldNotZero (.movk d (BitVec.ofNat 2 (fld w 16 2)) i16)
  | 0x0B =>
    match IntCond.ofCode (fld w 0 4) with
    | some c => okIf (fld w 24 2 == 0 && fld w 4 7 == 0) .fieldNotZero (.cmp q c s t)
    | none => .error .reservedSelector
  | 0x0C =>
    match IntCond.ofCode (fld w 19 4) with
    | some c => .ok (.cmpi (BitVec.ofNat 3 (fld w 23 3)) c (reg5 w 14) (BitVec.ofNat 14 (fld w 0 14)))
    | none => .error .reservedSelector
  | 0x0D => okIf (fld w 0 11 == 0) .fieldNotZero (.padd d s t)
  | 0x0E => .ok (.paddi d s i16)
  | 0x0F => okIf (fld w 3 13 == 0) .fieldNotZero (.prst d s (BitVec.ofNat 3 (fld w 0 3)))
  | 0x10 => okIf (fld w 0 16 == 0) .fieldNotZero (.psize d s)
  | 0x11 => .ok (.sld d s i16)
  | 0x12 => .ok (.sst d s i16)
  | 0x14 => .ok (.br (BitVec.ofNat 3 (fld w 23 3)) (bitAt w 22) (BitVec.ofNat 22 (fld w 0 22)))
  | 0x15 => okIf (fld w 22 4 == 0) .fieldNotZero (.jmp (BitVec.ofNat 22 (fld w 0 22)))
  | 0x16 => okIf (fld w 22 4 == 0) .fieldNotZero (.call (BitVec.ofNat 22 (fld w 0 22)))
  | 0x17 => okIf (fld w 0 16 == 0 && fld w 21 5 == 0) .fieldNotZero (.ret s)
  | 0x18 => .ok (.loop d (BitVec.ofNat 21 (fld w 0 21)))
  | 0x19 => okIf (fld w 21 5 == 0) .fieldNotZero (.lrun (BitVec.ofNat 21 (fld w 0 21)))
  | 0x1A => okIf (fld w 7 14 == 0) .fieldNotZero (.rfal d (BitVec.ofNat 7 (fld w 0 7)))
  | 0x1B =>
    if fld w 5 16 ≠ 0 then .error .fieldNotZero else
    match fld w 3 2 with
    | 0 => .ok (.voteAny d (BitVec.ofNat 3 (fld w 0 3)))
    | 1 => .ok (.voteAll d (BitVec.ofNat 3 (fld w 0 3)))
    | 2 => .ok (.voteUniform d (BitVec.ofNat 3 (fld w 0 3)))
    | _ => .error .reservedSelector
  | 0x1C =>
    match SReg.ofCode (fld w 0 16) with
    | some n => okIf (fld w 16 5 == 0) .fieldNotZero (.sread d n)
    | none => .error .reservedSelector
  | 0x1D =>
    if fld w 21 5 ≠ 0 then .error .fieldNotZero else
    match fld w 0 16 with
    | 17 => .ok (.swriteFaultCode s)
    | 18 => .ok (.swriteFaultAddr s)
    | 20 => .ok (.swriteLease s)
    | _ => .error .reservedSelector
  | 0x1E => okIf (fld w 16 10 == 0) .fieldNotZero (.trap i16)
  | 0x1F => okIf (fld w 21 5 == 0 && fld w 0 16 == 0) .fieldNotZero (.srsd s)
  | 0x20 =>
    if fld w 24 2 ≠ 0 || fld w 0 16 ≠ 0 then .error .fieldNotZero
    else okIf (q != 0) .reservedSelector (.strmBind q s)
  | 0x21 =>
    okIf (fld w 24 2 == 0 && fld w 19 2 == 0 && fld w 0 16 == 0) .fieldNotZero
      (.strmJoin q (BitVec.ofNat 3 (fld w 16 3)))
  | 0x22 =>
    if fld w 13 8 ≠ 0 then .error .fieldNotZero
    else if !blockOk d 6 then .error .blockPastA31
    else okIf ((EngMods.ofWord w).ok false) .reservedCombination (.cp d (EngMods.ofWord w))
  | 0x23 =>
    if fld w 13 8 ≠ 0 then .error .fieldNotZero
    else if !blockOk d 8 then .error .blockPastA31
    else okIf ((EngMods.ofWord w).ok false) .reservedCombination (.cp2 d (EngMods.ofWord w))
  | 0x24 =>
    if fld w 13 8 ≠ 0 then .error .fieldNotZero
    else if !blockOk d 6 then .error .blockPastA31
    else okIf ((EngMods.ofWord w).ok true) .reservedCombination (.gth d (EngMods.ofWord w))
  | 0x25 =>
    if fld w 5 21 ≠ 0 then .error .fieldNotZero
    else okIf (fld w 0 5 != 0) .reservedSelector (.qjoin (BitVec.ofNat 5 (fld w 0 5)))
  | 0x26 =>
    if fld w 3 18 ≠ 0 then .error .fieldNotZero
    else okIf (blockOk d 2) .blockPastA31 (.waita d (WaitCond.ofCode (fld w 1 2)) (bitAt w 0))
  | 0x27 =>
    if fld w 0 21 ≠ 0 then .error .fieldNotZero else okIf (blockOk d 2) .blockPastA31 (.task d)
  | 0x28 =>
    if fld w 1 20 ≠ 0 then .error .fieldNotZero
    else okIf (blockOk d 2) .blockPastA31 (if bitAt w 0 then .tgraphResume d else .tgraph d)
  | 0x29 => okIf (fld w 16 10 == 0 && fld w 3 13 == 0) .fieldNotZero (.bar (BitVec.ofNat 3 (fld w 0 3)))
  | 0x2A => okIf (fld w 0 26 == 0) .fieldNotZero .wgbar
  | 0x2B => okIf (fld w 21 5 == 0 && fld w 0 11 == 0) .fieldNotZero (.txbExp s t)
  | 0x2C => okIf (fld w 21 5 == 0 && fld w 0 16 == 0) .fieldNotZero (.txbArr s)
  | 0x2D => okIf (fld w 21 5 == 0 && fld w 0 11 == 0) .fieldNotZero (.txbWait s t)
  | 0x2E =>
    if fld w 6 20 ≠ 0 then .error .fieldNotZero else
    match fld w 4 2 with
    | 0 => .ok (.srmodeCache (BitVec.ofNat 4 (fld w 0 4)))
    | 1 => .ok (.srmodeScratch (BitVec.ofNat 4 (fld w 0 4)))
    | 2 => .ok (.srmodeFifo (BitVec.ofNat 4 (fld w 0 4)))
    | _ => .error .reservedSelector
  | 0x2F =>
    if fld w 12 9 ≠ 0 then .error .fieldNotZero
    else if !blockOk d 4 then .error .blockPastA31
    else okIf (fld w 4 8 != 0 && decide (fld w 4 8 ≤ 128)) .badCount
      (.obres d (BitVec.ofNat 8 (fld w 4 8)) (BitVec.ofNat 4 (fld w 0 4)))
  | 0x30 => okIf (fld w 4 22 == 0) .fieldNotZero (.obrel (BitVec.ofNat 4 (fld w 0 4)))
  | 0x31 => okIf (fld w 4 17 == 0) .fieldNotZero (.obfill d (BitVec.ofNat 4 (fld w 0 4)))
  | 0x32 =>
    match ASrc.ofCode (fld w 8 2) with
    | some a =>
      if !blockOk d 4 then .error .blockPastA31
      else okIf (fld w 11 10 != 0) .badCount
        (.mx d (BitVec.ofNat 10 (fld w 11 10)) (bitAt w 10) a (bitAt w 7) (bitAt w 6) (BitVec.ofNat 6 (fld w 0 6)))
    | none => .error .reservedSelector
  | 0x33 =>
    if fld w 7 19 ≠ 0 then .error .fieldNotZero
    else if bitAt w 6 then okIf (fld w 0 6 == 0) .fieldNotZero .mxwaitAll
    else .ok (.mxwait (BitVec.ofNat 6 (fld w 0 6)))
  | 0x34 =>
    if fld w 5 21 ≠ 0 then .error .fieldNotZero
    else okIf (fld w 0 5 != 0 && decide (fld w 0 5 ≤ 16)) .badCount (.grow (BitVec.ofNat 5 (fld w 0 5)))
  | 0x35 =>
    if fld w 5 21 ≠ 0 then .error .fieldNotZero
    else okIf (fld w 0 5 != 0 && decide (fld w 0 5 ≤ 16)) .badCount (.shrink (BitVec.ofNat 5 (fld w 0 5)))
  | 0x36 =>
    if fld w 23 3 ≠ 0 || fld w 16 5 ≠ 0 || bitAt w 7 then .error .fieldNotZero
    else okIf (decide (fld w 8 8 ≤ 128) && decide (fld w 0 7 + fld w 8 8 ≤ 128)) .badLimit
      (.xset (BitVec.ofNat 2 (fld w 21 2)) (BitVec.ofNat 8 (fld w 8 8)) (BitVec.ofNat 7 (fld w 0 7)))
  | 0x37 =>
    if fld w 4 17 ≠ 0 then .error .fieldNotZero
    else okIf (blockOk d 3) .blockPastA31 (.mqpush d (BitVec.ofNat 3 (fld w 1 3)) (bitAt w 0))
  | 0x38 =>
    if fld w 4 17 ≠ 0 then .error .fieldNotZero
    else okIf (blockOk d 2) .blockPastA31 (.mqpop d (BitVec.ofNat 3 (fld w 1 3)) (bitAt w 0))
  | 0x39 =>
    if fld w 6 15 ≠ 0 then .error .fieldNotZero
    else if !blockOk d 4 then .error .blockPastA31
    else match fld w 0 3 with
      | 0 => .ok (.mredFadd d (BitVec.ofNat 3 (fld w 3 3)))
      | 1 => .ok (.mredBfadd d (BitVec.ofNat 3 (fld w 3 3)))
      | 2 => .ok (.mredIadd d (BitVec.ofNat 3 (fld w 3 3)))
      | 3 => .ok (.mredFmax d (BitVec.ofNat 3 (fld w 3 3)))
      | 4 => .ok (.mredFmin d (BitVec.ofNat 3 (fld w 3 3)))
      | _ => .error .reservedSelector
  | 0x3A =>
    if fld w 0 21 ≠ 0 then .error .fieldNotZero else okIf (blockOk d 3) .blockPastA31 (.kload d)
  | 0x3B =>
    okIf (fld w 12 14 == 0) .fieldNotZero (.kdrop (BitVec.ofNat 4 (fld w 8 4)) (BitVec.ofNat 8 (fld w 0 8)))
  | _ => .error .reservedOpcode

/-- The stem word `w`, decoded (R41). -/
def decodeStem (w : BitVec 32) : Except Reject Instr := decodeStemOp w.toNat

/-! ## Leaf canonical words -/

/-- An operand field (R45); reserved values give nothing. -/
def decodeOpnd (f : Nat) : Option Opnd :=
  match f / 128 with
  | 0 => some (.lane (BitVec.ofNat 7 f))
  | 1 =>
    match f / 32 % 4 with
    | 0 => some (.areg (BitVec.ofNat 5 f))
    | 1 => some (.const (BitVec.ofNat 5 f))
    | _ => none
  | 2 => some (.indexed (BitVec.ofNat 2 (f / 32)) (BitVec.ofNat 5 f))
  | _ => if f = 0x1FF then some .none else if f % 128 < 8 then some (.pred (BitVec.ofNat 3 f)) else none

/-- The field of an operand (R45). -/
def encodeOpnd : Opnd → Nat
  | .lane n => n.toNat
  | .areg n => 128 + n.toNat
  | .const n => 160 + n.toNat
  | .indexed x k => 256 + 32 * x.toNat + k.toNat
  | .pred p => 384 + p.toNat
  | .none => 0x1FF

/-- The hint of a code (R43). -/
def Hint.ofCode : Nat → Hint
  | 0 => .normal | 1 => .evictFirst | 2 => .keep | _ => .noL1

/-- The code of a hint (R43). -/
def Hint.code : Hint → Nat
  | .normal => 0 | .evictFirst => 1 | .keep => 2 | .noL1 => 3

/-- The guard and control fields of a canonical word (R43). -/
def decodeCtl (w : Nat) : Ctl :=
  { g1n := bitAt w 83, g1 := BitVec.ofNat 3 (fld w 80 3), g2n := bitAt w 79, g2 := BitVec.ofNat 3 (fld w 76 3),
    safe := bitAt w 21, stall := BitVec.ofNat 3 (fld w 18 3), yld := bitAt w 17 }

/-- An operand field read under its role: an unused source is ignored in all of its bits (R53). -/
def roleOpnd (r : Machine.Role) (f : Nat) : Option Opnd :=
  match r with
  | .unused => some .none
  | _ => decodeOpnd f

/-- The leaf instruction of an opcode and func[15:11] (R54), if one has them. -/
def findLOp (op : Nat) (opx : BitVec 5) : Option LOp :=
  LOp.all.find? (fun o => o.spec.op == op && (opx &&& ~~~o.spec.opxFree) == o.spec.opxFix)

/-- The fields of a canonical word under the entry of `o` (R43-R53). -/
def leafFields (o : LOp) (w : Nat) : Option Leaf :=
  let p := o.spec
  let imm := bitAt w 16
  match Machine.Ty.ofCode (fld w 84 4), Machine.RMode.ofCode (fld w 0 3), roleOpnd p.d (fld w 67 9),
    roleOpnd p.s1 (fld w 58 9),
    (if imm || Machine.s2Unused o (Machine.Ty.ofCode (fld w 84 4)) (BitVec.ofNat 5 (fld w 11 5)) then some Opnd.none
      else roleOpnd p.s2 (fld w 49 9)),
    (if imm then some Opnd.none else roleOpnd p.s3 (fld w 40 9)), roleOpnd p.s4 (fld w 31 9) with
  | some ty, some rm, some d, some s1, some s2, some s3, some s4 =>
    let l : Leaf :=
      { ctl := decodeCtl w, ty, d, s1, s2, s3, s4, hint := Hint.ofCode (fld w 25 2), slot := BitVec.ofNat 3 (fld w 22 3),
        imm := if imm then some (BitVec.ofNat 18 (fld w 40 18)) else none,
        opx := BitVec.ofNat 5 (fld w 11 5) &&& p.opxFree, sel := BitVec.ofNat 2 (fld w 9 2),
        cond := BitVec.ofNat 4 (fld w 5 4), sgn := bitAt w 4, sat := bitAt w 3, rm }
    some { l with em := Machine.emMask l (BitVec.ofNat 4 (fld w 27 4)) }
  | _, _, _, _, _, _, _ => none

/-- A canonical word of the general form (R43-R53). -/
def decodeLeafGeneral (w : Nat) : Except Reject Instr :=
  match findLOp (fld w 88 8) (BitVec.ofNat 5 (fld w 11 5)) with
  | none => .error (if LOp.all.any (fun o => o.spec.op == fld w 88 8) then .reservedSelector else .reservedOpcode)
  | some o =>
    match leafFields o w with
    | none => .error .reservedOperand
    | some l =>
      if o.spec.emZero && fld w 27 4 != 0 then .error .fieldNotZero
      else match Machine.LOp.check o l with
        | some r => .error r
        | none => .ok (o.instr l)

/-- `MOVI` (R52, R115). -/
def decodeMoviLane (w : Nat) : Except Reject Instr :=
  if fld w 58 9 ≠ 0x1FF || fld w 0 17 ≠ 0 || fld w 22 4 ≠ 0 then .error .fieldNotZero
  else match Machine.Ty.ofCode (fld w 84 4), decodeOpnd (fld w 67 9) with
    | some ty, some d =>
      if !(ty == .b64 || ty == .b32 || ty == .f32) then .error .reservedType
      else okIf (laneDestOk d) .reservedOperand (.moviLane (decodeCtl w) ty d (BitVec.ofNat 32 (fld w 26 32)))
    | none, _ => .error .reservedType
    | _, none => .error .reservedOperand

/-- `BRA` (R52, R138). -/
def decodeBra (w : Nat) : Except Reject Instr :=
  if fld w 84 4 ≠ 0 then .error .reservedType
  else if fld w 22 9 ≠ 0 || fld w 0 17 ≠ 0x10000 then .error .fieldNotZero
  else match decodeOpnd (fld w 58 9) with
    | some s =>
      okIf (braSrcOk s) .reservedOperand
        (.bra (decodeCtl w) s (BitVec.ofNat 18 (fld w 40 18)) (BitVec.ofNat 18 (fld w 31 9 + 512 * fld w 67 9)))
    | none => .error .reservedOperand

/-- `GRFT` (R52, R357). -/
def decodeGrft (w : Nat) : Except Reject Instr :=
  if fld w 84 4 ≠ 0 then .error .reservedType
  else if fld w 67 9 ≠ 0x1FF || fld w 25 1 ≠ 0 || fld w 1 10 ≠ 0 || bitAt w 16 then .error .fieldNotZero
  else match decodeOpnd (fld w 58 9) with
    | some s =>
      let m := BitVec.ofNat 16 (fld w 42 16)
      if !grftSrcOk s then .error .reservedOperand
      else okIf (m != 0 && decide (maskCount m ≤ 8)) .badCount
        (.grft (decodeCtl w) s m (BitVec.ofNat 21 (fld w 26 16 + 65536 * fld w 11 5)) (BitVec.ofNat 3 (fld w 22 3))
          (bitAt w 0))
    | none => .error .reservedOperand

/-- `GRET` (R361). -/
def decodeGret (w : Nat) : Except Reject Instr :=
  if fld w 84 4 ≠ 0 then .error .reservedType
  else if fld w 31 45 ≠ 2 ^ 45 - 1 || fld w 22 9 ≠ 0 || fld w 0 17 ≠ 0 then .error .fieldNotZero
  else
    let c := decodeCtl w
    okIf (!c.g1n && c.g1 == 7 && !c.g2n && c.g2 == 7) .reservedControl (.gret c)

/-- A 96-bit canonical leaf word (R43, R54). -/
def decodeLeaf (w : Nat) : Except Reject Instr :=
  match fld w 88 8 with
  | 0x17 => decodeMoviLane w
  | 0x50 => decodeBra w
  | 0xA0 => decodeGrft w
  | 0xA1 => decodeGret w
  | _ => decodeLeafGeneral w

/-! ## Stored leaf code -/

/-- Bytes as a little-endian number. -/
def leNat : List Byte → Nat
  | [] => 0
  | b :: r => b.toNat + 256 * leNat r

/-- `n` little-endian bytes of a number. -/
def leBytes : Nat → Nat → List Byte
  | 0, _ => []
  | n + 1, x => BitVec.ofNat 8 x :: leBytes n (x / 256)

/-- The length of a stored instruction, by its prefix byte's class (R56). -/
def storedLength (p : Byte) : Nat :=
  match p.toNat / 64 with
  | 0 => 4
  | 1 => 8
  | 2 => 13
  | _ => 1

/-- The prefix byte is padding (R56). -/
def isPadding (p : Byte) : Bool := p.toNat / 64 == 3

/-- The type of a class-00 type index (R57). -/
def compactType : Nat → Nat
  | 0 => 0 | 1 => 1 | 2 => 5 | 3 => 6 | 4 => 7 | 5 => 2 | 6 => 3 | _ => 8

/-- Class 00 expanded (R57): opcode and payload. -/
def expand4 (op p : Nat) : Nat :=
  joinFields [(17, 0), (1, 0), (3, 0), (1, 0), (3, 0), (2, 0), (4, 0), (9, 0x1FF), (9, 0x1FF), (9, fld p 0 7),
    (9, fld p 7 7), (9, fld p 14 7), (3, 7), (1, 0), (3, 7), (1, 0), (4, compactType (fld p 21 3)), (8, op)]

/-- Class 01 expanded (R58): prefix and payload. -/
def expand8 (pre p : Nat) : Nat :=
  joinFields [(17, fld p 0 4), (1, 0), (3, fld pre 2 3), (1, fld pre 5 1), (3, 0), (2, 0), (4, 0), (9, 0x1FF),
    (9, fld p 4 9), (9, fld p 13 9), (9, fld p 22 9), (9, fld p 31 9), (3, 7), (1, 0), (3, fld p 40 3),
    (1, fld p 43 1), (4, fld p 44 4), (8, fld p 48 8)]

/-- The opcodes that the compact classes cannot carry (R59). -/
def ownLayout (op : Nat) : Bool := op == 0x17 || op == 0x50 || op == 0xA0

/-- A stored instruction from its prefix byte and the bytes after it (R56-R59). Padding is no instruction. -/
def decodeStored (pre : Byte) (rest : List Byte) : Except Reject Instr :=
  let p := pre.toNat
  if rest.length + 1 < storedLength pre then .error .shortBytes
  else match p / 64 with
    | 0 =>
      if ownLayout (p % 64) then .error .badCompactForm
      else decodeLeaf (expand4 (p % 64) (leNat (rest.take 3)))
    | 1 =>
      let q := leNat (rest.take 7)
      if p % 4 ≠ 0 then .error .badPrefix
      else if ownLayout (fld q 48 8) then .error .badCompactForm
      else decodeLeaf (expand8 p q)
    | 2 => if p % 64 ≠ 0 then .error .badPrefix else decodeLeaf (leNat (rest.take 12))
    | _ => .error .badPrefix

/-- The stem word at the head of a byte stream, with the bytes after it (R34). -/
def decodeStemBytes (bs : List Byte) : Except Reject (Instr × List Byte) :=
  match bs with
  | b0 :: b1 :: b2 :: b3 :: rest =>
    match decodeStem (BitVec.ofNat 32 (leNat [b0, b1, b2, b3])) with
    | .ok i => .ok (i, rest)
    | .error r => .error r
  | _ => .error .shortBytes

/-! ## The encoder -/

/-- Format SA (R35). -/
def encSA (op d s t fn : Nat) : Nat := joinFields [(11, fn), (5, t), (5, s), (5, d), (6, op)]
/-- Format SI (R35). -/
def encSI (op d s i : Nat) : Nat := joinFields [(16, i), (5, s), (5, d), (6, op)]
/-- Format SB (R35). -/
def encSB (op q n disp : Nat) : Nat := joinFields [(22, disp), (1, n), (3, q), (6, op)]
/-- Format SL, and SB of `LOOP` (R35). -/
def encSL (op b i : Nat) : Nat := joinFields [(21, i), (5, b), (6, op)]

/-- The stem word of an instruction, if it is a stem instruction (R37-R40). -/
def encodeStem (i : Instr) : Option Nat :=
  match i with
  | .nop => some (encSA 0 0 0 0 0)
  | .safe => some (encSA 0 0 0 0 1)
  | .lwait => some (encSA 0 0 0 0 2)
  | .drain => some (encSA 0 0 0 0 3)
  | .exit => some (encSA 0 0 0 0 4)
  | .halt => some (encSA 0 0 0 0 5)
  | .brk => some (encSA 0 0 0 0 6)
  | .gwait => some (encSA 0 0 0 0 7)
  | .add d s t => some (encSA 1 d.toNat s.toNat t.toNat 0)
  | .sub d s t => some (encSA 1 d.toNat s.toNat t.toNat 1)
  | .mul d s t => some (encSA 1 d.toNat s.toNat t.toNat 2)
  | .mulh d s t => some (encSA 1 d.toNat s.toNat t.toNat 3)
  | .mulhu d s t => some (encSA 1 d.toNat s.toNat t.toNat 4)
  | .stemAnd d s t => some (encSA 1 d.toNat s.toNat t.toNat 5)
  | .stemOr d s t => some (encSA 1 d.toNat s.toNat t.toNat 6)
  | .stemXor d s t => some (encSA 1 d.toNat s.toNat t.toNat 7)
  | .stemShl d s t => some (encSA 1 d.toNat s.toNat t.toNat 8)
  | .stemShr d s t => some (encSA 1 d.toNat s.toNat t.toNat 9)
  | .stemSra d s t => some (encSA 1 d.toNat s.toNat t.toNat 10)
  | .min d s t => some (encSA 1 d.toNat s.toNat t.toNat 11)
  | .max d s t => some (encSA 1 d.toNat s.toNat t.toNat 12)
  | .minu d s t => some (encSA 1 d.toNat s.toNat t.toNat 13)
  | .maxu d s t => some (encSA 1 d.toNat s.toNat t.toNat 14)
  | .stemSel d q s t => some (encSA 1 d.toNat s.toNat t.toNat (15 + 256 * q.toNat))
  | .addi d s i => some (encSI 2 d.toNat s.toNat i.toNat)
  | .andi d s i => some (encSI 3 d.toNat s.toNat i.toNat)
  | .ori d s i => some (encSI 4 d.toNat s.toNat i.toNat)
  | .xori d s i => some (encSI 5 d.toNat s.toNat i.toNat)
  | .shli d s n => some (encSI 6 d.toNat s.toNat n.toNat)
  | .shri d s n => some (encSI 7 d.toNat s.toNat n.toNat)
  | .srai d s n => some (encSI 8 d.toNat s.toNat n.toNat)
  | .movi d i => some (encSI 9 d.toNat 0 i.toNat)
  | .movk d k i => some (encSI 0x0A d.toNat k.toNat i.toNat)
  | .cmp q c s t => some (encSA 0x0B q.toNat s.toNat t.toNat c.code)
  | .cmpi q c s i => some (joinFields [(14, i.toNat), (5, s.toNat), (4, c.code), (3, q.toNat), (6, 0x0C)])
  | .padd d s t => some (encSA 0x0D d.toNat s.toNat t.toNat 0)
  | .paddi d s i => some (encSI 0x0E d.toNat s.toNat i.toNat)
  | .prst d s m => some (encSI 0x0F d.toNat s.toNat m.toNat)
  | .psize d s => some (encSA 0x10 d.toNat s.toNat 0 0)
  | .sld d s i => some (encSI 0x11 d.toNat s.toNat i.toNat)
  | .sst d s i => some (encSI 0x12 d.toNat s.toNat i.toNat)
  | .br q n disp => some (encSB 0x14 q.toNat (bitVal n) disp.toNat)
  | .jmp disp => some (encSB 0x15 0 0 disp.toNat)
  | .call disp => some (encSB 0x16 0 0 disp.toNat)
  | .ret s => some (encSA 0x17 0 s.toNat 0 0)
  | .loop c disp => some (encSL 0x18 c.toNat disp.toNat)
  | .lrun off => some (encSL 0x19 0 off.toNat)
  | .rfal d v => some (encSA 0x1A d.toNat 0 0 v.toNat)
  | .voteAny d p => some (encSA 0x1B d.toNat 0 0 p.toNat)
  | .voteAll d p => some (encSA 0x1B d.toNat 0 0 (8 + p.toNat))
  | .voteUniform d p => some (encSA 0x1B d.toNat 0 0 (16 + p.toNat))
  | .sread d n => some (encSI 0x1C d.toNat 0 n.code)
  | .swriteFaultCode s => some (encSI 0x1D 0 s.toNat 17)
  | .swriteFaultAddr s => some (encSI 0x1D 0 s.toNat 18)
  | .swriteLease s => some (encSI 0x1D 0 s.toNat 20)
  | .trap c => some (encSI 0x1E 0 0 c.toNat)
  | .srsd s => some (encSA 0x1F 0 s.toNat 0 0)
  | .strmBind w s => some (encSA 0x20 w.toNat s.toNat 0 0)
  | .strmJoin wa wb => some (encSA 0x21 wa.toNat wb.toNat 0 0)
  | .cp b m => some (joinFields (m.fields ++ [(5, b.toNat), (6, 0x22)]))
  | .cp2 b m => some (joinFields (m.fields ++ [(5, b.toNat), (6, 0x23)]))
  | .gth b m => some (joinFields (m.fields ++ [(5, b.toNat), (6, 0x24)]))
  | .qjoin m => some (encSL 0x25 0 m.toNat)
  | .waita b c sp => some (joinFields [(1, bitVal sp), (2, c.code), (18, 0), (5, b.toNat), (6, 0x26)])
  | .task b => some (encSL 0x27 b.toNat 0)
  | .tgraph b => some (encSL 0x28 b.toNat 0)
  | .tgraphResume b => some (encSL 0x28 b.toNat 1)
  | .bar t => some (encSI 0x29 0 0 t.toNat)
  | .wgbar => some (encSA 0x2A 0 0 0 0)
  | .txbExp s t => some (encSA 0x2B 0 s.toNat t.toNat 0)
  | .txbArr s => some (encSA 0x2C 0 s.toNat 0 0)
  | .txbWait s t => some (encSA 0x2D 0 s.toNat t.toNat 0)
  | .srmodeCache b => some (encSI 0x2E 0 0 b.toNat)
  | .srmodeScratch b => some (encSI 0x2E 0 0 (16 + b.toNat))
  | .srmodeFifo b => some (encSI 0x2E 0 0 (32 + b.toNat))
  | .obres b u ob => some (joinFields [(4, ob.toNat), (8, u.toNat), (9, 0), (5, b.toNat), (6, 0x2F)])
  | .obrel ob => some (encSL 0x30 0 ob.toNat)
  | .obfill b ob => some (encSL 0x31 b.toNat ob.toNat)
  | .mx b k bsp a acc wide tile =>
    some (joinFields [(6, tile.toNat), (1, bitVal wide), (1, bitVal acc), (2, a.code), (1, bitVal bsp), (10, k.toNat),
      (5, b.toNat), (6, 0x32)])
  | .mxwait t => some (encSI 0x33 0 0 t.toNat)
  | .mxwaitAll => some (encSI 0x33 0 0 64)
  | .grow n => some (encSI 0x34 0 0 n.toNat)
  | .shrink n => some (encSI 0x35 0 0 n.toNat)
  | .xset x l b => some (joinFields [(7, b.toNat), (1, 0), (8, l.toNat), (5, 0), (2, x.toNat), (3, 0), (6, 0x36)])
  | .mqpush b slot wait => some (joinFields [(1, bitVal wait), (3, slot.toNat), (17, 0), (5, b.toNat), (6, 0x37)])
  | .mqpop b slot wait => some (joinFields [(1, bitVal wait), (3, slot.toNat), (17, 0), (5, b.toNat), (6, 0x38)])
  | .mredFadd b slot => some (joinFields [(3, 0), (3, slot.toNat), (15, 0), (5, b.toNat), (6, 0x39)])
  | .mredBfadd b slot => some (joinFields [(3, 1), (3, slot.toNat), (15, 0), (5, b.toNat), (6, 0x39)])
  | .mredIadd b slot => some (joinFields [(3, 2), (3, slot.toNat), (15, 0), (5, b.toNat), (6, 0x39)])
  | .mredFmax b slot => some (joinFields [(3, 3), (3, slot.toNat), (15, 0), (5, b.toNat), (6, 0x39)])
  | .mredFmin b slot => some (joinFields [(3, 4), (3, slot.toNat), (15, 0), (5, b.toNat), (6, 0x39)])
  | .kload b => some (encSL 0x3A b.toNat 0)
  | .kdrop p h => some (encSL 0x3B 0 (256 * p.toNat + h.toNat))
  | _ => none

/-- The control fields [83:76] of a canonical word, least significant first. -/
def guardFields (c : Ctl) : List (Nat × Nat) :=
  [(3, c.g2.toNat), (1, bitVal c.g2n), (3, c.g1.toNat), (1, bitVal c.g1n)]

/-- The issue-control fields [21:17] of a canonical word, least significant first. -/
def issueFields (c : Ctl) : List (Nat × Nat) := [(1, bitVal c.yld), (3, c.stall.toNat), (1, bitVal c.safe)]

/-- The canonical word of a leaf instruction of the general form (R43). An unused source is written 0x1FF. -/
def encodeLeafGeneral (o : LOp) (w : Leaf) : Nat :=
  let mid : List (Nat × Nat) :=
    match w.imm with
    | some i => [(18, i.toNat)]
    | none => [(9, encodeOpnd w.s3), (9, encodeOpnd w.s2)]
  joinFields ([(3, Machine.RMode.code w.rm), (1, bitVal w.sat), (1, bitVal w.sgn), (4, w.cond.toNat), (2, w.sel.toNat),
    (5, (w.opx ||| o.spec.opxFix).toNat), (1, bitVal w.imm.isSome)] ++ issueFields w.ctl ++
    [(3, w.slot.toNat), (2, w.hint.code), (4, w.em.toNat), (9, encodeOpnd w.s4)] ++ mid ++
    [(9, encodeOpnd w.s1), (9, encodeOpnd w.d)] ++ guardFields w.ctl ++ [(4, Machine.Ty.code w.ty), (8, o.spec.op)])

/-- The canonical word of a leaf instruction, if it is one (R43-R54). -/
def encodeLeaf (i : Instr) : Option Nat :=
  match i with
  | .moviLane c ty d imm =>
    some (joinFields ([(17, 0)] ++ issueFields c ++ [(4, 0), (32, imm.toNat), (9, 0x1FF), (9, encodeOpnd d)] ++
      guardFields c ++ [(4, Machine.Ty.code ty), (8, 0x17)]))
  | .bra c s disp rec =>
    some (joinFields ([(17, 0x10000)] ++ issueFields c ++ [(9, 0), (9, rec.toNat % 512), (18, disp.toNat),
      (9, encodeOpnd s), (9, rec.toNat / 512)] ++ guardFields c ++ [(4, 0), (8, 0x50)]))
  | .grft c s m region slot fb =>
    some (joinFields ([(1, bitVal fb), (10, 0), (5, region.toNat / 65536), (1, 0)] ++ issueFields c ++
      [(3, slot.toNat), (1, 0), (16, region.toNat % 65536), (16, m.toNat), (9, encodeOpnd s), (9, 0x1FF)] ++
      guardFields c ++ [(4, 0), (8, 0xA0)]))
  | .gret c =>
    some (joinFields ([(17, 0)] ++ issueFields c ++ [(9, 0), (45, 2 ^ 45 - 1)] ++ guardFields c ++ [(4, 0), (8, 0xA1)]))
  | i =>
    match Machine.leafOf i with
    | some (o, w) => some (encodeLeafGeneral o w)
    | none => none

/-- A leaf instruction stored in class 10 (R56). -/
def storeLeaf (i : Instr) : Option (List Byte) := (encodeLeaf i).map (fun w => 0x80#8 :: leBytes 12 w)

/-- The bytes of an instruction: a stem word, or a leaf instruction in class 10. -/
def encode (i : Instr) : Option (List Byte) :=
  match encodeStem i with
  | some w => some (leBytes 4 w)
  | none => storeLeaf i

/-- The instruction of a word of the opcode table: its rows with bits are stem words of 32 bits (R34). -/
def decodeTableWord (nbits w : Nat) : Option Instr :=
  if nbits = 32 then
    match decodeStem (BitVec.ofNat 32 w) with
    | .ok i => some i
    | .error _ => none
  else none

end Sys2Proof
end

