-- ==== Sys2Proof/Config.lean ====
section
/-! DEFINITION. What the spec leaves open and nothing in the model fixes: free values, without bodies. -/
namespace Sys2Proof.Config

/-- A fresh free word for a value that the spec leaves open, by the model's counter of such values (log entry 3). -/
opaque freeWord : Nat → Word

/-- The AES-256-XTS key pair of the tenant key of a number (R388): the device draws it at random. -/
opaque tenantKey : Nat → BitVec 256 × BitVec 256

/-- A byte at address `a` of a span of HBM that the device has used for itself, the use of tag `t`, as tenant key `k` reads
it (R411, R438). -/
opaque deviceByte : (k t a : Nat) → Byte

/-- A byte at SRAM address `a` of a bank that joined the scratch pool for the `n`-th time (R205): "unspecified". -/
opaque bankByte : (n a : Nat) → Byte

/-- Which of the values inside the bound an approximating function returns (R133): one choice for each function,
type and input, the same everywhere. -/
opaque approx : (fn ty : Nat) → Word → Nat

/-- The export master secret of an SPDM session, by the session's number (R395): its two parties alone know it. -/
opaque exportSecret : Nat → BitVec 512

/-- The digest that a measurement index reads over the given content (R400). -/
opaque digest : (index : Nat) → List Nat → Nat

/-- A certificate of a slot (R400). -/
opaque certificate : (slot : Nat) → Nat

/-- A signature over the given content by the device (R400). -/
opaque signature : List Nat → Nat

end Sys2Proof.Config
end

