-- ==== Sys2Proof/Machine/Map.lean ====
section
/-! DEFINITION. Sparse maps from `Nat`: sorted lists of (key, value) pairs that never list the value an
unlisted key reads as. Memory, register files and tables all use this one form, so that equal contents
are equal data. -/
namespace Sys2Proof.Machine

/-- A sparse map in canonical form: keys strictly rising, no entry equal to the default. -/
abbrev SMap (β : Type) := List (Nat × β)

/-- The value at key `a`, or the default `d` where nothing is listed. -/
def SMap.get {β : Type} (d : β) : SMap β → Nat → β
  | [], _ => d
  | (k, v) :: m, a => if k = a then v else SMap.get d m a

/-- Every entry with key `a` removed. -/
def SMap.erase {β : Type} : SMap β → Nat → SMap β
  | [], _ => []
  | (k, v) :: m, a => if k = a then SMap.erase m a else (k, v) :: SMap.erase m a

/-- An entry placed before the first larger key. -/
def SMap.insert {β : Type} : SMap β → Nat → β → SMap β
  | [], a, x => [(a, x)]
  | (k, v) :: m, a, x => if a < k then (a, x) :: (k, v) :: m else (k, v) :: SMap.insert m a x

/-- The map with `x` at key `a`; writing the default lists nothing. -/
def SMap.set {β : Type} [DecidableEq β] (d : β) (m : SMap β) (a : Nat) (x : β) : SMap β :=
  if x = d then SMap.erase m a else SMap.insert (SMap.erase m a) a x

/-- The map with the value at `a` replaced by `f` of it. -/
def SMap.upd {β : Type} [DecidableEq β] (d : β) (m : SMap β) (a : Nat) (f : β → β) : SMap β :=
  SMap.set d m a (f (SMap.get d m a))

/-- Strictly rising keys, all of them above `lo` (when given). -/
def SMap.sortedFrom {β : Type} : Option Nat → SMap β → Bool
  | _, [] => true
  | none, (k, _) :: m => SMap.sortedFrom (some k) m
  | some lo, (k, _) :: m => decide (lo < k) && SMap.sortedFrom (some k) m

/-- The canonical form: keys strictly rising and no entry equal to the default. -/
def SMap.wf {β : Type} [DecidableEq β] (d : β) (m : SMap β) : Bool :=
  SMap.sortedFrom none m && m.all (fun e => decide (e.2 ≠ d))

/-- The map with every entry whose key satisfies `p` removed. -/
def SMap.dropIf {β : Type} (p : Nat → Bool) (m : SMap β) : SMap β :=
  m.filter (fun e => !p e.1)

/-- A present entry, as an option. -/
def SMap.find? {β : Type} : SMap β → Nat → Option β
  | [], _ => none
  | (k, v) :: m, a => if k = a then some v else SMap.find? m a

end Sys2Proof.Machine
end

