-- ==== Sys2Proof/Machine/Types.lean ====
section
/-! DEFINITION. The parts that the machine's state is made of: registers, leaf runs, groups, workgroups, clusters,
tasks, partitions, cores, groves, engine and matrix work, streams, modules, root nodes, and the crown controller's
own records. Plain data throughout. -/
namespace Sys2Proof.Machine

/-- The fault codes of the device (R403). They are effects of the machine (a record and a policy), not stops of
the model. -/
inductive Code where
  | illegal | priv | bounds | rights | objInvalid | pageAbsent | pageFail | uePoison | misalign | indexRange
  | feEmpty | nonuniform | divergeOverflow | growLimit | obBusy | obStale | obFormat | sealDenied | sealKey
  | streamSeq | streamCtxFull | moduleLost | graftRefused | graftHops | rootFault | bankBusy | fifoState
  | txbOverflow | safepointOverrun | budget | barrierTag | trap | brk | leafFetch | chainBreak | keyInvalid
  | migrateAbort
  deriving DecidableEq, Repr

/-- Full, empty with a fill pending, empty with none (R111). -/
inductive Fe where
  | full | pending | empty
  deriving DecidableEq, Repr

/-- A mark in place of a value: a break mark (R166) or a graft mark with its code and address (R365). -/
inductive Mark where
  | brk
  | graft (code : BitVec 8) (addr : Word)
  deriving DecidableEq, Repr

/-- One lane register of one thread (R111, R166). -/
structure LReg where
  val : Word := 0
  fe : Fe := .full
  mark : Option Mark := none
  deriving DecidableEq, Repr

/-- Base and limit of an index register (R107), and whether an `XSET` still has to reset its values at the next run
(R108). -/
structure XReg where
  base : Nat := 0
  limit : Nat := 0
  fresh : Bool := false
  deriving DecidableEq, Repr

/-- A path of a leaf slot (R136). -/
structure Path where
  off : Nat
  mask : Mask
  jrec : Option Nat
  deriving DecidableEq, Repr

/-- A join record (R136), or the record of an inline graft (R359). -/
structure JoinRec where
  id : Nat
  reconv : Nat
  expected : Mask
  arrived : Mask
  parent : Option Nat
  graft : Bool := false
  deriving DecidableEq, Repr

/-- An entry of the divergence stack (R136). -/
inductive StackEntry where
  | join (r : JoinRec)
  | spill (p : Path)
  deriving DecidableEq, Repr

/-- A leaf run: offset, copy of a0 to a31, index settings and lease (R93, R98, R107). -/
structure Run where
  off : Nat
  a : SMap Word
  x : SMap XReg
  lease : BitVec 8
  deriving DecidableEq, Repr

/-- A place in some memory, reached through a pointer (R279-R281). -/
inductive Place where
  | hbm (a : Nat)
  | modul (port : Option Nat) (m : Nat) (a : Nat)
  | host (a : Nat)
  deriving DecidableEq, Repr

/-- What a chain read has taken before its fill, because the supplier's register goes: a mark, or a value with its
supplier's pts (R166, R168). -/
inductive ChainGot where
  | mark (m : Mark)
  | value (ts : Time) (w : Word)
  deriving DecidableEq, Repr

/-- Where the value of a pending register comes from (R111): known already, a pod-tier load still to be performed (R343;
`at_` is the cycle of its issue: those of one issue and one sector are one request, R219), the result of a stream
operation, a chain read, a FIFO pop, a tile row, a returning bud, or what a chain read has taken (R166). -/
inductive FillSrc where
  | value (w : Word)
  | podLoad (p : Place) (n : Nat) (sgn : Bool) (off at_ : Nat)
  | stream (sid seq : Nat) (n : Nat) (off : Nat)
  | chainRead (wg group thread reg : Nat)
  | scanCarry (key : Nat)
  | fifo (grove bank : Nat)
  | tile (key : Nat)
  | graft
  | chainGot (x : ChainGot)
  deriving DecidableEq, Repr

/-- A pending fill of one register of one thread; `old` is the register as it was before (R210). -/
structure Fill where
  reg : Nat
  thread : Nat
  src : FillSrc
  old : LReg := {}
  deriving DecidableEq, Repr

/-- A fault held for a group (R257, R273, R348). `mx`: a fault of matrix work, with its pass's tile, or 64 for a
fill; `num`: its place in posting order. -/
structure HeldFault where
  code : Code
  addr : Word
  info : Word := 0
  mx : Option Nat := none
  num : Nat := 0
  deriving DecidableEq, Repr

/-- A non-temporal store that has not been performed (R323); `req`: the request that writes its sector whole, if there
is one (R219, R303). -/
structure Stnt where
  addr : Nat
  bytes : List (Nat × Byte)
  req : Option Nat := none
  deriving DecidableEq, Repr

/-- A waiting FIFO request (R217): the entries it appends, or the registers and threads that it fills; `regs` are the
registers and threads that the entries came from, `ts` the threads it is of, `at_` the cycle of its issue (R90), and `seen`
the group's lane registers then: what they hold later was written after it (R168). -/
structure FifoReq where
  gid : Nat
  push : List Word
  pop : List (Nat × Nat)
  regs : List (Nat × Nat) := []
  ts : List Nat := []
  at_ : Nat := 0
  seen : SMap LReg := []
  deriving DecidableEq, Repr

/-- What a page is missed for (R294 KIND). -/
inductive MissKind where
  | read | write | engRead | engWrite | stemFetch | leafFetch | obFill
  deriving DecidableEq, Repr

/-- A missing page a parked group waits for (R290): a page request, or a migration's end (R300). -/
structure Miss where
  obj : Nat
  page : Nat
  mig : Bool
  deriving DecidableEq, Repr

/-- A parked group (R290): at its stem word or at a leaf slot, with the unfinished threads, the misses it still waits
for, the pages whose answer was a failure, and whether the path that parked has ended meanwhile, so that nothing is left to
replay (R142). -/
structure Park where
  slot : Option Nat
  mask : Mask
  misses : List Miss
  failed : List (Nat × Nat) := []
  gone : Bool := false
  deriving DecidableEq, Repr

/-- A host thread that has ended its region and waits to return (R361, R367): its code, 0 for none, and the leaf offset
of its last instruction. -/
structure Ending where
  thread : Nat
  code : BitVec 8
  off : Nat
  deriving DecidableEq, Repr

/-- What a host group serves (R363): its receiver, its buds by thread, the threads that wait to return, since when
its die is pre-empted (R372), and the sectors of the argument block that `LDK` has read (R214). -/
structure HostInfo where
  die : Nat
  recv : Nat
  buds : List Bud
  ending : List Ending := []
  heldSince : Option Nat := none
  lk : SMap (List Byte) := []
  deriving DecidableEq, Repr

/-- A chained scan that waits for its carry (R181). -/
structure ScanWait where
  key : Nat
  leftWg : Nat
  leftGroup : Nat
  reg : Nat
  ty : Ty
  op : Nat
  sgn : Bool
  rm : RMode
  takers : Mask
  vals : List Word
  got : Option ChainGot := none
  deriving DecidableEq, Repr

/-- A stem word that has begun its effect and waits (R78): a `GROW` blocked, an arrival at a barrier, an operation
on a module queue, a `WAITA` or `TXB_WAIT` asleep, or due to read again. At a route tag it keeps its core's pts at the
arrival, and after the release the pts its core is raised to (R424); asleep at `TXB.WAIT` it keeps the object's scratch
offset and what it held (R230). -/
inductive StemWait where
  | none
  | grow (n : Nat)
  | wgbar
  | wgbarDone
  | bar (t : Nat) (arrived : Time)
  | barDone (t : Nat) (at_ : Nat) (raise : Time)
  | mq (sid : Nat) (seq : Nat)
  | mqDone (ok : Bool) (x : Word)
  | mqSleep (since m line : Nat)
  | sleep
  | txbSleep (off x : Nat)
  | keyDrop
  | woken
  deriving DecidableEq, Repr

/-- A group (R31): its place, its stem state (R75, R79), its lane state (R101, R107, R111, R136), its streams, and
what it waits for. `core = none`: not resident. `stuck` are the leaf slots whose instruction waits under R112 (R186),
`behind` those whose instruction the rules of memory order hold back (R217, R337, R343), `redo` a replay that is due, at a
leaf slot or (2) at the stem word (R291), `syncAt` the cycle after the last word that waited for the leaf runs to end (R90),
`ic` its instruction cache: by offset, where the instruction starts and its bytes, none for a recorded
`LEAF_FETCH` (R61-R63); `busyDue` the cycles not yet added to BUSY (R17); `issueEnd` is the cycle after its last stem
issue (R83), `blocked` says that its word has issued and waits, `tried` that such a word had its turn, `nextAt` is the cycle its
next word is ready from, `late` the registers whose value is final later, with the cycle (R77); `fifoAgain` the FIFO
requests withdrawn at a save, by bank (R217), `evicting` an eviction that has begun (R105), `inRound` says that it was ready
in the present round of its lane and `issued` that it has issued there (R187), `readySince` since when the
group is ready in its lane's pending set (R188). -/
structure Group where
  part : Nat
  tid : Nat
  cid : Nat
  wg : Nat
  idx : Nat
  core : Option Nat
  lane : Nat := 0
  pos : Nat := 0
  frame : Nat := 0
  pc : Word
  a : SMap Word := []
  q : BitVec 8 := 0
  v : SMap LReg := []
  chunks : Nat
  p : SMap Mask := []
  x : SMap XReg := []
  xval : SMap (BitVec 16) := []
  run : Option Run := none
  pend : Option Run := none
  slot0 : Option Path := none
  slot1 : Option Path := none
  lastSlot : Nat := 1
  stack : List StackEntry := []
  nextRec : Nat := 0
  lended : Mask := 0
  active : Mask := 0xFFFFFFFF
  srseed : BitVec 32 := 0x6D2B79F5
  flags : BitVec 5 := 0
  faultCode : BitVec 32 := 0
  faultAddr : Word := 0
  lease : BitVec 8
  fills : List Fill := []
  scans : List ScanWait := []
  held : List HeldFault := []
  wslots : SMap Nat := []
  buds : Nat := 0
  stnts : List Stnt := []
  drainTs : List Time := []
  halted : Bool := false
  wait : StemWait := .none
  evicted : Bool := false
  park : Option Park := none
  retry : List (Nat × Nat) := []
  redo : Option (Nat × Mask) := none
  stuck : List Nat := []
  behind : List Nat := []
  syncAt : Nat := 0
  ic : SMap (Nat × Option (List Byte)) := []
  busyDue : Nat := 0
  stall : Nat := 0
  stemIssued : Bool := false
  blocked : Bool := false
  tried : Bool := false
  issueEnd : Nat := 0
  nextAt : Nat := 0
  late : SMap Nat := []
  pendingSet : Bool := false
  yielded : Bool := false
  issued : Bool := false
  inRound : Bool := false
  lastIssue : Nat := 0
  readySince : Option Nat := none
  evicting : Bool := false
  fifoAgain : List (Nat × FifoReq) := []
  order : Nat := 0
  host : Option HostInfo := none
  deriving DecidableEq, Repr

/-- State of an operand-buffer range that is not free (R236). -/
inductive RangeState where
  | reserved | filling | filled | stale
  deriving DecidableEq, Repr

/-- A reservation record with the contents of its range (R237). -/
structure Range where
  st : RangeState := .reserved
  ty : Ty
  sgn : Bool
  blk : Nat
  lines : Nat
  depth : Nat
  src : Word
  scale : Nat
  pitch : Nat
  units : Nat
  keyh : Option Nat
  isSealed : Bool
  data : List Byte := []
  scales : List Byte := []
  bad : List Nat := []
  deriving DecidableEq, Repr

/-- A workgroup (R31, R204, R235): its core, the physical units of its scratch window, its slice, tiles and ranges,
and while it is saved the window's bytes, the pts of its core (R313) and the latest bts of its units' banks (R314). -/
structure Wg where
  core : Option Nat
  units : List Nat := []
  slice : Bool := false
  tiles : SMap (BitVec 32) := []
  ranges : SMap Range := []
  image : SMap Byte := []
  savedPts : Time := 0
  savedBts : Time := 0
  deriving DecidableEq, Repr

/-- Where a cluster stands (R191, R292, R411). -/
inductive ClusterState where
  | waiting | resident | stopping | saved
  deriving DecidableEq, Repr

/-- A FIFO bank saved with a cluster (R207): workgroup, bank, entries, and its bts (R314). -/
structure FifoImage where
  wg : Nat
  bank : Nat
  entries : List Word
  bts : Time := 0
  deriving DecidableEq, Repr

/-- The tentative holds of a reservation on one cluster's cores (R191): for each workgroup its core, scratch units, the
lanes and chunks of its groups and whether its slice; the FIFO banks of a resume (R207), and, in the reservation's first
cluster, tags, stream identifiers and frames. `lead` is that cluster. -/
structure Hold where
  cores : List Nat
  units : List (List Nat)
  lanes : List (List (Nat × Nat))
  slices : List Bool
  banks : List (Nat × Nat)
  tags : List Nat
  sids : Nat
  frames : Nat
  lead : Nat
  since : Nat
  deriving DecidableEq, Repr

/-- A cluster (R28, R191-R193, R410-R415). `img`: where its image lies, the shadow storage of a die or the context area
(none), and its bytes (R412); `switched`: saved by R292;
`refills`: the ranges, by workgroup and number, that a resume still has to refill, with the page each waits for (R260);
`limits`: the levels and budgets that its RCB resolved to at its admission (R13, R14, R20). -/
structure Cluster where
  tid : Nat
  idx : Nat
  st : ClusterState := .waiting
  wgs : List Wg := []
  backoff : Nat := 0
  ageUp : Nat := 0
  retryAt : Nat := 0
  restarts : Nat := 0
  hold : Option Hold := none
  stopAt : Option Nat := none
  parkedSince : Option Nat := none
  switched : Bool := false
  savedPts : Time := 0
  fifos : List FifoImage := []
  order : Nat := 0
  img : Option (Option Nat × Nat) := none
  refills : List (Nat × Nat × Option (Nat × Nat)) := []
  limits : Option (List (Word × List (Option Nat))) := none
  deriving DecidableEq, Repr

/-- An access range of a task (R23, R195). -/
structure TRange where
  base : Word
  len : Nat
  wr : Bool
  deriving DecidableEq, Repr

/-- What the chain of a task's RCB resolved to, at its take and at each admission of a cluster (R20): priority, lease,
fault policy, domain root, stream pool, each level's own budgets, and the log RCB with its FLOG (R406). -/
structure Eff where
  prio : Nat := 0
  lease : Nat := 1
  policy : Nat := 0
  root : Word := 0
  pool : Nat × Nat := (0, 0)
  limits : List (Word × List (Option Nat)) := []
  log : Option (Word × Word) := none
  deriving DecidableEq, Repr

/-- A task in flight (R23-R26). `node`: the graph and node it is a compute node of (R198); `lk`: the sectors of the
argument block that `LDK` has read (R214); `eff`: what its RCB resolved to (R20); `bound`: its physical tags, charged or
not (R226), and the levels that were charged (R14); `waiting`: STATE is 1 (R195); `cwMiss`: the page its completion word
waits for, `cwBad` its answer was a failure (R26). -/
structure Task where
  part : Nat
  rcb : Word
  desc : Word
  no : Word
  order : Nat
  privileged : Bool
  stemEntry : Word
  leafBase : Word
  args : Word
  ncl : Nat
  shape : Nat
  chain : Bool
  coop : Bool
  idem : Bool
  podw0 : Bool
  ngm1 : Nat
  chm1 : Nat
  scr : Nat
  obu : Nat
  tags : Nat
  argLen : Nat
  cwPtr : Word
  cwVal : Word
  ranges : List TRange
  node : Option (Nat × Nat) := none
  pts : Time := 0
  nextCl : Nat := 0
  clEnded : Nat := 0
  bound : List Nat := []
  dead : Bool := false
  lk : SMap (List Byte) := []
  stemCode : SMap (BitVec 32) := []
  leafCode : SMap Byte := []
  eff : Eff := {}
  tagsCharged : Bool := false
  tagPath : List Word := []
  admitted : Bool := false
  waiting : Bool := false
  cwMiss : Option (Nat × Nat) := none
  cwBad : Bool := false
  deriving DecidableEq, Repr

/-- TDISP states (R399). -/
inductive TdiState where
  | unlocked | locked | run | error
  deriving DecidableEq, Repr

/-- A key handle's state (R394, R397). -/
inductive KeyState where
  | installed | dropping
  deriving DecidableEq, Repr

/-- A key handle that is not free (R394): its key pair and sealed attribute. -/
structure Handle where
  st : KeyState
  isSealed : Bool
  key1 : BitVec 256
  key2 : BitVec 256
  deriving DecidableEq, Repr

/-- An outstanding page request (R294-R296): its tag once assigned, its SEQ once written, and who waits for it: twice
the number of a group (for itself, an operation or a fill it posted), or twice the number of a graph plus one. -/
structure PageReq where
  obj : Nat
  page : Nat
  kind : MissKind
  first : Nat
  mal : Bool
  tag : Option Nat
  seq : Option Nat
  waiters : List Nat := []
  deriving DecidableEq, Repr

/-- The page-request log of a partition (R278, R294). -/
structure PageLog where
  base : Nat
  size : Nat
  ans : Nat
  cons : Nat
  next : Nat := 0
  deriving DecidableEq, Repr

/-- A partition (R18, R19, R278, R394, R399, R411). `preempted`: the RCBs of subtrees that are pre-empted, 0 for the
partition; `ended`: the RCBs whose list's end was found, and when (R24); `invs`: `OBJINV`s not yet answered (R284); `answers`: PREEMPTs (true) and RESUMEs that are not yet answered,
in order. -/
structure Part where
  num : Nat
  tenant : BitVec 32
  poolBase : Nat
  poolCnt : Nat
  bud : Budgets
  prio : Nat
  lease : Nat
  fpolicy : Nat
  system : Bool
  keyId : Nat
  root : Option Word := none
  dir : Option (Nat × Nat) := none
  log : Option PageLog := none
  reqs : List PageReq := []
  localBase : Nat := 0
  frames : Nat := 0
  localS : Nat := 0
  tdi : TdiState := .unlocked
  handles : SMap Handle := []
  ctx : Option (Nat × Nat) := none
  ctxUsed : Nat := 0
  windows : SMap (Nat × Nat) := []
  graftMap : SMap Nat := []
  lateAnswers : Nat := 0
  markedReturns : Nat := 0
  preempted : List Word := []
  answers : List (Word × Bool) := []
  invs : Nat := 0
  ended : List (Word × Nat) := []
  deriving DecidableEq, Repr

/-- A leased copy of a line (R307, R310): its timestamps and its 128 bytes, the tenant key they were read under, its
eviction class (R221), and its way in a grove cache (R220). -/
structure Copy where
  wts : Time
  rts : Time
  data : List Byte
  key : Nat := 0
  cls : Nat := 1
  way : Nat := 0
  deriving DecidableEq, Repr

/-- A location of an object's pages (R279). -/
structure Loc where
  tier : Nat
  port : Nat
  modul : Nat
  deriving DecidableEq, Repr

/-- A descriptor as a table walk reads it (R279). `clean`: every reserved field is zero. -/
structure Desc where
  valid : Bool
  r : Bool
  w : Bool
  a : Bool
  e : Bool
  g : Bool
  isSealed : Bool
  lkey : Bool
  keyh : Nat
  size : Nat
  plist : Nat
  loc : Loc
  alt : Loc
  hset : Bool
  homePkg : Nat
  homeDie : Nat
  clean : Bool
  deriving DecidableEq, Repr

/-- A well-formed present page-list entry (R281). -/
structure Page where
  alt : Bool
  frame : Nat
  deriving DecidableEq, Repr

/-- A bud of this package (R360, R371): the thread's group, the RCB it is charged to, whether it is, and at which levels
(R14), its fallback, where it goes (package and die), the leaf offset of its `GRFT`, the modules its route crosses,
since when it waits for its next queue, until when it stands in the bud queue of its route (R354), and whether it has
entered a receiver's queue. -/
structure OutBud where
  gid : Nat
  part : Nat
  rcb : Option Word
  charged : Bool := false
  path : List Word := []
  fb : Bool
  fallback : Bool := false
  dest : Nat × Nat
  off : Nat
  via : List Nat := []
  since : Nat := 0
  leaves : Option Nat := none
  arrived : Bool := false
  bud : Bud
  deriving DecidableEq, Repr

/-- A bud in its core's send queue (R360): the stream whose operations of smaller numbers must have been
acknowledged. -/
structure QBud where
  after : Option (Nat × Nat)
  out : OutBud
  deriving DecidableEq, Repr

/-- A core (R10): its logical time and when that last changed (R306, R309), its L1 copies, its dirty lines oldest
first (R317), its OTLB (R283), its graft send queue (R360), the cycle from which each lane's next
instruction slot may start (R117), and the cycle after the last issue of its stem unit (R77). -/
structure Core where
  pts : Time := 0
  ptsAt : Nat := 0
  l1 : SMap Copy := []
  dirty : List Nat := []
  otlb : SMap Desc := []
  budq : List QBud := []
  growStuck : Option Nat := none
  slotAt : SMap Nat := []
  stemEnd : Nat := 0
  deriving DecidableEq, Repr

/-- Who owns a line: a core through its L1, or the grove cache on behalf of a core (R307, R310); the tenant key of its
bytes, its eviction class (R221), and its way in the grove cache (R220). -/
structure Owner where
  core : Nat
  grove : Bool
  key : Nat := 0
  cls : Nat := 1
  way : Nat := 0
  deriving DecidableEq, Repr

/-- A holder of a privatised line (R315): its byte mask, the times of its last write and of its latest read there, and the
tenant key of its bytes. -/
structure Holder where
  core : Nat
  mask : BitVec 128
  wts : Option Time
  rts : Option Time := none
  key : Nat := 0
  deriving DecidableEq, Repr

/-- A line at its home slice (R306, R315): timestamps, owner, the byte masks of the last four grants, and the
privatisation with its P. -/
structure LineTs where
  wts : Time := 0
  rts : Time := 0
  owner : Option Owner := none
  grants : List (Nat × BitVec 128) := []
  priv : Option (Time × List Holder) := none
  deriving DecidableEq, Repr

/-- Bank modes (R203). -/
inductive BankMode where
  | cache | scratch | fifo
  deriving DecidableEq, Repr

/-- One SRAM bank (R203, R207, R217, R314); `owner` and `ownerWg`: the cluster that owns a FIFO bank and the workgroup
that made it one. `noise`: 0, or the number under which the bytes that nothing has written
since the bank left cache or FIFO mode read as free values (R205). -/
structure Bank where
  mode : BankMode
  noise : Nat := 0
  bts : Time := 0
  owner : Nat := 0
  ownerWg : Nat := 0
  entries : List Word := []
  pushq : List FifoReq := []
  popq : List FifoReq := []
  deriving DecidableEq, Repr

/-- An address of an engine operation: a pointer, or a scratch offset of the posting workgroup (R266). -/
structure EAddr where
  sp : Bool
  val : Word
  deriving DecidableEq, Repr

/-- Where the operations of a stream go (R337): a module with the pod port or none (two hops), or the host link. -/
inductive Dest where
  | modul (m : Nat)
  | host
  deriving DecidableEq, Repr

/-- The layout encryption of a sector that is applied when its write is committed (R271): the key pair, the object, and the
sector's offset. -/
structure SealAt where
  handle : Handle
  obj : Nat
  off : Nat
  deriving DecidableEq, Repr

/-- A destination sector of an engine operation in a pod tier (R269): its first offset in the object, the write, and its
layout encryption. -/
structure EngPod where
  off : Nat
  dest : Dest
  bytes : List (Nat × Byte)
  key : Option Nat
  layout : Option SealAt := none
  deriving DecidableEq, Repr

/-- An engine operation (R265-R267): what it moves; `pos` is the destination offset below which every byte is moved, and
`done` counts those bytes; `ts` is its own logical time (R313); the handles whose key check it passed; the page it waits
for; its pod-tier writes, the stream operations they became, that of its completion word, and whether that is written;
`buf`: the sectors that it has read, by twice their number for the source, plus one for the index list (R269). -/
structure EngOp where
  gid : Nat
  cid : Nat
  wg : Nat
  part : Nat
  word : Word
  rows : Nat
  rowBytes : Nat
  dst : EAddr
  src : EAddr
  dpitch : Int
  spitch : Int
  idx : Option EAddr
  i64 : Bool
  cw : Option (EAddr × Word)
  txb : Option Nat
  key : Bool
  slot : Nat
  ts : Time
  lease : BitVec 8
  keys : List Nat := []
  started : Bool := false
  done : Nat := 0
  pos : Nat := 0
  dec : Nat := 0
  failed : Option Code := none
  miss : Option (Nat × Nat) := none
  pods : List EngPod := []
  flushed : Bool := false
  seqs : List (Nat × Nat) := []
  cwSeq : Option (Nat × Nat) := none
  num : Nat := 0
  cwDone : Bool := false
  node : Option (Nat × Nat) := none
  buf : SMap (List Byte) := []
  deriving DecidableEq, Repr

/-- An entry of an engine queue (R263, R270): an operation, or a fence with its number and mask. -/
inductive QEntry where
  | op (o : EngOp)
  | fence (gid cid : Nat) (key : Nat) (mask : BitVec 5)
  deriving DecidableEq, Repr

/-- An operand of a matrix pass (R244), checked: where its lines come from. -/
inductive MxSrc where
  | range (ob : Nat) (line : Nat) (k0 : Nat)
  | scratch (base : Nat) (rot : Nat) (ty : Ty) (sgn : Bool) (lp : Nat) (tp : Nat)
  | regs (ty : Ty) (sgn : Bool) (vals : List (List Word))
  deriving DecidableEq, Repr

/-- A posted matrix pass (R249); `dead`: its workgroup was killed after its grant (R261). -/
structure Pass where
  key : Nat
  gid : Nat
  cid : Nat
  core : Nat
  wide : Bool
  tile : Nat
  acc : Bool
  k : Nat
  ch : Nat
  a : MxSrc
  b : MxSrc
  prio : Nat
  word : Word
  ts : Time
  postedAt : Nat
  granted : Option Nat := none
  dead : Bool := false
  deriving DecidableEq, Repr

/-- An operation in a tile's order (R254): a pass, a `ZMOV` of some threads, a `ZLD` with its rows. -/
inductive TileOp where
  | pass (key : Nat)
  | zmov (key gid : Nat) (reg : Nat) (mask : Mask) (clr : Bool)
  | zld (gid cid : Nat) (rows : List (Nat × List Word))
  deriving DecidableEq, Repr

/-- A posted fill (R240). -/
structure ObFill where
  gid : Nat
  cid : Nat
  wg : Nat
  core : Nat
  ob : Nat
  txb : Option Nat
  word : Word
  ts : Time
  lease : BitVec 8
  miss : Option (Nat × Nat) := none
  failed : Option Code := none
  num : Nat := 0
  deriving DecidableEq, Repr

/-- A grove (R10): banks, queues cq0-cq3 and gq0, reservation table, tile orders, fills, grove cache, when each slice
is free again (R251), the last user (R203), the banks that placement has converted for partitions that have not come
yet (R204), and the logical time that the performed entries of each queue have reached (R269). -/
structure Grove where
  banks : SMap Bank := []
  queues : SMap (List QEntry) := []
  passes : List Pass := []
  tileOps : List (Nat × Nat × TileOp) := []
  obFills : List ObFill := []
  copies : SMap Copy := []
  sliceFree : SMap Nat := []
  turned : List (Nat × Nat) := []
  lastUser : Option Nat := none
  qts : SMap Time := []
  deriving DecidableEq, Repr

/-- A receiver (R363): its queue of buds, and those taken for a host group that has not started. -/
structure Receiver where
  queue : List Bud := []
  taken : List Bud := []
  deriving DecidableEq, Repr

/-- A compute die: its four receivers, its port's translation cache (R283), shadow storage in use (R412), a
thermal hold (R444), and the partitions and RCBs for which it is pre-empted (R372). -/
structure Die where
  recvs : SMap Receiver := []
  port : SMap Page := []
  shadow : Nat := 0
  held : Bool := false
  preempts : List (Nat × Word) := []
  deriving DecidableEq, Repr

/-- The source elements that a reduction reads before it is sent (R349): object, offset, count, size, logical time and
lease of the read, and the page it waits for. -/
structure SSrc where
  obj : Nat
  off : Nat
  count : Nat
  size : Nat
  ts : Time
  lease : BitVec 8
  miss : Option (Nat × Nat) := none
  failed : Bool := false
  deriving DecidableEq, Repr

/-- A stream operation of this package (R337); `num` is its place in posting order, which the operations of one `MRED`
share; `ok` is the success of a queue operation; `eng` is the number of the engine operation that it is a write of, and
`hold` says that it is that operation's completion word, held until the rest of it is performed (R267, R269), `layout` how
its sector is encrypted at the commit (R271). -/
structure SOp where
  seq : Nat
  resync : Bool
  dest : Dest
  op : ModOp
  gid : Nat
  addr : Word
  part : Nat
  after : List (Nat × Nat) := []
  thr : Mask := 0
  nt : Bool := false
  num : Nat := 0
  src : Option SSrc := none
  state : Nat := 0
  result : List Word := []
  ok : Bool := true
  code : Option Code := none
  eng : Option Nat := none
  hold : Bool := false
  layout : Option SealAt := none
  deriving DecidableEq, Repr

/-- A bound stream (R336, R337): its holder, counter, destination, the operations not yet acknowledged (in order; a
state of 0 waits at the port, 1 is sent, 2 is committed or failed and being answered), and its joins (R341); `sent` is
the destination of the last operation sent. -/
structure Stream where
  gid : Nat
  slot : Nat
  part : Nat
  rcb : Word
  counter : Nat := 0
  path : List Word := []
  dest : Option Dest := none
  sent : Option Dest := none
  fresh : Bool := true
  ops : List SOp := []
  join : List (Nat × Nat) := []
  closing : Bool := false
  deriving DecidableEq, Repr

/-- A stream context of a module head (R338), and the operations it holds in its window. -/
structure ModCtx where
  sid : Nat
  next : Nat
  resync : Nat
  window : List (ModMsg × Bool) := []
  deriving DecidableEq, Repr

/-- Entries of a transport queue (R335). -/
def relayDepth : Nat := 1024

/-- A relay queue of a transport region (R331, R335, R354): the header words HEAD, TAIL and OVF of R345, and its
requests. -/
structure TQueue where
  head : Nat := 0
  tail : Nat := 0
  ovf : Nat := 0
  entries : List (Nat × ModMsg) := []
  deriving DecidableEq, Repr

/-- A resync operation held while every context is in use (R339). -/
structure CtxWait where
  msg : ModMsg
  own : Bool
  since : Nat
  deriving DecidableEq, Repr

/-- A head of a module (R338), with the key slots of its end of the link, by twice the direction and the slot (R401). -/
structure Head where
  ctxs : List ModCtx := []
  waits : List CtxWait := []
  keys : SMap (BitVec 256) := []
  deriving DecidableEq, Repr

/-- A pod port of the package (R328, R335, R402): `downSince` the cycle in which its link went down (R350), `width` the lanes it
trains with (R439), `retiringTx` and
`retiringRx` what is still to be acknowledged under an old slot of a direction. -/
structure Port where
  up : Bool := false
  downSince : Option Nat := none
  width : Nat := 16
  wrong : Bool := false
  region : Option (Nat × Nat) := none
  slotTx : Nat := 0
  keyTx : SMap (BitVec 256) := []
  slotRx : Nat := 0
  keyRx : SMap (BitVec 256) := []
  retiringTx : Option (List (Nat × Nat)) := none
  retiringRx : Option (List (Nat × Nat)) := none
  deriving DecidableEq, Repr

/-- A running graph (R198); `finished`: nodes whose work is over and whose completion is due; `badNodes`: nodes
whose block lies in a page whose answer was a failure; `offered`: ready nodes whose launch waits; `cwMiss`, `cwBad` as for a
task. -/
structure Graph where
  part : Nat
  rcb : Word
  ptr : Word
  nodes : Nat
  ts : Time
  order : Nat
  finished : List Nat := []
  offered : List Nat := []
  badNodes : List Nat := []
  cwMiss : Option (Nat × Nat) := none
  cwBad : Bool := false
  deriving DecidableEq, Repr

/-- A launched root node (R378-R382): its block; once its checks passed, the stack it wants; the stack once bound, with x
in the tiles' vector buffers; the bursts issued and not yet arrived; the partial sums it has, and the rows of y that are
written. `fault`: what ends it, `miss` the page it waits for, `waits` that it found its tiles bound (R378), `frames` where the
pages of its weights lie, `yAt` where those of y lie, `seen` when the lines of a unit had been written at its command (R385). -/
structure RootNode where
  graph : Nat
  node : Nat
  part : Nat
  wptr : Word
  wpitch : Nat
  kunits : Nat
  nrows : Nat
  xptr : Word
  yptr : Word
  acc : Bool
  ts : Time
  stack : Option Nat := none
  sums : SMap (BitVec 32) := []
  written : SMap Bool := []
  order : Nat := 0
  want : Option Nat := none
  x : List Byte := []
  issued : List (Nat × Nat) := []
  miss : Option (Nat × Nat) := none
  fault : Option Code := none
  waits : Bool := false
  frames : SMap Nat := []
  yAt : SMap Place := []
  seen : SMap (List Time) := []
  deriving DecidableEq, Repr

/-- A request at a pseudo-channel controller (R377): its class (0 refresh and rewrites, 1 urgent reads, 2 bulk), since
when it is there, and the burst of a root node that it fetches: the node's number, row and unit (R381). -/
structure HbmReq where
  cls : Nat
  at_ : Nat
  burst : Option (Nat × Nat × Nat) := none
  deriving DecidableEq, Repr

/-- A pseudo-channel controller (R377): its requests oldest first, and the urgent commands since the last relief. -/
structure HbmCtl where
  reqs : List HbmReq := []
  urgentRun : Nat := 0
  relief : Bool := false
  deriving DecidableEq, Repr

/-- A migration in progress or waiting (R299-R302); `entry`: where the entry lies whose MIG it has set. -/
structure Migration where
  part : Nat
  obj : Nat
  page : Nat
  alt : Bool
  frame : Nat
  started : Bool
  entry : Nat := 0
  deriving DecidableEq, Repr

/-- An SPDM session (R400, R395): live once FINISH passed, its export secret's number, the last SEQ accepted. -/
structure Session where
  live : Bool
  secret : Nat
  lastSeq : Option Nat := none
  updates : Nat := 0
  deriving DecidableEq, Repr

/-- A message that the crown controller posts or answers. -/
inductive Event where
  | halt (g : GroupName)
  | wiring (port : Nat)
  | moduleLost (m : Nat)
  | stackFailed (k : Nat)
  | wear
  | thermalTrip (die : Nat)
  | unserviceable
  | answer (ok : Bool) (code : Option Code) (data : List Nat)
  | spdm (what : String) (data : List Nat)
  deriving DecidableEq, Repr

/-- The connection state of the SPDM responder (R400). -/
inductive SpdmState where
  | start | version | capabilities | negotiated
  deriving DecidableEq, Repr

/-- The crown controller's own records: pod numbers (R335), ports, lost modules and heads (R330, R350), HMAP values
(R375), failed stacks (R440), sapling mode and spares (R437-R439), wear (R442), power and heat (R443, R444), sessions
(R400), link keys (R401), and the mailbox. -/
structure Crown where
  podset : Option (Nat × Nat) := none
  ports : SMap Port := []
  lostMods : List Nat := []
  lostHeads : List (Nat × Nat) := []
  hmap : SMap Word := []
  failedStacks : List Nat := []
  sapling : Bool := false
  unserviceable : Bool := false
  down : Bool := false
  hostWidth : Nat := 16
  spares : List SpareUnit := []
  nextSpares : List SpareUnit := []
  wear : WearReading := { life := 100, rowrep := 0, ceday := 0, hoth := 0 }
  wearPosted : Bool := false
  powerCap : Nat := 3200
  powerHold : Bool := false
  heldCycles : Nat := 0
  holdSince : Option Nat := none
  relayq : SMap TQueue := []
  wrapAt : Nat := 0
  windowTs : Time := 0
  spdm : SpdmState := .start
  sessions : SMap Session := []
  linkKey : Option (BitVec 256) := none
  tdiKeys : SMap (BitVec 256) := []
  events : List Event := []
  deriving DecidableEq, Repr

/-- The party whose instruction executes: a group at its stem word, or at an instruction of one of its leaf slots with
the offset after it. -/
inductive Cur where
  | stem (gid : Nat)
  | leaf (gid slot next : Nat)
  deriving DecidableEq, Repr

/-- What a turn of the schedule does: a stem unit issues, an event of the opcode table happens, a cache drops a copy
(R307, R310), an OTLB or a port cache drops a translation (R283). -/
inductive Act where
  | stem (core : Nat)
  | event (i : Instr)
  | dropL1 (core line : Nat)
  | dropGrove (grove line : Nat)
  | dropOtlb (core key : Nat)
  | dropPort (die key : Nat)
  | dropCode (gid off : Nat)
  deriving DecidableEq, Repr

/-- A turn of the schedule: the cycles that pass before it, and what happens. -/
structure Turn where
  dt : Nat
  act : Act
  deriving DecidableEq, Repr

end Sys2Proof.Machine
end

