-- ==== Sys2Proof/Machine/Bytes.lean ====
section
/-! DEFINITION. Words as bytes (R4), and runs of numbers. -/
namespace Sys2Proof.Machine

/-- Little-endian bytes as a word (R4). -/
def wordOf : List Byte → Nat
  | [] => 0
  | b :: r => b.toNat + 256 * wordOf r
/-- `n` little-endian bytes (R4). -/
def bytesOf : Nat → Nat → List Byte
  | 0, _ => []
  | n + 1, x => BitVec.ofNat 8 x :: bytesOf n (x / 256)
/-- Consecutive addresses with their bytes. -/
def addrBytes (a : Nat) : List Byte → List (Nat × Byte)
  | [] => []
  | b :: r => (a, b) :: addrBytes (a + 1) r
/-- Numbers a, a + 1, ..., a + n - 1. -/
def span (a n : Nat) : List Nat := (List.range n).map (· + a)

end Sys2Proof.Machine
end

