-- ==== Sys2Proof/Machine/Crypto.lean ====
section
/-! DEFINITION. Sector encryption (R388, R390): AES-256-XTS on 32-byte sectors, as FIPS 197 and IEEE 1619 define it. -/
namespace Sys2Proof.Machine

/-- A byte times x in the field of AES. -/
def gfX (a : Nat) : Nat := if a < 128 then 2 * a else (2 * a) ^^^ 0x11b
/-- The product of bytes in the field of AES; `n` bits of `b` are used. -/
def gfMul (a : Nat) : Nat → Nat → Nat
  | _, 0 => 0
  | b, n + 1 => (if b % 2 = 1 then a else 0) ^^^ gfMul (gfX a) (b / 2) n
/-- The square of a byte, repeated. -/
def gfSquares (a : Nat) : Nat → List Nat
  | 0 => []
  | n + 1 => gfMul a a 8 :: gfSquares (gfMul a a 8) n
/-- The inverse of a byte, 0 for 0: its power of 254. -/
def gfInv (a : Nat) : Nat := (gfSquares a 7).foldl (fun x y => gfMul x y 8) 1
/-- A byte rotated to the left. -/
def rotByte (a k : Nat) : Nat := (a * 2 ^ k + a / 2 ^ (8 - k)) % 256
/-- The substitution of AES on one byte. -/
def subByte (a : Nat) : Nat :=
  let b := gfInv a
  b ^^^ rotByte b 1 ^^^ rotByte b 2 ^^^ rotByte b 3 ^^^ rotByte b 4 ^^^ 0x63
/-- The substitution as a table. -/
def sboxTab : List Nat := (List.range 256).map subByte
/-- The substitution of one byte. -/
def sbox (a : Nat) : Nat := sboxTab.getD a 0
/-- The inverse substitution of one byte. -/
def sboxInv (a : Nat) : Nat := sboxTab.idxOf a

/-- Bytes added. -/
def xorBytes (a b : List Nat) : List Nat := (a.zip b).map (fun x => x.1 ^^^ x.2)
/-- The round constant of number i. -/
def rcon : Nat → Nat
  | 0 => 1
  | i + 1 => gfX (rcon i)
/-- The key schedule: words of four bytes, the newest first; `n` words are added from number `i` on. -/
def keyWords : Nat → Nat → List (List Nat) → List (List Nat)
  | 0, _, ws => ws
  | n + 1, i, ws =>
    let p := ws.getD 0 []
    let t := if i % 8 = 0 then xorBytes ((p.drop 1 ++ p.take 1).map sbox) [rcon (i / 8 - 1), 0, 0, 0]
      else if i % 8 = 4 then p.map sbox else p
    keyWords n (i + 1) (xorBytes (ws.getD 7 []) t :: ws)
/-- The round keys of a key of 32 bytes: 15 of 16 bytes each. -/
def roundKeys (key : List Nat) : List (List Nat) :=
  let w0 := (List.range 8).map (fun i => (key.drop (4 * i)).take 4)
  let ws := (keyWords 52 8 w0.reverse).reverse
  (List.range 15).map (fun r => ((ws.drop (4 * r)).take 4).flatten)

/-- Rows of the state moved: byte 4c + r comes from column c + k r. -/
def moveRows (k : Nat) (b : List Nat) : List Nat :=
  (List.range 16).map (fun i => b.getD (4 * ((i / 4 + k * (i % 4)) % 4) + i % 4) 0)
/-- Columns of the state times a circulant matrix with the first row given. -/
def mixCols (m : List Nat) (b : List Nat) : List Nat :=
  (List.range 16).map (fun i =>
    (List.range 4).foldl (fun x j => x ^^^ gfMul (b.getD (4 * (i / 4) + j) 0) (m.getD ((j + 4 - i % 4) % 4) 0) 8) 0)

/-- One block encrypted. -/
def aesEnc (ks : List (List Nat)) (b : List Nat) : List Nat :=
  match ks with
  | [] => b
  | k0 :: r =>
    let n := r.length
    let (_, x) := r.foldl (fun (p : Nat × List Nat) k =>
      let y := moveRows 1 (p.2.map sbox)
      (p.1 + 1, xorBytes (if p.1 + 1 = n then y else mixCols [2, 3, 1, 1] y) k)) (0, xorBytes b k0)
    x
/-- One block decrypted. -/
def aesDec (ks : List (List Nat)) (b : List Nat) : List Nat :=
  match ks.reverse with
  | [] => b
  | k0 :: r =>
    let n := r.length
    let (_, x) := r.foldl (fun (p : Nat × List Nat) k =>
      let y := xorBytes ((moveRows 3 p.2).map sboxInv) k
      (p.1 + 1, if p.1 + 1 = n then y else mixCols [14, 11, 13, 9] y)) (0, xorBytes b k0)
    x

/-- The bytes of a key. -/
def keyBytes (k : BitVec 256) : List Nat := (bytesOf 32 k.toNat).map (·.toNat)
/-- A sector of two blocks under a key pair and a tweak: `enc` chooses the direction. -/
def xts (enc : Bool) (k1 k2 : BitVec 256) (tweak : Nat) (sec : List Byte) : List Byte :=
  let ks := roundKeys (keyBytes k1)
  let one (t : List Nat) (b : List Byte) : List Nat :=
    let x := xorBytes (b.map (·.toNat)) t
    xorBytes (if enc then aesEnc ks x else aesDec ks x) t
  let t0 := aesEnc (roundKeys (keyBytes k2)) ((bytesOf 16 tweak).map (·.toNat))
  let v := wordOf (t0.map (BitVec.ofNat 8))
  let v1 := (2 * v) % 2 ^ 128 ^^^ (if v < 2 ^ 127 then 0 else 0x87)
  let t1 := (bytesOf 16 v1).map (·.toNat)
  (one t0 (sec.take 16) ++ one t1 (sec.drop 16)).map (BitVec.ofNat 8)

/-- The tweak of a sector of an object (R390). -/
def layoutTweak (obj off : Nat) : Nat := obj * 2 ^ 40 + off
/-- A sector of an object encrypted under its layout key (R390). -/
def layoutEnc (h : Handle) (obj off : Nat) (sec : List Byte) : List Byte := xts true h.key1 h.key2 (layoutTweak obj off) sec
/-- A sector of an object decrypted under its layout key (R390). -/
def layoutDec (h : Handle) (obj off : Nat) (sec : List Byte) : List Byte := xts false h.key1 h.key2 (layoutTweak obj off) sec

end Sys2Proof.Machine
end

