-- ==== Sys2Proof/Machine/State.lean ====
section
/-! DEFINITION. The machine's state, the reasons a step can stop, and the state after reset. -/
namespace Sys2Proof.Machine

/-- Why a step stops. -/
inductive Fault where
  /-- Raised when a stem or leaf instruction is executed while no group is its party, or the group is gone: no
  instruction of the machine is then in progress. Safe: a run never comes there through `step`. -/
  | noParty
  deriving DecidableEq, Repr

/-- Why a step has no meaning. -/
inductive Refusal where
  /-- Raised by `exec` for an instruction that has no meaning in the model. Safe: nothing can be proved about it. -/
  | notModelled (mnemonic : String)
  deriving DecidableEq, Repr

/-- The machine: one package, with the modules of its pod. -/
structure State where
  /-- Cycles since package reset (R79 CYCLE). -/
  cycle : Nat
  /-- The party whose instruction executes next, when one is chosen (the model's own). -/
  cur : Option Cur
  /-- The order in which the agents act (the model's own). -/
  schedule : List Turn
  /-- How many free values have been used (the model's own). -/
  fresh : Nat
  /-- The next numbers of takes, clusters, groups and operations (R24, R28, R104). -/
  nextId : Nat
  /-- HBM bytes by package physical address (R281, R373). -/
  hbm : SMap Byte
  /-- The tenant key under which each HBM sector was written, plus one; 0 for never written (R388). -/
  hbmTag : SMap Nat
  /-- Spans of HBM whose bytes the device has used for itself since (R411, R438): base, length, tag of the bytes. -/
  noise : List (Nat × Nat × Nat)
  /-- Poisoned HBM sectors (R303). -/
  poison : SMap Bool
  /-- Package physical addresses of the WORK words of lists whose end was found, which nothing has written since (R24). -/
  idleWork : List Nat
  /-- Host memory bytes by host physical address (R281). -/
  hostMem : SMap Byte
  /-- Module memory bytes by 2^48 times the module number plus the module address (R281). -/
  modMem : SMap Byte
  /-- The stored form of each module sector: 0 never written, 1 clear, k + 2 under tenant key k (R333). -/
  modTag : SMap Nat
  /-- Module sectors with an uncorrectable error (R348). -/
  modPoison : SMap Bool
  /-- Canopy copies of TIER 1 lines, by module address over 128 (R332). -/
  podCopies : SMap Nat
  /-- Grove SRAM bytes by 2^22 times the grove plus 2^18 times the bank plus the offset (R203). -/
  sram : SMap Byte
  /-- The number of its bank's noise that each SRAM sector has been written under (R205). -/
  sramTag : SMap Nat
  /-- SRAM sectors with an uncorrectable error (R210). -/
  sramPoison : SMap Bool
  /-- Lines of HBM at their home slices, by address over 128 (R306). -/
  lines : SMap LineTs
  /-- wts and rts of a line that nothing has touched (R311). -/
  lineFloor : Time
  /-- Cores by 96 times the die plus 4 times the grove plus the core (R9). -/
  cores : SMap Core
  /-- Groves by 24 times the die plus the grove (R9). -/
  groves : SMap Grove
  /-- Compute dies (R10). -/
  dies : SMap Die
  /-- Partitions by number (R19). -/
  parts : SMap Part
  /-- Tasks in flight (R24). -/
  tasks : SMap Task
  /-- Clusters of the tasks in flight (R28). -/
  clusters : SMap Cluster
  /-- Groups (R31), host groups among them (R363). -/
  groups : SMap Group
  /-- Streams by identifier (R336). -/
  streams : SMap Stream
  /-- Module heads by 8 times the module plus the head (R338). -/
  heads : SMap Head
  /-- Running graphs (R198). -/
  graphs : SMap Graph
  /-- Launched root nodes in launch order (R378). -/
  roots : List RootNode
  /-- Pseudo-channel controllers by 64 times the stack plus twice the channel plus the pseudo-channel (R377). -/
  hbmCtl : SMap HbmCtl
  /-- Migrations in the crown controller (R299). -/
  migrations : List Migration
  /-- LR reservations, oldest first: slice, line, group, thread, time (R321). -/
  resvs : List (Nat × Nat × Nat × Nat × Nat)
  /-- Buds of this package that are out (R360, R371). -/
  budsOut : List OutBud
  /-- Returns and notices on their way to groups of this package (R361, R365). -/
  returns : List Bud
  /-- Close messages of streams on their way to module heads: module, stream (R338). -/
  closes : List (Nat × Nat)
  /-- The crown controller (R18, R19). -/
  crown : Crown
  deriving DecidableEq, Repr

/-- The machine right after package reset: no partition, no task, no group; every bank at its reset mode (R203),
HMAP at its reset value (R375), the power cap at 3,200 W (R443), LIFE at 100 (R442). Memory lists nothing. -/
def State.reset : State where
  cycle := 0
  cur := none
  schedule := []
  fresh := 0
  nextId := 0
  hbm := []
  hbmTag := []
  noise := []
  poison := []
  idleWork := []
  hostMem := []
  modMem := []
  modTag := []
  modPoison := []
  podCopies := []
  sram := []
  sramTag := []
  sramPoison := []
  lines := []
  lineFloor := 0
  cores := []
  groves := []
  dies := []
  parts := []
  tasks := []
  clusters := []
  groups := []
  streams := []
  heads := []
  graphs := []
  roots := []
  hbmCtl := []
  migrations := []
  resvs := []
  budsOut := []
  returns := []
  closes := []
  crown := {}

end Sys2Proof.Machine
end

