-- ==== Sys2Proof/Machine/Store.lean ====
section
/-! DEFINITION. Reading and writing the parts of the state: records by number, logical time, plain bytes of each
memory. Every register and every byte has one home here. -/
namespace Sys2Proof.Machine

/-- A record stored under a key. -/
def SMap.put {β : Type} (m : SMap β) (k : Nat) (v : β) : SMap β := SMap.insert (SMap.erase m k) k v

/-- The record under a key, changed if it is there. -/
def SMap.mod {β : Type} (m : SMap β) (k : Nat) (f : β → β) : SMap β :=
  match SMap.find? m k with
  | some v => SMap.put m k (f v)
  | none => m

/-! ## Records -/

/-- A group with a change. -/
def State.modGroup (s : State) (g : Nat) (f : Group → Group) : State := { s with groups := SMap.mod s.groups g f }
/-- A group stored. -/
def State.putGroup (s : State) (n : Nat) (g : Group) : State := { s with groups := SMap.put s.groups n g }
/-- A core; a core that nothing has changed is as after reset. -/
def State.core (s : State) (c : Nat) : Core := (SMap.find? s.cores c).getD {}
/-- A core stored. -/
def State.putCore (s : State) (c : Nat) (x : Core) : State := { s with cores := SMap.put s.cores c x }
/-- A core changed. -/
def State.modCore (s : State) (c : Nat) (f : Core → Core) : State := s.putCore c (f (s.core c))
/-- A grove. -/
def State.grove (s : State) (n : Nat) : Grove := (SMap.find? s.groves n).getD {}
/-- A grove stored. -/
def State.putGrove (s : State) (n : Nat) (x : Grove) : State := { s with groves := SMap.put s.groves n x }
/-- A grove changed. -/
def State.modGrove (s : State) (n : Nat) (f : Grove → Grove) : State := s.putGrove n (f (s.grove n))
/-- A die. -/
def State.die (s : State) (n : Nat) : Die := (SMap.find? s.dies n).getD {}
/-- A die changed. -/
def State.modDie (s : State) (n : Nat) (f : Die → Die) : State := { s with dies := SMap.put s.dies n (f (s.die n)) }
/-- A partition changed. -/
def State.modPart (s : State) (n : Nat) (f : Part → Part) : State := { s with parts := SMap.mod s.parts n f }
/-- A task changed. -/
def State.modTask (s : State) (n : Nat) (f : Task → Task) : State := { s with tasks := SMap.mod s.tasks n f }
/-- A cluster changed. -/
def State.modCluster (s : State) (n : Nat) (f : Cluster → Cluster) : State :=
  { s with clusters := SMap.mod s.clusters n f }
/-- A graph changed. -/
def State.modGraph (s : State) (n : Nat) (f : Graph → Graph) : State := { s with graphs := SMap.mod s.graphs n f }
/-- A stream changed. -/
def State.modStream (s : State) (n : Nat) (f : Stream → Stream) : State := { s with streams := SMap.mod s.streams n f }
/-- A module head. -/
def State.head (s : State) (m h : Nat) : Head := (SMap.find? s.heads (8 * m + h)).getD {}
/-- A module head stored. -/
def State.putHead (s : State) (m h : Nat) (x : Head) : State := { s with heads := SMap.put s.heads (8 * m + h) x }
/-- The crown controller changed. -/
def State.modCrown (s : State) (f : Crown → Crown) : State := { s with crown := f s.crown }
/-- An event or an answer posted to the mailbox. -/
def State.post (s : State) (e : Event) : State := s.modCrown (fun c => { c with events := c.events ++ [e] })
/-- A command answered with success and data (R19). -/
def State.answer (s : State) (d : List Nat := []) : State := s.post (.answer true none d)
/-- A command refused (R19). -/
def State.refuse (s : State) (c : Code := .objInvalid) : State := s.post (.answer false (some c) [])
/-- A fresh number, and the state that has used it. -/
def State.newId (s : State) : Nat × State := (s.nextId, { s with nextId := s.nextId + 1 })
/-- A fresh free word (log entry 3). -/
def State.freeWord (s : State) : Word × State := (Config.freeWord s.fresh, { s with fresh := s.fresh + 1 })

/-- Issue is held in every core: by the power cap, by a hot die, or after a trip (R443, R444). -/
def State.issueHeld (s : State) : Bool :=
  s.crown.powerHold || s.crown.down || s.dies.any (fun d => d.2.held)
/-- Cycles that were not held (R443). -/
def State.liveCycles (s : State) : Nat :=
  s.cycle - s.crown.heldCycles - ((s.crown.holdSince.map (fun c => s.cycle - c)).getD 0)

/-- The die of a core (R9). -/
def coreDie (c : Nat) : Nat := c / 96
/-- The grove of a core, over the package (R9). -/
def coreGrove (c : Nat) : Nat := c / 4
/-- The die of a grove. -/
def groveDie (g : Nat) : Nat := g / 24

/-- A workgroup of a cluster. -/
def Cluster.wg? (c : Cluster) (w : Nat) : Option Wg := c.wgs[w]?
/-- A workgroup of a cluster changed. -/
def State.modWg (s : State) (cid w : Nat) (f : Wg → Wg) : State :=
  s.modCluster cid (fun c => { c with wgs := c.wgs.modify w f })
/-- A workgroup. -/
def State.wg? (s : State) (cid w : Nat) : Option Wg := (SMap.find? s.clusters cid).bind (fun c => c.wg? w)

/-- The reset mode of a bank (R203). -/
def bankReset (b : Nat) : Bank := { mode := if b < 8 then .scratch else .cache }
/-- A bank of a grove. -/
def Grove.bank (g : Grove) (b : Nat) : Bank := (SMap.find? g.banks b).getD (bankReset b)
/-- A bank with its bts; one that nothing has touched has the oldest time kept (R311, R314). -/
def State.bankOf (s : State) (g b : Nat) : Bank :=
  (SMap.find? (s.grove g).banks b).getD { bankReset b with bts := s.lineFloor }
/-- A bank of a grove changed. -/
def State.modBank (s : State) (g b : Nat) (f : Bank → Bank) : State :=
  s.modGrove g (fun x => { x with banks := SMap.put x.banks b (f (s.bankOf g b)) })
/-- A grove has a cache-mode bank (R206, R310). -/
def Grove.hasCache (g : Grove) : Bool := (List.range 16).any (fun b => (g.bank b).mode == .cache)
/-- A queue of a grove: 0 to 3 for cq0 to cq3, 4 for gq0. -/
def Grove.queue (g : Grove) (q : Nat) : List QEntry := (SMap.find? g.queues q).getD []
/-- A queue of a grove changed. -/
def State.setQueue (s : State) (g q : Nat) (l : List QEntry) : State :=
  s.modGrove g (fun x => { x with queues := SMap.put x.queues q l })

/-! ## Logical time (R306) -/

/-- a ≤ b by serial-number arithmetic (R306). -/
def tle (a b : Time) : Bool := decide ((b - a).toNat < 2 ^ 23)
/-- The later of two times. -/
def tmax (a b : Time) : Time := if tle a b then b else a
/-- A core's pts: the value of its last change and one tick for every 256 cycles since (R309). -/
def State.pts (s : State) (c : Nat) : Time :=
  (s.core c).pts + BitVec.ofNat 24 ((s.cycle - (s.core c).ptsAt) / 256)
/-- A core's pts set; the cycle of a change is kept (R309). -/
def State.setPts (s : State) (c : Nat) (t : Time) : State :=
  if s.pts c = t then s else s.modCore c (fun x => { x with pts := t, ptsAt := s.cycle })
/-- A core's pts raised to at least `t` (R313). -/
def State.raisePts (s : State) (c : Nat) (t : Time) : State := s.setPts c (tmax (s.pts c) t)
/-- The latest of some times; 0 of none. -/
def latest : List Time → Time
  | [] => 0
  | t :: r => r.foldl tmax t

/-! ## Bytes of each memory -/

/-- Under what an HBM sector was written: a tenant key's number plus one, 0 for never written, or the tag of a span that
the device has used for itself (R388, R411, R438). -/
def State.tagOf (s : State) (sec : Nat) : Nat :=
  let t := SMap.get 0 s.hbmTag sec
  if t ≠ 0 then t
  else ((s.noise.find? (fun n => decide (n.1 ≤ 32 * sec) && decide (32 * sec < n.1 + n.2.1))).map (·.2.2)).getD 0
/-- A span of HBM that the device has used for itself: its bytes are free (R411, R438). -/
def State.blotHbm (s : State) (a n : Nat) : State :=
  let inside (sec : Nat) : Bool := decide (a ≤ 32 * sec) && decide (32 * sec < a + n)
  { s with
    hbmTag := s.hbmTag.filter (fun e => !inside e.1)
    noise := (a, n, s.nextId + 1) :: s.noise.filter (fun x => !(x.1 == a && x.2.1 == n))
    nextId := s.nextId + 1 }
/-- A sector of bytes that were encrypted by `enc`, a tenant key's number or none, as `dec` decrypts them (R333, R388):
AES-256-XTS with the sector's address as the tweak. -/
def recode (enc dec : Option Nat) (addr : Nat) (bs : List Byte) : List Byte :=
  let stored := match enc with
    | some k => xts true (Config.tenantKey k).1 (Config.tenantKey k).2 addr bs
    | none => bs
  match dec with
  | some k => xts false (Config.tenantKey k).1 (Config.tenantKey k).2 addr stored
  | none => stored
/-- The sector is one that the device has used for itself, not bytes of a tenant (R411, R438). -/
def State.devSector (s : State) (sec : Nat) : Bool := SMap.get 0 s.hbmTag sec == 0 && s.tagOf sec != 0
/-- The bytes of a sector of tag `t` as tenant key `k` reads them, where `t` is another key (R388): what the device has
written for itself is free. -/
def State.foreignSector (s : State) (k t sec : Nat) : List Byte :=
  if s.devSector sec then (span (32 * sec) 32).map (Config.deviceByte k t)
  else recode (some (t - 1)) (some k) (32 * sec) ((span (32 * sec) 32).map (SMap.get 0 s.hbm))
/-- One HBM byte as a partition of tenant key `k` reads it (R388): a sector written under another key reads as that key's
ciphertext, decrypted under `k`. -/
def State.hbmByte (s : State) (k a : Nat) : Byte :=
  let t := s.tagOf (a / 32)
  if t = 0 ∨ t = k + 1 then SMap.get 0 s.hbm a else (s.foreignSector k t (a / 32)).getD (a % 32) 0
/-- HBM bytes. -/
def State.hbmBytes (s : State) (k a n : Nat) : List Byte := (span a n).map (s.hbmByte k)
/-- An address on a stack that has failed (R440). -/
def State.hbmGone (s : State) (a : Nat) : Bool := s.crown.failedStacks.contains (a / 2 ^ 36)
/-- An HBM sector that reads as an uncorrectable error (R303, R440). -/
def State.hbmBad (s : State) (a : Nat) : Bool := SMap.get false s.poison (a / 32) || s.hbmGone a
/-- Some byte of the span reads as an uncorrectable error. -/
def State.hbmBadSpan (s : State) (a n : Nat) : Bool := (span a n).any s.hbmBad

/-- Some sector of the span reads as an uncorrectable error. -/
def State.hbmBadSecs (s : State) (a n : Nat) : Bool :=
  (span (a / 32) ((a + n - 1) / 32 - a / 32 + 1)).any (fun x => s.hbmBad (32 * x))

/-- A sector taken over by a tenant key: bytes written under another key become what they read as (R388). -/
def retag (k : Nat) (s : State) (sec : Nat) : State :=
  let t := s.tagOf sec
  if t = k + 1 then s
  else
    let m := if t = 0 then s.hbm
      else (addrBytes (32 * sec) (s.foreignSector k t sec)).foldl (fun m w => SMap.set 0 m w.1 w.2) s.hbm
    { s with hbm := m, hbmTag := SMap.set 0 s.hbmTag sec (k + 1) }
/-- Sectors of the addresses. -/
def sectors (ws : List (Nat × Byte)) : List Nat := (ws.map (fun w => w.1 / 32)).eraseDups
/-- Every byte of the sector is among the addresses. -/
def covers (ws : List (Nat × Byte)) (sec : Nat) : Bool := (span (32 * sec) 32).all (fun a => ws.any (fun w => w.1 == a))
/-- Reservations on the lines of the addresses are lost (R321). -/
def State.loseLines (s : State) (ls : List Nat) : State :=
  { s with resvs := s.resvs.filter (fun r => !ls.contains r.2.1) }
/-- HBM bytes written under a tenant key: the sector's poison goes when the write covers it (R303), reservations on the
lines are lost (R321), and a list whose WORK is written no longer rests (R24). -/
def State.hbmWrite (s : State) (k : Nat) (ws : List (Nat × Byte)) : State :=
  let secs := sectors ws
  let s1 := secs.foldl (retag k) s
  let s2 := { s1 with
    hbm := ws.foldl (fun (m : SMap Byte) (w : Nat × Byte) => SMap.set 0 m w.1 w.2) s1.hbm
    poison := (secs.filter (covers ws)).foldl (fun m x => SMap.set false m x false) s1.poison
    idleWork := s1.idleWork.filter (fun x => !ws.any (fun w => decide (x ≤ w.1) && decide (w.1 < x + 8))) }
  s2.loseLines (ws.map (fun w => w.1 / 128)).eraseDups

/-- The canopy slice that is the home of a TIER 1 line in the package (R332): 16 × die + slice. -/
def podHome (port a : Nat) : Nat :=
  16 * (2 * (port % 2) + a / 128 % 2) + ((a / 256 % 16) ^^^ (a / 4096 % 16) ^^^ (a / 65536 % 16))
/-- Key of a module byte. -/
def modKey (m a : Nat) : Nat := m * 2 ^ 48 + a
/-- The stored form of a module sector (R333): 0 never written, 1 clear, k + 2 under tenant key k. -/
def modForm (keyed : Option Nat) : Nat :=
  match keyed with
  | some k => k + 2
  | none => 1
/-- The tenant key of a stored form (R333). -/
def formKey (t : Nat) : Option Nat := if t = 0 then none else some (t - 1)
/-- A module sector of form `t` plus one as a port reads it in another form (R333): the tweak is the module address. -/
def State.foreignModSector (s : State) (keyed : Option Nat) (t sec : Nat) : List Byte :=
  recode (formKey t) keyed (32 * sec % 2 ^ 48) ((span (32 * sec) 32).map (SMap.get 0 s.modMem))
/-- One module byte as a port reads it, under a tenant key or clear (R333): bytes stored in another form read as that
form's ciphertext, decrypted. -/
def State.modByte (s : State) (keyed : Option Nat) (m a : Nat) : Byte :=
  let t := SMap.get 0 s.modTag (modKey m a / 32)
  if t = 0 ∨ t = modForm keyed then SMap.get 0 s.modMem (modKey m a)
  else (s.foreignModSector keyed (t - 1) (modKey m a / 32)).getD (a % 32) 0
/-- Module bytes. -/
def State.modBytes (s : State) (keyed : Option Nat) (m a n : Nat) : List Byte := (span a n).map (s.modByte keyed m)
/-- A module sector takes another stored form: bytes of the old form become what they read as (R333). -/
def retagMod (keyed : Option Nat) (s : State) (sec : Nat) : State :=
  let t := SMap.get 0 s.modTag sec
  if t = modForm keyed then s
  else
    let m := if t = 0 then s.modMem
      else (addrBytes (32 * sec) (s.foreignModSector keyed (t - 1) sec)).foldl (fun m w => SMap.set 0 m w.1 w.2) s.modMem
    { s with modMem := m, modTag := SMap.set 0 s.modTag sec (modForm keyed) }
/-- Module bytes committed (R332, R333): under a tenant key or clear; a sector written whole is no longer poisoned; the
package's canopy copies of the lines go. -/
def State.modWrite (s : State) (m : Nat) (keyed : Option Nat) (ws : List (Nat × Byte)) : State :=
  let ks : List (Nat × Byte) := ws.map (fun w => (modKey m w.1, w.2))
  let secs := sectors ks
  let s := secs.foldl (retagMod keyed) s
  { s with
    modMem := ks.foldl (fun (x : SMap Byte) (w : Nat × Byte) => SMap.set 0 x w.1 w.2) s.modMem
    modPoison := (secs.filter (covers ks)).foldl (fun x c => SMap.set false x c false) s.modPoison
    podCopies := ks.foldl (fun (x : SMap Nat) (w : Nat × Byte) => SMap.set 0 x (w.1 / 128) 0) s.podCopies }

/-- Host bytes. -/
def State.hostBytes (s : State) (a n : Nat) : List Byte := (span a n).map (SMap.get 0 s.hostMem)
/-- Host bytes written. -/
def State.hostWrite (s : State) (ws : List (Nat × Byte)) : State :=
  { s with hostMem := ws.foldl (fun (m : SMap Byte) (w : Nat × Byte) => SMap.set 0 m w.1 w.2) s.hostMem }

/-- The noise of the bank of an SRAM address (R205). -/
def State.sramNoise (s : State) (a : Nat) : Nat := ((s.grove (a / 2 ^ 22)).bank (a / 2 ^ 18 % 16)).noise
/-- One SRAM byte (R203); a byte of no stated value is free (R205). -/
def State.sramByte (s : State) (a : Nat) : Byte :=
  let n := s.sramNoise a
  if n = 0 ∨ SMap.get 0 s.sramTag (a / 32) = n then SMap.get 0 s.sram a else Config.bankByte n a
/-- SRAM bytes of a grove (R203). -/
def State.sramBytes (s : State) (a n : Nat) : List Byte := (span a n).map s.sramByte
/-- A sector's bytes take the values they read as (R205). -/
def settleSram (s : State) (sec : Nat) : State :=
  let n := s.sramNoise (32 * sec)
  if n = 0 ∨ SMap.get 0 s.sramTag sec = n then s
  else { s with
    sram := (span (32 * sec) 32).foldl (fun m a => SMap.set 0 m a (Config.bankByte n a)) s.sram
    sramTag := SMap.set 0 s.sramTag sec n }
/-- SRAM bytes written; a sector written whole loses its uncorrectable error. -/
def State.sramWrite (s : State) (ws : List (Nat × Byte)) : State :=
  let secs := sectors ws
  let s := secs.foldl settleSram s
  { s with
    sram := ws.foldl (fun (m : SMap Byte) (w : Nat × Byte) => SMap.set 0 m w.1 w.2) s.sram
    sramPoison := (secs.filter (covers ws)).foldl (fun x c => SMap.set false x c false) s.sramPoison }
/-- Every byte of a grove's banks is zero and every bank has its reset mode (R203). -/
def State.zeroGrove (s : State) (gr : Nat) : State :=
  let s := s.modGrove gr (fun g => { g with
    banks := g.banks.map (fun b => (b.1, { bankReset b.1 with bts := b.2.bts }))
    copies := [] })
  { s with
    sram := s.sram.filter (fun e => e.1 / 2 ^ 22 != gr)
    sramTag := s.sramTag.filter (fun e => e.1 / 2 ^ 17 != gr)
    sramPoison := s.sramPoison.filter (fun e => e.1 / 2 ^ 17 != gr) }

/-! ## Pod numbers (R2, R327) -/

/-- The difference set of a plane order (R327). -/
def diffSet : Nat → List Nat
  | 2 => [0, 1, 3]
  | 3 => [0, 1, 3, 9]
  | 4 => [0, 1, 4, 14, 16]
  | 5 => [0, 1, 3, 8, 12, 18]
  | _ => []
/-- Packages and modules of a plane order (R327). -/
def podSize (n : Nat) : Nat := n * n + n + 1
/-- The package's number, 0 before PODSET. -/
def State.pkg (s : State) : Nat := (s.crown.podset.map (·.2)).getD 0
/-- The module of a port (R327). -/
def State.portModule (s : State) (h : Nat) : Option Nat :=
  match s.crown.podset with
  | none => none
  | some (n, p) => (diffSet n)[h]?.map (fun d => (p + podSize n - d) % podSize n)
/-- The package at head h of module j (R327). -/
def State.headPkg (s : State) (j h : Nat) : Option Nat :=
  match s.crown.podset with
  | none => none
  | some (n, _) => (diffSet n)[h]?.map (fun d => (j + d) % podSize n)
/-- The port of this package to a module, if it is attached (R327). -/
def State.modulePort (s : State) (m : Nat) : Option Nat := (List.range 6).find? (fun h => s.portModule h == some m)
/-- The module that two packages share (R327). -/
def State.common (s : State) (p q : Nat) : Option Nat :=
  match s.crown.podset with
  | none => none
  | some (n, _) =>
    let on (x j : Nat) : Bool := (List.range (n + 1)).any (fun h => s.headPkg j h == some x)
    (List.range (podSize n)).find? (fun j => on p j && on q j)
/-- A pod port of the package. -/
def State.podPort (s : State) (h : Nat) : Port := (SMap.find? s.crown.ports h).getD {}
/-- A module is lost (R350). -/
def State.modLost (s : State) (m : Nat) : Bool := s.crown.lostMods.contains m
/-- The relay for a two-hop module (R330). -/
def State.relay (s : State) (l : Nat) : Option Nat :=
  match s.crown.podset with
  | none => none
  | some (n, p) =>
    (List.range (podSize n)).find? (fun r =>
      (List.range (n + 1)).any (fun h => s.headPkg l h == some r && !s.crown.lostHeads.contains (l, h)) &&
        (match s.common p r with
         | some c => !s.modLost c
         | none => false))
/-- The port by which data for a module leaves the package: the module's own, or that of the module shared with its relay
(R327, R330, R331). -/
def State.portTo (s : State) (m : Nat) : Option Nat :=
  match s.modulePort m with
  | some h => some h
  | none => (s.relay m).bind (fun r => (s.common s.pkg r).bind s.modulePort)
/-- The route to a module carries traffic: its port is not held in reset, nor down (R328, R402); a relayed one has its
transport queue (R331, R335). -/
def State.linkUp (s : State) (m : Nat) : Bool :=
  match s.portTo m with
  | none => false
  | some h => (s.podPort h).up && ((s.modulePort m).isSome || (s.podPort h).region.isSome)

/-- The modules that link this package to another (R327, R351): their common module, and once that is lost the two through
the lowest-numbered package that is linked to both; none where no route is left. Buds and relay transport go by them. -/
def State.budRoute (s : State) (q : Nat) : Option (List Nat) :=
  let live (x y : Nat) : Option Nat := (s.common x y).bind (fun c => if s.modLost c then none else some c)
  match live s.pkg q with
  | some c => some [c]
  | none =>
    match s.common s.pkg q, s.crown.podset with
    | some m, some (n, _) =>
      (List.range (podSize n)).findSome? (fun r =>
        if r = s.pkg ∨ r = q ∨ (List.range (n + 1)).any (fun h => s.headPkg m h == some r) then none
        else match live s.pkg r, live r q with
          | some a, some b => some [a, b]
          | _, _ => none)
    | _, _ => none

end Sys2Proof.Machine
end

