-- ==== Sys2Proof/Machine/Coherence.lean ====
section
/-! DEFINITION. Coherence inside the package (spec/16_coherence.md): reads and writes of TIER 0 lines by cores,
engines and atomics, leases, recalls, privatised lines, the dirty-line limit; the sizes of the caches and what they
evict (R1, R220, R221); and the SRAM banks' logical time. The HBM bytes of the state are always the bytes of the last
write; a copy keeps the bytes it was granted with. -/
namespace Sys2Proof.Machine

/-- The line of an address. -/
def lineOf (a : Nat) : Nat := a / 128
/-- A line at its home slice. -/
def State.line (s : State) (l : Nat) : LineTs := (SMap.find? s.lines l).getD { wts := s.lineFloor, rts := s.lineFloor }
/-- A line stored. -/
def State.setLine (s : State) (l : Nat) (x : LineTs) : State := { s with lines := SMap.put s.lines l x }
/-- The 128 bytes of a line as they stand. -/
def State.lineData (s : State) (k l : Nat) : List Byte := s.hbmBytes k (128 * l) 128
/-- The home slice of a line: 16 times the die plus the slice's number (R306). -/
def homeSlice (l : Nat) : Nat :=
  let a := 128 * l
  16 * (a / 2 ^ 36 / 2) + ((a / 2 ^ 7 % 16).xor (a / 2 ^ 11 % 16)).xor (a / 2 ^ 15 % 16)
/-- Byte mask of addresses of one line. -/
def lineMask (ws : List Nat) : BitVec 128 := ws.foldl (fun m a => m ||| (1#128 <<< (a % 128))) 0

/-! ## Recalls and merges (R308, R316) -/

/-- The line leaves a core's dirty lines. -/
def State.undirty (s : State) (c l : Nat) : State := s.modCore c (fun x => { x with dirty := x.dirty.filter (· != l) })
/-- A line of a core's L1 goes. -/
def State.dropL1 (s : State) (c l : Nat) : State := s.modCore c (fun x => { x with l1 := SMap.erase x.l1 l })
/-- A line of a grove cache goes. -/
def State.dropGrove (s : State) (g l : Nat) : State := s.modGrove g (fun x => { x with copies := SMap.erase x.copies l })

/-- The owner of a line writes it back, gives up ownership and keeps an ordinary leased copy (R308). -/
def State.recall (s : State) (l : Nat) : State :=
  let x := s.line l
  match x.owner with
  | none => s
  | some o =>
    let cp : Copy :=
      { wts := x.wts, rts := x.rts, data := s.lineData o.key l, key := o.key, cls := o.cls, way := o.way }
    let s := (s.setLine l { x with owner := none }).undirty o.core l
    if o.grove then s.modGrove (coreGrove o.core) (fun g => { g with copies := SMap.put g.copies l cp })
    else s.modCore o.core (fun c => { c with l1 := SMap.put c.l1 l cp })

/-- The latest of `p` and some times. -/
def tmaxOpt (p : Time) (ts : List (Option Time)) : Time :=
  ts.foldl (fun t w => match w with
    | some w => tmax t w
    | none => t) p

/-- A privatised line merged at its home (R316): wts takes the largest write time of a holder, or P. rts takes that too,
or the latest time at which a holder has read its own bytes, so that a later write comes after that read (R304). -/
def State.mergeLine (s : State) (l : Nat) : State :=
  let x := s.line l
  match x.priv with
  | none => s
  | some (p, hs) =>
    let t := tmaxOpt p (hs.map (·.wts))
    let s := s.setLine l
      { x with wts := t, rts := tmaxOpt t (hs.map (·.rts)), owner := none, grants := [], priv := none }
    hs.foldl (fun s h => s.undirty h.core l) s

/-- A line brought home: merged and recalled (R308, R316). -/
def State.bringHome (s : State) (l : Nat) : State := (s.mergeLine l).recall l
/-- The lines of some bytes brought home before the device itself reads them (R308, R316). -/
def State.touch (s : State) (a n : Nat) : State :=
  (((span a n).map lineOf).eraseDups).foldl (fun s l => s.bringHome l) s

/-- A core's dirty line written back; the core keeps a leased copy (R317). -/
def State.writeBack (s : State) (c l : Nat) : State :=
  match (s.line l).priv with
  | none => s.recall l
  | some (_, hs) =>
    let s := s.mergeLine l
    let x := s.line l
    match hs.find? (fun h => h.core == c) with
    | none => s
    | some h => s.modCore c (fun y => { y with
        l1 := SMap.put y.l1 l { wts := x.wts, rts := x.rts, data := s.lineData h.key l, key := h.key } })

/-- A core's line marked dirty; a 513th dirty line writes back the oldest first (R317). -/
def State.markDirty (s : State) (c l : Nat) : State :=
  let d := (s.core c).dirty
  if d.contains l then s
  else
    let s := match d with
      | o :: _ => if d.length < 512 then s else s.writeBack c o
      | [] => s
    s.modCore c (fun x => { x with dirty := x.dirty ++ [l] })

/-! ## The caches' sizes and what they evict (R1, R220, R221) -/

/-- The eviction class that a hint gives a line: evict-first lines go first, kept lines last (R221). -/
def allocClass : Hint → Nat
  | .evictFirst => 0
  | .normal => 1
  | .noL1 => 1
  | .keep => 2

/-- The first entry of the lowest class. -/
def victim : List (Nat × Nat) → Option Nat
  | [] => none
  | x :: r => some (r.foldl (fun b y => if y.2 < b.2 then y else b) x).1

/-- The lines of a core's L1 with their classes: its copies, and the lines that it owns there or holds privatised. -/
def State.l1Lines (s : State) (c : Nat) : List (Nat × Nat) :=
  (s.core c).l1.map (fun e => (e.1, e.2.cls)) ++ (s.core c).dirty.filterMap (fun l => match (s.line l).owner with
    | some o => if o.grove then none else some (l, o.cls)
    | none => some (l, 1))

/-- Room in a core's L1 of 2,048 lines (R1) for a line that is not there. -/
def State.l1Room (s : State) (c l : Nat) : State :=
  let ls := s.l1Lines c
  if ls.length < 2048 || ls.any (fun x => x.1 == l) then s
  else match victim ls with
    | none => s
    | some v => ((if (s.core c).dirty.contains v then s.writeBack c v else s)).dropL1 c v

/-- A copy placed in a core's L1. -/
def State.l1Put (s : State) (c l : Nat) (cp : Copy) : State :=
  (s.l1Room c l).modCore c (fun x => { x with l1 := SMap.put x.l1 l cp })

/-- The lines of a set of a grove cache, each with its class and way: copies, and lines that it owns (R220). DESIGN CHOICE
(log entry 113): the spec gives the 2,048 sets no index; a line's set is its number mod 2,048. -/
def State.setLines (s : State) (g l : Nat) : List (Nat × Nat × Nat) :=
  (s.grove g).copies.filterMap (fun e => if e.1 % 2048 = l % 2048 then some (e.1, e.2.cls, e.2.way) else none)
    ++ (span (4 * g) 4).flatMap (fun c => (s.core c).dirty.filterMap (fun d =>
      if d % 2048 ≠ l % 2048 then none
      else match (s.line d).owner with
        | some o => if o.grove then some (d, o.cls, o.way) else none
        | none => none))

/-- A line of a grove cache evicted: written back if the cache owns it (R220). -/
def State.evictGrove (s : State) (g l : Nat) : State :=
  (match (s.line l).owner with
    | some o => if o.grove && coreGrove o.core == g then s.recall l else s
    | none => s).dropGrove g l

/-- The way of a grove cache for a line, one way for each cache-mode bank over 2,048 sets (R220): the line's own way, a
free one, or that of the line that it evicts. -/
def State.groveWay (s : State) (g l : Nat) : Option (Nat × State) :=
  let ls := s.setLines g l
  match ls.find? (fun x => x.1 == l) with
  | some x => some (x.2.2, s)
  | none =>
    let ways := (List.range 16).filter (fun b => ((s.grove g).bank b).mode == .cache)
    match ways.find? (fun b => !ls.any (fun x => x.2.2 == b)) with
    | some b => some (b, s)
    | none => match victim (ls.map (fun x => (x.1, x.2.1))) with
      | none => none
      | some v => (ls.find? (fun x => x.1 == v)).map (fun x => (x.2.2, s.evictGrove g v))

/-- A copy placed in a grove cache, if the grove has a cache-mode bank. -/
def State.grovePut (s : State) (g l : Nat) (cp : Copy) : State :=
  match s.groveWay g l with
  | none => s
  | some (b, s) => s.modGrove g (fun x => { x with copies := SMap.put x.copies l { cp with way := b } })

/-- A bank that leaves cache mode writes back and invalidates its lines (R205). -/
def State.flushBank (s : State) (g b : Nat) : State :=
  let owned := (span (4 * g) 4).flatMap (fun c => (s.core c).dirty.filter (fun d => match (s.line d).owner with
    | some o => o.grove && o.way == b
    | none => false))
  (owned.foldl (fun s l => s.recall l) s).modGrove g (fun x => { x with
    copies := x.copies.filter (fun e => e.2.way != b) })

/-- A grove cache written back and invalidated (R203). -/
def State.flushGrove (s : State) (g : Nat) : State := (List.range 16).foldl (fun s b => s.flushBank g b) s

/-! ## Writes by a core (R307, R310, R315) -/

/-- Pairwise disjoint masks. -/
def disjointMasks : List (BitVec 128) → Bool
  | [] => true
  | m :: r => r.all (fun n => m &&& n == 0) && disjointMasks r

/-- The holders that the last four grants make (R315): every core among them, with the union of its masks. -/
def holdersOf (k : Nat) (gs : List (Nat × BitVec 128)) : List Holder :=
  (gs.map (·.1)).eraseDups.map (fun c =>
    { core := c, mask := (gs.filter (fun g => g.1 == c)).foldl (fun m g => m ||| g.2) 0, wts := none, key := k })

/-- The next grant of ownership privatises the line (R315). -/
def privatises (gs : List (Nat × BitVec 128)) : Bool :=
  gs.length == 4 && disjointMasks (gs.map (·.2)) && decide (1 < (gs.map (·.1)).eraseDups.length)

/-- P, where a core is a holder of the line and the bytes lie inside its mask (R315). -/
def LineTs.holderP (x : LineTs) (k c : Nat) (m : BitVec 128) : Option Time :=
  x.priv.bind (fun p =>
    if p.2.any (fun h => h.core == c && h.key == k && m &&& ~~~h.mask == 0) then some p.1 else none)
/-- A holder of a line changed. -/
def LineTs.modHolder (x : LineTs) (c : Nat) (f : Holder → Holder) : LineTs :=
  { x with priv := x.priv.map (fun p => (p.1, p.2.map (fun h => if h.core = c then f h else h))) }

/-- A holder writes bytes inside its mask (R315). -/
def State.holderWrite (s : State) (c l : Nat) (p : Time) : State :=
  let s := s.setPts c (tmax (s.pts c) (p + 1))
  let t := s.pts c
  (((s.setLine l ((s.line l).modHolder c (fun h => { h with wts := some t }))).l1Room c l).dropL1 c l).markDirty c l

/-- A write at the line's home by a core that does not own it (R307): pts jumps past the lease, and ownership goes to
`own`, which is a grant of the bytes `m` (R315). -/
def State.grantLine (s : State) (c l : Nat) (m : BitVec 128) (own : Option Owner) : State :=
  let s := s.bringHome l
  let x := s.line l
  let s := s.setPts c (tmax (s.pts c) (x.rts + 1))
  let t := s.pts c
  let x : LineTs := { x with wts := t, rts := t }
  match own with
  | none => s.setLine l x
  | some o =>
    let gs := (x.grants ++ [(c, m)]).drop (x.grants.length + 1 - 4)
    if o.grove then
      match s.groveWay (coreGrove c) l with
      | none => s.setLine l x
      | some (b, s) =>
        ((s.dropGrove (coreGrove c) l).setLine l { x with owner := some { o with way := b }, grants := gs }).markDirty c l
    else (((s.l1Room c l).dropL1 c l).setLine l { x with owner := some o, grants := gs }).markDirty c l

/-- The owner is the core itself, there and under that key. -/
def ownedBy (x o : Option Owner) : Bool :=
  match x, o with
  | some a, some b => a.core == b.core && a.grove == b.grove && a.key == b.key
  | _, _ => false

/-- P, where a write of the bytes `m` executes in a holder's own copy, not at the home slice (R308, R315). -/
def State.holderAt (s : State) (k c l : Nat) (m : BitVec 128) (home : Bool) : Option Time :=
  if home then none else (s.line l).holderP k c m

/-- A write of a line that the core owns (R307). -/
def State.ownerWrite (s : State) (c l : Nat) : State :=
  let x := s.line l
  let s := s.setPts c (tmax (s.pts c) (x.rts + 1))
  let t := s.pts c
  (s.setLine l { x with wts := t, rts := t }).markDirty c l

/-- A write by a core that neither owns the line nor holds it: at the home, where the grant of ownership may privatise the
line (R307, R315). -/
def State.strangerWrite (s : State) (k c l : Nat) (m : BitVec 128) (own : Option Owner) (home : Bool) : State :=
  let s := s.bringHome l
  let y := s.line l
  if own.isSome && privatises y.grants then
    let s := s.setLine l { y with priv := some (y.rts, holdersOf k y.grants) }
    match s.holderAt k c l m home with
    | some p => s.holderWrite c l p
    | none => s.grantLine c l m own
  else s.grantLine c l m own

/-- The time effects of a write of the bytes `m` of a line, with ownership for `own` (R307, R310, R315, R317). A write
that executes at the home slice brings the line there first (R308, R316). -/
def State.writeTimes (s : State) (k c l : Nat) (m : BitVec 128) (own : Option Owner) (home : Bool) : State :=
  match s.holderAt k c l m home with
  | some p => s.holderWrite c l p
  | none =>
    let s := if home then s.bringHome l else s.mergeLine l
    if ownedBy (s.line l).owner own then s.ownerWrite c l else s.strangerWrite k c l m own home

/-- Who owns a line after a core's store: its L1; with `.nol1` the grove cache, and no one where it has no cache-mode
bank (R310). -/
def State.storeOwner (s : State) (k c : Nat) (h : Hint) : Option Owner :=
  if h = .noL1 then
    if (s.grove (coreGrove c)).hasCache then some { core := c, grove := true, key := k, cls := allocClass h } else none
  else some { core := c, grove := false, key := k, cls := allocClass h }

/-- A core's L1 copy of a line takes the bytes and times that the line has now (R310). -/
def State.refreshL1 (s : State) (k c l : Nat) : State :=
  let x := s.line l
  let d := s.lineData k l
  s.modCore c (fun y => { y with
    l1 := SMap.mod y.l1 l (fun cp => { cp with wts := x.wts, rts := x.rts, data := d, key := k }) })

/-- A core's ordinary store of bytes of one line (R307); with `.nol1` as R310 states. -/
def State.coreWrite (s : State) (k c : Nat) (h : Hint) (ws : List (Nat × Byte)) : State :=
  match ws with
  | [] => s
  | w :: _ =>
    let l := lineOf w.1
    let s := (s.writeTimes k c l (lineMask (ws.map (·.1))) (s.storeOwner k c h) false).hbmWrite k ws
    if h = .noL1 then s.refreshL1 k c l else s

/-- The time effects of an atomic or of an `SC` that writes, at the home slice: the core owns the line afterwards (R307,
R308, R320, R322). -/
def State.atomTimes (s : State) (k c a n : Nat) : State :=
  s.writeTimes k c (lineOf a) (lineMask (span a n)) (s.storeOwner k c .normal) true

/-! ## Reads by a core (R307, R310, R315) -/

/-- Bytes of a copy. -/
def Copy.bytes (cp : Copy) (a n : Nat) : List Byte := (span a n).map (fun i => cp.data.getD (i % 128) 0)

/-- A copy goes where a read with the hint allocates it (R221). -/
def State.allocate (s : State) (c l : Nat) (h : Hint) (cp : Copy) : State :=
  (if h = .noL1 then s else s.l1Put c l cp).grovePut (coreGrove c) l cp

/-- A read served at the home (R307): the time effects; copies go into the L1 and the grove cache. -/
def State.readHome (s : State) (k c l : Nat) (lease : BitVec 8) (h : Hint) : State :=
  let s := s.bringHome l
  let x := s.line l
  let s := s.setPts c (tmax (s.pts c) x.wts)
  let rts := tmax x.rts (s.pts c + lease.setWidth 24)
  (s.setLine l { x with rts := rts }).allocate c l h
    { wts := x.wts, rts := rts, data := s.lineData k l, key := k, cls := allocClass h }

/-- A renewal at the home (R307): no data moves. Nothing when the line was written since. -/
def State.renew (s : State) (c l : Nat) (lease : BitVec 8) (wts : Time) : Option (State × Time) :=
  let s := s.bringHome l
  let x := s.line l
  if x.wts = wts then
    let rts := tmax x.rts (s.pts c + lease.setWidth 24)
    some (s.setLine l { x with rts := rts }, rts)
  else none

/-- A holder reads bytes inside its mask from its own copy at its pts (R315): the bytes as they stand where its time has
reached their write, else its leased copy while that lasts, else at the time of their write. -/
def State.holderRead (s : State) (k c l a n : Nat) : List Byte × State :=
  let x := s.line l
  match (if tle x.wts (s.pts c) then none else SMap.find? (s.core c).l1 l).filter (fun cp =>
    cp.key == k && tle (s.pts c) cp.rts) with
  | some cp => (cp.bytes a n, s.setPts c (tmax (s.pts c) cp.wts))
  | none =>
    let s := s.setPts c (tmax (s.pts c) x.wts)
    let t := s.pts c
    (s.hbmBytes k a n, s.setLine l (x.modHolder c (fun h => { h with rts := some (tmax (h.rts.getD t) t) })))

/-- A read of a line that the core owns (R307). -/
def State.ownerRead (s : State) (k c l a n : Nat) : List Byte × State :=
  let x := s.line l
  let s := s.setPts c (tmax (s.pts c) x.wts)
  (s.hbmBytes k a n, s.setLine l { x with rts := tmax x.rts (s.pts c) })

/-- A copy tested, renewed, or nothing (R307): the copy with its lease, and the state after. -/
def State.hit (s : State) (c l : Nat) (lease : BitVec 8) (cp : Copy) : Option (Copy × State) :=
  if tle (s.pts c) cp.rts then some (cp, s.setPts c (tmax (s.pts c) cp.wts))
  else (s.renew c l lease cp.wts).map (fun r =>
    ({ cp with rts := r.2 }, r.1.setPts c (tmax (r.1.pts c) cp.wts)))

/-- A core's ordinary read of `n` bytes at `a`, within one line (R307, R310, R315). -/
def State.coreRead (s : State) (k c : Nat) (lease : BitVec 8) (h : Hint) (a n : Nat) : List Byte × State :=
  let l := lineOf a
  match (s.line l).holderP k c (lineMask (span a n)) with
  | some _ => s.holderRead k c l a n
  | none =>
    let s := s.mergeLine l
    let home (s : State) : List Byte × State :=
      let s := s.readHome k c l lease h
      (s.hbmBytes k a n, s)
    if ownedBy (s.line l).owner (some { core := c, grove := false, key := k })
      || ownedBy (s.line l).owner (some { core := c, grove := true, key := k }) then s.ownerRead k c l a n
    else
      let g := coreGrove c
      match (if h = .noL1 then none else SMap.find? (s.core c).l1 l).filter (fun cp => cp.key == k) with
      | some cp =>
        match s.hit c l lease cp with
        | some (cp, s) => (cp.bytes a n, s.modCore c (fun y => { y with l1 := SMap.put y.l1 l cp }))
        | none => home s
      | none =>
        match (SMap.find? (s.grove g).copies l).filter (fun cp => cp.key == k) with
        | some cp =>
          match s.hit c l lease cp with
          | some (cp, s) =>
            let s := s.modGrove g (fun y => { y with copies := SMap.put y.copies l cp })
            (cp.bytes a n, if h = .noL1 then s else s.l1Put c l { cp with cls := allocClass h })
          | none => home s
        | none => home s

/-- A line fetched into the caches that a hint names (R215): a copy under a read's lease; no core's time moves. -/
def State.prefetch (s : State) (k c l : Nat) (lease : BitVec 8) (h : Hint) : State :=
  let x := s.line l
  let mine := match x.owner with
    | some o => o.core == c
    | none => false
  if mine || (x.holderP k c 0).isSome then s
  else
    let s := s.bringHome l
    let x := s.line l
    let rts := tmax x.rts (tmax (s.pts c) x.wts + lease.setWidth 24)
    (s.setLine l { x with rts := rts }).allocate c l h
      { wts := x.wts, rts := rts, data := s.lineData k l, key := k, cls := allocClass h }

/-- The time effects of a read at the home slice that takes a lease, never from a copy (R321). -/
def State.lrTimes (s : State) (c l : Nat) (lease : BitVec 8) : State :=
  let s := s.bringHome l
  let x := s.line l
  let s := s.setPts c (tmax (s.pts c) x.wts)
  s.setLine l { x with rts := tmax x.rts (s.pts c + lease.setWidth 24) }

/-! ## Accesses by parties with a time of their own (R269, R313, R323) -/

/-- A read at the home by a party with its own time (R269, R313): the bytes, the party's new time. -/
def State.ownRead (s : State) (k : Nat) (t : Time) (lease : BitVec 8) (a n : Nat) : List Byte × Time × State :=
  let l := lineOf a
  let s := s.bringHome l
  let x := s.line l
  let t := tmax t x.wts
  let s := s.setLine l { x with rts := tmax x.rts (t + lease.setWidth 24) }
  (s.hbmBytes k a n, t, s)

/-- A write at the home by a party with its own time (R269). -/
def State.ownWrite (s : State) (k : Nat) (t : Time) (ws : List (Nat × Byte)) : Time × State :=
  match ws with
  | [] => (t, s)
  | w :: _ =>
    let l := lineOf w.1
    let s := s.bringHome l
    let x := s.line l
    let t := tmax t (x.rts + 1)
    (t, (s.setLine l { x with wts := t, rts := t }).hbmWrite k ws)

/-- A write at the home by the device itself, which has no time of its own: the next time of its line, or of `t`. -/
def State.homeStore (s : State) (k : Nat) (ws : List (Nat × Byte)) (t : Option Time := none) : State :=
  match ws with
  | [] => s
  | w :: _ => (s.ownWrite k (t.getD (s.line (lineOf w.1)).rts) ws).2

/-- A write of the host through a window: the device performs these writes in the order in which they arrive (R199), so
none has an earlier time than the one before. -/
def State.windowWrite (s : State) (k : Nat) (ws : List (Nat × Byte)) : State :=
  let ws := ws.filter (fun w => !s.hbmGone w.1)
  let (t, s) := s.ownWrite k s.crown.windowTs ws
  s.modCrown (fun c => { c with windowTs := t })

/-- A non-temporal store performed at the home: ts = rts + 1 of its line, and no core's pts moves (R323). -/
def State.stntWrite (s : State) (k : Nat) (ws : List (Nat × Byte)) : Time × State :=
  match ws with
  | [] => (0, s)
  | w :: _ =>
    let l := lineOf w.1
    let s := s.bringHome l
    let x := s.line l
    let t := x.rts + 1
    (t, (s.setLine l { x with wts := t, rts := t }).hbmWrite k ws)

/-! ## SRAM banks (R314) -/

/-- Grove and bank of an SRAM address. -/
def sramBank (a : Nat) : Nat × Nat := (a / 2 ^ 22, a / 2 ^ 18 % 16)

/-- A core's access at a bank: the time effects (R314). -/
def State.bankTime (s : State) (c a : Nat) (wr : Bool) : State :=
  let (g, b) := sramBank a
  let t := tmax (s.pts c) (s.bankOf g b).bts
  let s := s.setPts c t
  if wr then s.modBank g b (fun x => { x with bts := t }) else s

/-- An access at a bank by a party with its own time (R314). -/
def State.bankTimeOwn (s : State) (t : Time) (a : Nat) (wr : Bool) : Time × State :=
  let (g, b) := sramBank a
  let t := tmax t (s.bankOf g b).bts
  (t, if wr then s.modBank g b (fun x => { x with bts := t }) else s)

end Sys2Proof.Machine
end

