-- ==== Sys2Proof/Machine/Objects.lean ====
section
/-! DEFINITION. Object pointers, descriptors, pages and translation (spec/15_objects.md), the class of a layout key
(R391), and the device's own accesses through pointers. -/
namespace Sys2Proof.Machine

/-- Object number of a pointer (R276). -/
def ptrObj (p : Word) : Nat := p.toNat / 2 ^ 40 % 2 ^ 21
/-- Byte offset of a pointer (R276). -/
def ptrOff (p : Word) : Nat := p.toNat % 2 ^ 40
/-- Restriction bit 63: the pointer does not grant W (R276). -/
def ptrNW (p : Word) : Bool := p.getLsbD 63
/-- Restriction bit 62: the pointer does not grant E or G (R276). -/
def ptrNE (p : Word) : Bool := p.getLsbD 62
/-- Restriction bit 61: the pointer does not grant A (R276). -/
def ptrNA (p : Word) : Bool := p.getLsbD 61
/-- The pointer with another offset: object number and restriction bits kept (R91, R286). -/
def ptrWith (p : Word) (off : Nat) : Word := BitVec.ofNat 64 (p.toNat / 2 ^ 40 * 2 ^ 40 + off % 2 ^ 40)

/-- A field of a number. -/
def bits (w lo n : Nat) : Nat := w / 2 ^ lo % 2 ^ n
/-- A bit of a number. -/
def bit (w i : Nat) : Bool := bits w i 1 == 1

/-- A location word (R279), and whether its reserved fields are zero. -/
def parseLoc (w : Nat) : Loc × Bool :=
  ({ tier := bits w 0 2, port := bits w 8 3, modul := bits w 11 5 }, bits w 16 48 == 0 && bits w 2 6 == 0)

/-- The eight words of a descriptor (R279). -/
def parseDesc (w : Nat → Nat) : Desc :=
  let w0 := w 0
  { valid := bit w0 63, r := bit w0 62, w := bit w0 61, a := bit w0 60, e := bit w0 59, g := bit w0 58,
    isSealed := bit w0 57, lkey := bit w0 56, keyh := bits w0 48 8, size := bits w0 0 41, plist := w 1,
    loc := (parseLoc (w 2)).1, alt := (parseLoc (w 3)).1, hset := bit (w 4) 7, homePkg := bits (w 4) 2 5,
    homeDie := bits (w 4) 0 2,
    clean := bits w0 41 7 == 0 && (parseLoc (w 2)).2 && (parseLoc (w 3)).2 && bits (w 4) 8 56 == 0
      && bits (w 5) 8 56 == 0 && w 6 == 0 && w 7 == 0 }

/-- A location is legal (R280; DEDUCED, log entry 94: no zeros beyond those of R280's list). -/
def State.locOk (s : State) (l : Loc) : Bool :=
  match l.tier with
  | 1 => (match s.crown.podset with
      | some (n, _) => decide (l.port ≤ n)
      | none => false)
  | 2 => (match s.crown.podset with
      | some (n, _) => decide (l.modul < podSize n) && (s.modulePort l.modul).isNone
      | none => false)
  | _ => l.port == 0 && l.modul == 0

/-- A descriptor describes a valid object (R280). -/
def State.descOk (s : State) (d : Desc) : Bool :=
  d.valid && d.clean && decide (1 ≤ d.size) && decide (d.size ≤ 2 ^ 40) && (!d.isSealed || d.lkey)
    && s.locOk d.loc && s.locOk d.alt
    && (d.hset || (d.loc.tier == 0 && d.alt.tier == 0))
    && ((d.loc.tier != 3 && d.alt.tier != 3) || d.homePkg == s.pkg)

/-- Bytes of a local frame, rounded up (R19 LOCALSET, R213). -/
def frameBytes (sKiB : Nat) : Nat := (1024 + 32 * sKiB * 1024 + 65535) / 65536 * 65536
/-- Physical base of a local frame (R213). -/
def frameBase (p : Part) (k : Nat) : Nat := p.localBase + k * frameBytes p.localS
/-- The object number of a frame's local object: the model's choice (log entry 6). -/
def localObj (k : Nat) : Nat := 2 ^ 21 - 1 - k
/-- The LOCAL pointer of a frame (R79, log entry 6). -/
def localPtr (k : Nat) : Word := BitVec.ofNat 64 (localObj k * 2 ^ 40)
/-- The frame that an object number is the local object of. -/
def frameOf (p : Part) (obj : Nat) : Option Nat :=
  if p.frames = 0 ∨ obj + p.frames < 2 ^ 21 then none else some (2 ^ 21 - 1 - obj)
/-- The descriptor of a local object (R213, log entry 6). -/
def localDesc (p : Part) : Desc :=
  { valid := true, r := true, w := true, a := true, e := true, g := false, isSealed := false, lkey := false, keyh := 0,
    size := 32 * p.localS * 1024, plist := 0, loc := ⟨0, 0, 0⟩, alt := ⟨0, 0, 0⟩, hset := false, homePkg := 0,
    homeDie := 0, clean := true }

/-- A 64-bit word of HBM. -/
def State.hbmWord (s : State) (k a : Nat) : Nat := wordOf (s.hbmBytes k a 8)

/-- A walk of the directory (R283): the descriptor of a valid object, or the fault. -/
def State.walkDesc (s : State) (p : Part) (obj : Nat) : Except Code Desc :=
  if obj = 0 then .error .objInvalid
  else match frameOf p obj with
    | some _ => .ok (localDesc p)
    | none =>
      match p.dir with
      | none => .error .objInvalid
      | some (base, count) =>
        if count ≤ obj then .error .objInvalid
        else
          let a := base + 64 * obj
          if s.hbmBadSpan a 64 then .error .uePoison
          else
            let d := parseDesc (fun i => s.hbmWord p.keyId (a + 8 * i))
            if s.descOk d then .ok d else .error .objInvalid

/-- A walk reads a directory entry by an ordinary read: its line is brought home (R283, R308, R316). -/
def State.touchDir (s : State) (p : Part) (obj : Nat) : State :=
  match frameOf p obj, p.dir with
  | none, some (base, count) => if obj < count then s.touch (base + 64 * obj) 64 else s
  | _, _ => s

/-- Key of a descriptor in an OTLB. -/
def otlbKey (part obj : Nat) : Nat := part * 2 ^ 21 + obj
/-- Key of an entry in a port's translation cache. -/
def portKey (part obj page : Nat) : Nat := (part * 2 ^ 21 + obj) * 2 ^ 24 + page

/-- Descriptors that an OTLB holds (R11, R283). -/
def otlbSize : Nat := 512
/-- A core's OTLB copy of an object's descriptor, whose validity is checked as for the descriptor itself (R280, R283). -/
def State.otlbDesc (s : State) (c : Nat) (p : Part) (obj : Nat) : Option (Except Code Desc) :=
  (SMap.find? (s.core c).otlb (otlbKey p.num obj)).map (fun d =>
    if (frameOf p obj).isSome || s.descOk d then .ok d else .error .objInvalid)
/-- A descriptor kept in a core's OTLB; a full OTLB loses another, which one is the device's choice (R283, log entry
82). -/
def State.keepDesc (s : State) (c key : Nat) (d : Desc) : State :=
  let s : State := if (s.core c).otlb.length < otlbSize then s
    else
      let k := (Config.freeWord s.fresh).toNat % (s.core c).otlb.length
      { s.modCore c (fun x => { x with otlb := x.otlb.eraseIdx k }) with fresh := s.fresh + 1 }
  s.modCore c (fun x => { x with otlb := SMap.put x.otlb key d })
/-- A core's descriptor of an object: its OTLB copy, or a walk whose result it keeps (R283). -/
def State.coreDesc (s : State) (c part obj : Nat) : Except Code Desc × State :=
  match SMap.find? s.parts part with
  | none => (.error .objInvalid, s)
  | some p =>
    match s.otlbDesc c p obj with
    | some x => (x, s)
    | none =>
      let s := s.touchDir p obj
      match s.walkDesc p obj with
      | .error e => (.error e, s)
      | .ok d => (.ok d, s.keepDesc c (otlbKey part obj) d)

/-- What an access finds at a page (R283, R289). -/
inductive PageRes where
  | bad
  | absent (mal : Bool)
  | migrating
  | here (p : Page)
  deriving DecidableEq, Repr

/-- A page is migrating (R300). -/
def State.isMigrating (s : State) (part obj page : Nat) : Bool :=
  s.migrations.any (fun m => m.started && m.part == part && m.obj == obj && m.page == page)

/-- The entry of a page as a walk reads it (R281). -/
def State.walkPage (s : State) (p : Part) (d : Desc) (page : Nat) : PageRes :=
  let a := d.plist + 8 * page
  if s.hbmBadSpan a 8 then .bad
  else
    let w := s.hbmWord p.keyId a
    let tier := if bit w 62 then d.alt.tier else d.loc.tier
    if !bit w 63 then .absent false
    else if bits w 48 13 != 0 || bits w 0 16 != 0 || (tier == 0 && bits w 39 9 != 0) then .absent true
    else .here { alt := bit w 62, frame := bits w 16 32 }

/-- A die's translation of a page (R283): its port's copy, or a walk that is kept when it finds a present page. -/
def State.pageAt (s : State) (die : Nat) (p : Part) (obj : Nat) (d : Desc) (page : Nat) (wr : Bool) : PageRes × State :=
  if wr && s.isMigrating p.num obj page then (.migrating, s)
  else
    let key := portKey p.num obj page
    match SMap.find? (s.die die).port key with
    | some q => (.here q, s)
    | none =>
      let s := s.touch (d.plist + 8 * page) 8
      match s.walkPage p d page with
      | .here q => (.here q, s.modDie die (fun x => { x with port := SMap.put x.port key q }))
      | r => (r, s)

/-- Location and address of an offset on a present page (R281, R445). -/
def State.placeOf (s : State) (d : Desc) (q : Page) (off : Nat) : Place × Nat :=
  let l := if q.alt then d.alt else d.loc
  let a := q.frame * 65536 + off % 65536
  match l.tier with
  | 0 => (.hbm a, 0)
  | 1 => (.modul (some l.port) ((s.portModule l.port).getD 0) a, 1)
  | 2 => (.modul none l.modul a, 2)
  | _ => (.host a, 3)

/-- A module place cannot be reached: the module is lost, or no relay qualifies (R330, R351). -/
def State.placeLost (s : State) (pl : Place) : Bool :=
  match pl with
  | .modul (some _) m _ => s.modLost m
  | .modul none m _ => s.modLost m || (s.relay m).isNone
  | _ => false

/-- A module place that is not lost, but whose route carries no traffic now (R328): an access of it waits. -/
def State.placeDown (s : State) (pl : Place) : Bool :=
  match pl with
  | .modul _ m _ => !s.placeLost pl && !s.linkUp m
  | _ => false

/-- The outcome of translating an access. -/
inductive Xlat where
  | fault (c : Code)
  | miss (m : Miss) (mal : Bool)
  | place (pl : Place) (tier : Nat)
  deriving DecidableEq, Repr

/-- The page of an offset of an object, from a die (R283, R289). Local objects are always present. -/
def State.translate (s : State) (die : Nat) (p : Part) (obj : Nat) (d : Desc) (off : Nat) (wr : Bool) : Xlat × State :=
  match frameOf p obj with
  | some k => (.place (.hbm (frameBase p k + 1024 + off)) 0, s)
  | none =>
    let page := off / 65536
    match s.pageAt die p obj d page wr with
    | (.bad, s) => (.fault .uePoison, s)
    | (.absent mal, s) => (.miss { obj, page, mig := false } mal, s)
    | (.migrating, s) => (.miss { obj, page, mig := true } false, s)
    | (.here q, s) =>
      let (pl, t) := s.placeOf d q off
      (.place pl t, s)

/-- The class of an object's layout key (R391). -/
inductive KeyClass where
  | none | open_ | sealed_ | mismatch
  deriving DecidableEq, Repr

/-- The class of a descriptor's layout key: an installed or dropping handle's attribute decides; a free handle leaves
it to the SEALED bit (R391). -/
def keyClass (p : Part) (d : Desc) : KeyClass :=
  if !d.lkey then .none
  else match SMap.find? p.handles d.keyh with
    | none => if d.isSealed then .sealed_ else .open_
    | some h => if h.isSealed != d.isSealed then .mismatch else if h.isSealed then .sealed_ else .open_

/-- The fault of the sealing step of a load, a store or an atomic (R210 step 5, R319, R391). -/
def sealFault : KeyClass → Option Code
  | .sealed_ => some .sealDenied
  | .mismatch => some .sealKey
  | _ => Option.none

/-- The home of a page (R282): package and die, or the fault or miss of its lookup. -/
def State.homeOf (s : State) (die : Nat) (p : Part) (obj : Nat) (d : Desc) (off : Nat) :
    Except Xlat (Nat × Nat) × State :=
  if d.hset then (.ok (d.homePkg, d.homeDie), s)
  else match s.translate die p obj d off false with
    | (.place (.hbm a) _, s) => (.ok (s.pkg, a / 2 ^ 36 / 2), s)
    | (x, s) => (.error x, s)

/-! ## The device's own accesses (R17, R406): words of TIER 0 objects, by pointer -/

/-- The HBM address of a device access through a pointer, if it names a present TIER 0 page of a valid object. -/
def State.devAddr (s : State) (part : Nat) (ptr : Word) : Option Nat :=
  match SMap.find? s.parts part with
  | none => none
  | some p =>
    match s.walkDesc p (ptrObj ptr) with
    | .error _ => none
    | .ok d =>
      if d.size ≤ ptrOff ptr then none
      else match (s.translate 0 p (ptrObj ptr) d (ptrOff ptr) false).1 with
        | .place (.hbm a) _ => some a
        | _ => none

/-- The tenant key number of a partition. -/
def State.keyOf (s : State) (part : Nat) : Nat := ((SMap.find? s.parts part).map (·.keyId)).getD 0

/-- A 64-bit field read by the device. -/
def State.devRead (s : State) (part : Nat) (ptr : Word) : Option Word :=
  (s.devAddr part ptr).map (fun a => BitVec.ofNat 64 (s.hbmWord (s.keyOf part) a))

/-- The lines that the device's walk for a pointer reads, brought home (R283, R316). -/
def State.devWalk (s : State) (part : Nat) (ptr : Word) : State :=
  match SMap.find? s.parts part with
  | none => s
  | some p =>
    let s := s.touchDir p (ptrObj ptr)
    match s.walkDesc p (ptrObj ptr) with
    | .error _ => s
    | .ok d => (s.translate 0 p (ptrObj ptr) d (ptrOff ptr) false).2
/-- The line of a field, and those of the walk to it, brought home before the device reads it (R308, R316). -/
def State.devTouch (s : State) (part : Nat) (ptr : Word) : State :=
  let s := s.devWalk part ptr
  match s.devAddr part ptr with
  | none => s
  | some a => s.touch a 8
/-- The lines of n bytes from a line's start on, brought home before the device reads them (R308, R316). -/
def State.devTouchSpan (s : State) (part : Nat) (ptr : Word) (n : Nat) : State :=
  (List.range ((n + 127) / 128)).foldl (fun s i => s.devTouch part (ptr + BitVec.ofNat 64 (128 * i))) s
/-- Some sector of n bytes of one page that the device reads is poisoned or on a failed stack (R303, R440). -/
def State.devBad (s : State) (part : Nat) (ptr : Word) (n : Nat) : Bool :=
  match s.devAddr part ptr with
  | none => false
  | some a => s.hbmBadSecs a n
/-- The logical time at which a word was last written; its line is at home. -/
def State.wordTime (s : State) (part : Nat) (ptr : Word) : Time :=
  ((s.devAddr part ptr).map (fun a => (s.line (lineOf a)).wts)).getD s.lineFloor

/-- A 64-bit field read by the device at its home for a party of logical time `t`: the field and the party's time (R307). -/
def State.devFetch (s : State) (part : Nat) (ptr : Word) (t : Time) : Option (Word × Time) × State :=
  let s := s.devWalk part ptr
  match s.devAddr part ptr with
  | none => (none, s)
  | some a =>
    let (bs, t, s) := s.ownRead (s.keyOf part) t 0 a 8
    (some (BitVec.ofNat 64 (wordOf bs), t), s)

/-- A 64-bit field stored by the device at the home (R17). Nothing is stored where the page is not there, or its stack has
failed (R440). -/
def State.devWrite (s : State) (part : Nat) (ptr : Word) (t : Time) (w : Word) : State :=
  match s.devAddr part ptr with
  | none => s
  | some a => if s.hbmGone a then s else (s.ownWrite (s.keyOf part) t (addrBytes a (bytesOf 8 w.toNat))).2

/-- A field stored by the device for no party: at the next time of its line, or of `t`. -/
def State.devStore (s : State) (part : Nat) (ptr : Word) (w : Word) (t : Option Time := none) : State :=
  match s.devAddr part ptr with
  | none => s
  | some a => if s.hbmGone a then s else s.homeStore (s.keyOf part) (addrBytes a (bytesOf 8 w.toNat)) t

/-- A field changed by the device. -/
def State.devMod (s : State) (part : Nat) (ptr : Word) (f : Word → Word) (t : Option Time := none) : State :=
  match s.devRead part ptr with
  | none => s
  | some w => s.devStore part ptr (f w) t

/-- A partition's clear window holds the bytes at a module (R333, R335): windows are kept by port, and bytes for a two-hop
module leave by the port that leads to its relay (DEDUCED, log entry 79). -/
def State.inWindow (s : State) (p : Part) (m a n : Nat) : Bool :=
  match s.portTo m with
  | none => false
  | some h =>
    match SMap.find? p.windows h with
    | some (base, size) => decide (base ≤ a) && decide (a + n ≤ base + size)
    | none => false

/-- The tenant key under which bytes go to a module: none inside the clear window (R333). -/
def State.modKeyOf (s : State) (p : Part) (m a n : Nat) : Option Nat :=
  if s.inWindow p m a n then none else some p.keyId

end Sys2Proof.Machine
end

