-- ==== Sys2Proof/Machine/Rcb.lean ====
section
/-! DEFINITION. Region control blocks (spec/02_work.md R17-R22): the chain to the partition root, effective values,
charges at every level (R13), counters; and fault records (R404-R406). -/
namespace Sys2Proof.Machine

/-- A field of an RCB in memory. DESIGN CHOICE (log entry 116): a level whose RCB cannot be read any more, its object
invalid or its page absent, reads as 0 in every field; a poisoned one reads as its bytes stand (log entry 107). -/
def State.rcbWord (s : State) (part : Nat) (rcb : Word) (off : Nat) : Nat :=
  ((s.devRead part (rcb + BitVec.ofNat 64 off)).map (·.toNat)).getD 0

/-- Two pointers name the same bytes, whatever their restriction bits. -/
def samePtr (a b : Word) : Bool := a.toNat % 2 ^ 61 == b.toNat % 2 ^ 61

/-- The RCB and its ancestors up to the partition root (R13), which binds whatever the PARENT words hold (R22): a walk
that finds no parent, or one that it has passed (`seen`), ends at the root too. An HBM of 2^39 bytes holds at most 2^31
RCBs. -/
def State.chainFrom (s : State) (part : Nat) (root : Word) : Nat → List Word → Word → List Word
  | 0, _, _ => [root]
  | f + 1, seen, r =>
    if samePtr r root then [root]
    else match s.devRead part (r + 0x10) with
      | none => [r, root]
      | some up => if seen.any (samePtr up) then [r, root] else r :: s.chainFrom part root f (up :: seen) up

/-- The chain of an RCB in its partition. -/
def State.chain (s : State) (part : Nat) (rcb : Word) : List Word :=
  match (SMap.find? s.parts part).bind (·.root) with
  | none => []
  | some root => s.chainFrom part root (2 ^ 31) [rcb] rcb

/-- The RCBs that are linked below others, each with the RCB whose CHILD list links it (R17): `work` are the pointers
still to follow, `seen` the RCBs found. A pointer to no object ends its list, and so does an RCB found before. -/
def State.linksFrom (s : State) (part : Nat) : Nat → List (Word × Word) → List (Word × Word) → List (Word × Word)
  | 0, _, seen => seen.reverse
  | _ + 1, [], seen => seen.reverse
  | f + 1, (r, parent) :: work, seen =>
    if ptrObj r = 0 || (s.devRead part r).isNone || seen.any (fun x => samePtr x.1 r) then s.linksFrom part f work seen
    else s.linksFrom part f
      ((BitVec.ofNat 64 (s.rcbWord part r 0x18), r) :: (BitVec.ofNat 64 (s.rcbWord part r 0x20), parent) :: work)
      ((r, parent) :: seen)
/-- The RCBs below one, each with the RCB that links it. -/
def State.links (s : State) (part : Nat) (r : Word) : List (Word × Word) :=
  s.linksFrom part (2 ^ 33) [(BitVec.ofNat 64 (s.rcbWord part r 0x18), r)] []

/-- The RCB is the partition's root, whose values the crown controller holds (R18). -/
def State.isRoot (s : State) (part : Nat) (rcb : Word) : Bool :=
  match (SMap.find? s.parts part).bind (·.root) with
  | none => false
  | some root => samePtr root rcb

/-- The first value along a chain that is not the inherit code (R20). -/
def State.effective (s : State) (part : Nat) (rcb : Word) (own : Word → Option Nat) (top : Part → Nat) : Nat :=
  match SMap.find? s.parts part with
  | none => 0
  | some p =>
    ((s.chain part rcb).findSome? (fun r => if s.isRoot part r then some (top p) else own r)).getD (top p)

/-- Effective PRIO (R17, R20). -/
def State.effPrio (s : State) (part : Nat) (rcb : Word) : Nat :=
  s.effective part rcb (fun r =>
    let v := bits (s.rcbWord part r 0x38) 8 5
    if v = 0x1F then none else some v) (·.prio)
/-- Effective LEASE (R17, R20). -/
def State.effLease (s : State) (part : Nat) (rcb : Word) : Nat :=
  s.effective part rcb (fun r =>
    let v := bits (s.rcbWord part r 0x38) 16 8
    if v = 0 then none else some v) (·.lease)
/-- Effective fault policy (R407). -/
def State.effPolicy (s : State) (part : Nat) (rcb : Word) : Nat :=
  s.effective part rcb (fun r =>
    let v := bits (s.rcbWord part r 0x38) 24 2
    if v = 3 then none else some v) (·.fpolicy)
/-- The domain root of a task (R407). -/
def State.domainRoot (s : State) (part : Nat) (rcb : Word) : Word :=
  ((s.chain part rcb).find? (fun r => s.isRoot part r || bits (s.rcbWord part r 0x38) 24 2 != 3)).getD rcb
/-- Effective pool: first identifier and count (R17, R20). -/
def State.effPool (s : State) (part : Nat) (rcb : Word) : Nat × Nat :=
  match SMap.find? s.parts part with
  | none => (0, 0)
  | some p =>
    ((s.chain part rcb).findSome? (fun r =>
      if s.isRoot part r then some (p.poolBase, p.poolCnt)
      else
        let w := s.rcbWord part r 0x50
        if bits w 36 12 = 0xFFF then none else some (bits w 48 16, bits w 36 12))).getD (p.poolBase, p.poolCnt)

/-- Units charged to an RCB (R13, R17). -/
structure Charge where
  lreg : Nat := 0
  sram : Nat := 0
  ob : Nat := 0
  grove : Nat := 0
  strm : Nat := 0
  bud : Nat := 0
  tag : Nat := 0
  deriving DecidableEq, Repr

/-- A budget's own value in an RCB, `none` for the inherit code (R17). -/
def State.ownLimits (s : State) (part : Nat) (r : Word) : List (Option Nat) :=
  match SMap.find? s.parts part with
  | none => []
  | some p =>
    if s.isRoot part r then
      [some p.bud.blreg, some p.bud.bsram, some p.bud.bob, some (Nat.min 96 p.bud.bgrove), some p.bud.bstrm,
        some p.bud.bbud, some (Nat.min 8 p.bud.btag)]
    else
      let a := s.rcbWord part r 0x40
      let b := s.rcbWord part r 0x48
      let inh (v code : Nat) : Option Nat := if v = code then none else some v
      [inh (bits a 44 20) 0xFFFFF, inh (bits a 24 20) 0xFFFFF, inh (bits a 4 20) 0xFFFFF,
        (inh (bits b 56 8) 0xFF).map (Nat.min 96), inh (bits b 44 12) 0xFFF, inh (bits b 28 16) 0xFFFF,
        (inh (bits a 0 4) 0xF).map (Nat.min 8)]

/-- The counters of an RCB, in the order of `ownLimits` (R17). -/
def State.counters (s : State) (part : Nat) (r : Word) : List Nat :=
  let a := s.rcbWord part r 0x68
  let b := s.rcbWord part r 0x70
  let c := s.rcbWord part r 0x78
  [bits a 32 32, bits a 0 32, bits b 32 32, bits b 0 32, bits c 32 32, bits c 16 16, bits c 0 16]

/-- A charge as a list in the order of `ownLimits`. -/
def Charge.toList (c : Charge) : List Nat := [c.lreg, c.sram, c.ob, c.grove, c.strm, c.bud, c.tag]

/-- Within a limit, where there is one. A unit that is not asked for is not checked. -/
def within : List (Option Nat) → List Nat → List Nat → Bool
  | some l :: ls, n :: ns, c :: cs => (c == 0 || decide (n + c ≤ l)) && within ls ns cs
  | none :: ls, _ :: ns, _ :: cs => within ls ns cs
  | _, _, _ => true

/-- The log RCB of a chain (R406), the nearest whose FLOG is nonzero, and its FLOG. -/
def State.logOf (s : State) (part : Nat) (path : List Word) : Option (Word × Word) :=
  path.findSome? (fun r =>
    let f := s.rcbWord part r 0x58
    if f = 0 then none else some (r, BitVec.ofNat 64 f))
/-- The RCBs of a chain are brought home before the device reads them (R316). -/
def State.touchChain (s : State) (part : Nat) (rcb : Word) : State :=
  (s.chain part rcb).foldl (fun s r => s.devTouchSpan part r 256) s
/-- What an RCB's chain resolves to now (R20). -/
def State.resolve (s : State) (part : Nat) (rcb : Word) : Eff :=
  let path := s.chain part rcb
  { prio := s.effPrio part rcb, lease := s.effLease part rcb, policy := s.effPolicy part rcb,
    root := s.domainRoot part rcb, pool := s.effPool part rcb,
    limits := path.map (fun r => (r, s.ownLimits part r)), log := s.logOf part path }
/-- A charge beside the units now charged stays within every level's budget (R13). -/
def State.fitsIn (s : State) (part : Nat) (lim : List (Word × List (Option Nat))) (c : Charge) : Bool :=
  lim.all (fun x => within x.2 (s.counters part x.1) c.toList)
/-- A charge alone stays within every level's budget (R30). -/
def fitsAloneIn (lim : List (Word × List (Option Nat))) (c : Charge) : Bool :=
  lim.all (fun x => within x.2 [0, 0, 0, 0, 0, 0, 0] c.toList)

/-- Counters raised or lowered at one level. DESIGN CHOICE (log entry 115): a counter that software has changed against
R17 or R22, so that a reclaim would lower it below 0, stops at 0. -/
def State.chargeLevel (s : State) (part : Nat) (c : Charge) (up : Bool) (r : Word) : State :=
  let f (n d : Nat) : Nat := if up then n + d else n - d
  let s := s.devMod part (r + 0x68) (fun w =>
    BitVec.ofNat 64 (f (bits w.toNat 32 32) c.lreg * 2 ^ 32 + f (bits w.toNat 0 32) c.sram))
  let s := s.devMod part (r + 0x70) (fun w =>
    BitVec.ofNat 64 (f (bits w.toNat 32 32) c.ob * 2 ^ 32 + f (bits w.toNat 0 32) c.grove))
  s.devMod part (r + 0x78) (fun w =>
    BitVec.ofNat 64 (f (bits w.toNat 32 32) c.strm * 2 ^ 32 + f (bits w.toNat 16 16) c.bud * 2 ^ 16
      + f (bits w.toNat 0 16) c.tag))

/-- An allotment charged at every level of a resolved chain (R13). -/
def State.chargeAt (s : State) (part : Nat) (path : List Word) (c : Charge) : State :=
  if c = {} then s else path.foldl (fun s r => s.chargeLevel part c true r) s
/-- Units reclaimed at the levels that were charged (R14). -/
def State.reclaimAt (s : State) (part : Nat) (path : List Word) (c : Charge) : State :=
  if c = {} then s else path.foldl (fun s r => s.chargeLevel part c false r) s

/-- A 32-bit half of a counter word raised by one at every level, wrapping (R17). -/
def State.countUp (s : State) (part : Nat) (path : List Word) (off : Nat) (high : Bool)
    (t : Option Time := none) : State :=
  path.foldl (fun s r => s.devMod part (r + BitVec.ofNat 64 off) (fun w =>
    if high then BitVec.ofNat 64 ((bits w.toNat 32 32 + 1) % 2 ^ 32 * 2 ^ 32 + bits w.toNat 0 32)
    else BitVec.ofNat 64 (bits w.toNat 32 32 * 2 ^ 32 + (bits w.toNat 0 32 + 1) % 2 ^ 32)) t) s

/-! ## Fault records -/

/-- The code of a fault (R403). -/
def Code.byte : Code → Nat
  | .illegal => 0x01 | .priv => 0x02 | .bounds => 0x03 | .rights => 0x04 | .objInvalid => 0x05 | .pageAbsent => 0x06
  | .pageFail => 0x07 | .uePoison => 0x08 | .misalign => 0x09 | .indexRange => 0x0A | .feEmpty => 0x0B
  | .nonuniform => 0x0C | .divergeOverflow => 0x0D | .growLimit => 0x0E | .obBusy => 0x0F | .obStale => 0x10
  | .obFormat => 0x11 | .sealDenied => 0x12 | .sealKey => 0x13 | .streamSeq => 0x14 | .streamCtxFull => 0x15
  | .moduleLost => 0x16 | .graftRefused => 0x17 | .graftHops => 0x18 | .rootFault => 0x19 | .bankBusy => 0x1A
  | .fifoState => 0x1B | .txbOverflow => 0x1C | .safepointOverrun => 0x1D | .budget => 0x1E | .barrierTag => 0x1F
  | .trap => 0x20 | .brk => 0x21 | .leafFetch => 0x22 | .chainBreak => 0x23 | .keyInvalid => 0x24
  | .migrateAbort => 0x25

/-- Every fault code, by number. -/
def Code.all : List Code :=
  [.illegal, .priv, .bounds, .rights, .objInvalid, .pageAbsent, .pageFail, .uePoison, .misalign, .indexRange,
   .feEmpty, .nonuniform, .divergeOverflow, .growLimit, .obBusy, .obStale, .obFormat, .sealDenied, .sealKey,
   .streamSeq, .streamCtxFull, .moduleLost, .graftRefused, .graftHops, .rootFault, .bankBusy, .fifoState,
   .txbOverflow, .safepointOverrun, .budget, .barrierTag, .trap, .brk, .leafFetch, .chainBreak, .keyInvalid,
   .migrateAbort]
/-- The fault of a code byte. -/
def Code.ofByte (b : Nat) : Option Code := Code.all.find? (fun c => Code.byte c == b)

/-- A fault as it is raised: code, software code, lowest thread (0xFF for a stem word), threads that faulted with it,
address and info (R404). -/
structure FaultInfo where
  code : Code
  sw : Nat := 0
  thread : Nat := 0xFF
  mask : Mask := 0
  addr : Word := 0
  info : Word := 0
  deriving DecidableEq, Repr

/-- A fault record before it is stored (R404). -/
structure FaultRecord where
  origin : Nat
  action : Nat
  f : FaultInfo
  restarts : Nat := 0
  node : Nat := 0xFFFF
  tdesc : Word := 0
  taskNo : Nat := 0
  cluster : Nat := 0
  die : Nat := 0
  grove : Nat := 0
  core : Nat := 0
  wg : Nat := 0
  group : Nat := 0
  deriving DecidableEq, Repr

/-- The eight words of a record (R404). -/
def FaultRecord.words (r : FaultRecord) (pkg cycle : Nat) : List Word :=
  [BitVec.ofNat 64 (2 ^ 63 + r.origin * 2 ^ 60 + r.action * 2 ^ 57 + r.f.code.byte * 2 ^ 48 + r.f.sw % 2 ^ 16 * 2 ^ 32
      + r.f.thread * 2 ^ 24 + r.restarts % 256 * 2 ^ 16 + r.node % 2 ^ 16),
   r.f.mask.setWidth 64,
   r.f.addr,
   r.f.info,
   r.tdesc,
   BitVec.ofNat 64 (r.taskNo % 2 ^ 32 * 2 ^ 32 + r.cluster % 2 ^ 32),
   BitVec.ofNat 64 (pkg * 2 ^ 59 + r.die * 2 ^ 57 + r.grove * 2 ^ 52 + r.core * 2 ^ 50 + r.wg * 2 ^ 46
      + r.group * 2 ^ 41),
   BitVec.ofNat 64 cycle]

/-- A log object that records can be written to: it has no layout key (R406); its TIER is that of the slot's page (R445). -/
def State.logOk (s : State) (part : Nat) (flog : Word) : Bool :=
  match SMap.find? s.parts part with
  | none => false
  | some p =>
    match s.walkDesc p (ptrObj flog) with
    | .ok d => !d.lkey
    | .error _ => false

/-- A record written to the log, or lost (R406); NFAULT and NFLOST rise at every level (R17). `path` is the chain and
`log` the log RCB with its FLOG; `t` is the logical time of the faulting party. -/
def State.writeRecord (s : State) (part : Nat) (path : List Word) (log : Option (Word × Word)) (r : FaultRecord) (t : Time) :
    State :=
  let lost (s : State) : State := s.countUp part path 0x88 false
  let s := s.countUp part path 0x88 true
  match log with
  | none => lost s
  | some (l, flog) =>
    let cap := bits (s.rcbWord part l 0x60) 16 16
    let idx := bits (s.rcbWord part l 0x60) 0 16
    let slot : Word := flog + BitVec.ofNat 64 (64 * idx)
    if cap = 0 || !s.logOk part flog then lost s
    else match s.devRead part slot with
      | none => lost s
      | some w =>
        if w.getLsbD 63 then lost s
        else
          let ws := r.words s.pkg s.cycle
          let s := (List.range 7).foldl (fun s i =>
            s.devWrite part (slot + BitVec.ofNat 64 (8 * (i + 1))) t (ws.getD (i + 1) 0)) s
          let s := s.devWrite part slot t (ws.getD 0 0)
          s.devMod part (l + 0x60) (fun v => BitVec.ofNat 64 (v.toNat / 2 ^ 16 * 2 ^ 16 + (idx + 1) % cap))

/-- A record to the fault domain of an RCB as its chain stands (R404, R406). -/
def State.rcbRecord (s : State) (part : Nat) (rcb : Word) (r : FaultRecord) (t : Time) : State :=
  let path := s.chain part rcb
  s.writeRecord part path (s.logOf part path) r t

/-- The chain that a task's RCB resolved to (R20); the chain as it stands before any resolution. -/
def State.taskPath (s : State) (t : Task) : List Word :=
  if t.eff.limits.isEmpty then s.chain t.part t.rcb else t.eff.limits.map (·.1)
/-- A record of a task to the fault domain that its RCB resolved to (R20, R406). -/
def State.taskRecord (s : State) (t : Task) (r : FaultRecord) (ts : Time) : State :=
  if t.eff.limits.isEmpty then s.rcbRecord t.part t.rcb r ts else s.writeRecord t.part (s.taskPath t) t.eff.log r ts

/-- A scheduler's record (origin 4) to an RCB's fault domain (R404). -/
def State.schedRecord (s : State) (part : Nat) (rcb : Word) (c : Code) (tdesc : Word) (no cl : Nat) (t : Time) : State :=
  s.rcbRecord part rcb { origin := 4, action := 4, f := { code := c }, tdesc, taskNo := no, cluster := cl } t

end Sys2Proof.Machine
end

