-- ==== Sys2Proof/Machine/Migrate.lean ====
section
/-! DEFINITION. Cached translations that go, and migrations that begin (R284, R299-R302, R384). -/
namespace Sys2Proof.Machine

/-- Offset in its object of unit u of row i (R379). -/
def RootNode.unitOff (r : RootNode) (i u : Nat) : Nat := ptrOff r.wptr + i * r.wpitch + 256 * u
/-- The pages of the weights, ascending. -/
def RootNode.pages (r : RootNode) : List Nat :=
  ((List.range r.nrows).flatMap (fun i =>
    span (r.unitOff i 0 / 65536) ((r.unitOff i 0 + 256 * r.kunits - 1) / 65536 + 1 - r.unitOff i 0 / 65536))).eraseDups

/-- A running root node reads the page, or writes it under y (R384). -/
def RootNode.uses (r : RootNode) (obj page : Nat) : Bool :=
  let within (p : Word) (n : Nat) : Bool := ptrObj p == obj && decide (ptrOff p / 65536 ≤ page)
    && decide (page ≤ (ptrOff p + n - 1) / 65536)
  r.stack.isSome && ((ptrObj r.wptr == obj && r.pages.contains page) || within r.xptr (256 * r.kunits)
    || within r.yptr (4 * r.nrows))

/-! ## Invalidation (R284) -/

/-- The descriptors and entries of an object, or of one page, or of all, leave every OTLB and every port cache (R284). -/
def State.invalidate (s : State) (part : Nat) (obj page : Option Nat) : State :=
  let objOf (k : Nat) : Bool := k / 2 ^ 21 == part && (match obj with
    | some o => k % 2 ^ 21 == o
    | none => true)
  { s with
    cores := if page.isSome then s.cores else s.cores.map (fun e => (e.1, { e.2 with
      otlb := e.2.otlb.filter (fun x => !objOf x.1) }))
    dies := s.dies.map (fun e => (e.1, { e.2 with
      port := e.2.port.filter (fun x => !(objOf (x.1 / 2 ^ 24) && (match page with
        | some q => x.1 % 2 ^ 24 == q
        | none => true))) })) }

/-! ## Migrations (R299, R300) -/

/-- A page as the crown controller finds it: its descriptor and its entry, or the fault (R283, R299). -/
def State.pageOf (s : State) (p : Part) (obj page : Nat) : Except Code (Desc × Page) :=
  if (frameOf p obj).isSome then .error .objInvalid
  else match s.walkDesc p obj with
    | .error c => .error c
    | .ok d =>
      if d.size ≤ 65536 * page then .error .objInvalid
      else match s.walkPage p d page with
        | .here q => .ok (d, q)
        | .bad => .error .uePoison
        | _ => .error .objInvalid

/-- An entry of a page list stored by the device. -/
def State.putEntry (s : State) (p : Part) (d : Desc) (page w : Nat) : State :=
  s.homeStore p.keyId (addrBytes (d.plist + 8 * page) (bytesOf 8 w))
/-- The word of an entry (R281). -/
def entryWord (q : Page) (mig : Bool) : Nat :=
  2 ^ 63 + (if q.alt then 2 ^ 62 else 0) + (if mig then 2 ^ 61 else 0) + q.frame * 65536

/-- MCAUSE of an object's descriptor written (R302). -/
def State.setMcause (s : State) (p : Part) (obj : Nat) (c : Code) : State :=
  match p.dir with
  | none => s
  | some (base, _) =>
    let a := base + 64 * obj + 0x28
    let w := s.hbmWord p.keyId a
    s.homeStore p.keyId (addrBytes a (bytesOf 8 (w / 2 ^ 8 * 2 ^ 8 + c.byte)))

/-- A migration leaves the crown controller. -/
def State.dropMig (s : State) (m : Migration) : State := { s with migrations := s.migrations.erase m }

/-- A migration that waits begins: MIG is set in the entry (R299); one that is refused by now is answered. -/
def State.beginMig (s : State) (m : Migration) : State :=
  match SMap.find? s.parts m.part with
  | none => s.dropMig m
  | some p => match s.pageOf p m.obj m.page with
    | .error .uePoison => ((s.dropMig m).setMcause p m.obj .uePoison).refuse .migrateAbort
    | .error c => (s.dropMig m).refuse c
    | .ok (d, q) =>
      if q.alt = m.alt then (s.dropMig m).refuse
      else
        let s := { s with migrations := s.migrations.map (fun x => if x = m then { m with started := true, entry := d.plist + 8 * m.page } else x) }
        s.putEntry p d m.page (entryWord q true)

/-- Migrations that may begin do: at most 16 at a time, and none of a page that a running root node uses (R299, R384). -/
def State.startMigs (s : State) : State :=
  s.migrations.foldl (fun s m =>
    if m.started || decide (16 ≤ (s.migrations.filter (·.started)).length)
        || s.roots.any (fun r => r.part == m.part && r.uses m.obj m.page) then s
    else s.beginMig m) s

end Sys2Proof.Machine
end

