-- ==== Sys2Proof/Machine/Paths.lean ====
section
/-! DEFINITION. Registers of a group and its leaf paths: stem registers, lane registers of a thread, predicates, index
registers, thread masks; leaf slots, join records, arrival and the end of threads and runs (R75, R101, R107, R111,
R136-R142). -/
namespace Sys2Proof.Machine

/-! ## Registers -/

/-- The 32 threads of a group, ascending. -/
def allThreads : List Nat := List.range 32
/-- The threads of a mask, ascending. -/
def threadsOf (m : Mask) : List Nat := allThreads.filter (fun t => m.getLsbD t)
/-- The mask of some threads. -/
def maskOf (ts : List Nat) : Mask := ts.foldl (fun m t => m ||| (1#32 <<< t)) 0
/-- The lowest thread of a mask. -/
def firstThread (m : Mask) : Option Nat := allThreads.find? (fun t => m.getLsbD t)

/-- Stem register a[n] (R75). -/
def Group.areg (g : Group) (n : Nat) : Word := SMap.get 0 g.a n
/-- Stem register a[n] written (R75). -/
def Group.setA (g : Group) (n : Nat) (w : Word) : Group := { g with a := SMap.set 0 g.a n w }
/-- Stem predicate q[n] (R75). -/
def Group.qreg (g : Group) (n : Nat) : Bool := g.q.getLsbD n
/-- Stem predicate q[n] written (R75). -/
def Group.setQ (g : Group) (n : Nat) (b : Bool) : Group :=
  { g with q := if b then g.q ||| (1#8 <<< n) else g.q &&& ~~~(1#8 <<< n) }

/-- Key of lane register n of thread t. -/
def laneKey (n t : Nat) : Nat := 32 * n + t
/-- Lane register n of thread t (R101). -/
def Group.lreg (g : Group) (n t : Nat) : LReg := SMap.get {} g.v (laneKey n t)
/-- Lane register n of thread t replaced. -/
def Group.setLreg (g : Group) (n t : Nat) (r : LReg) : Group := { g with v := SMap.set {} g.v (laneKey n t) r }
/-- A value written to lane register n of thread t: full, no mark (R112, R166, R365). -/
def Group.writeLane (g : Group) (n t : Nat) (w : Word) : Group := g.setLreg n t { val := w }
/-- Lane register n of thread t marked empty with a fill pending; the value stays (R111). -/
def Group.pendLane (g : Group) (n t : Nat) (src : FillSrc) : Group :=
  { g.setLreg n t { (g.lreg n t) with fe := .pending, mark := none } with
    fills := g.fills.filter (fun f => !(f.reg == n && f.thread == t)) ++ [{ reg := n, thread := t, src, old := g.lreg n t }] }
/-- A pending fill that fails: the register is as it was before (R210). -/
def Group.failLane (g : Group) (n t : Nat) : Group :=
  match g.fills.find? (fun f => f.reg == n && f.thread == t) with
  | none => g
  | some f => { g.setLreg n t f.old with fills := g.fills.filter (fun f => !(f.reg == n && f.thread == t)), stuck := [] }
/-- A pending fill of register n of thread t arrives: a value, or a mark with which the register keeps its value (R111,
R166, R181). What waited for it is tried again. -/
def Group.fillLane (g : Group) (n t : Nat) (x : Except Mark Word) : Group :=
  { g.setLreg n t (match x with
      | .ok w => { val := w }
      | .error m => { (g.lreg n t) with fe := .full, mark := some m }) with
    fills := g.fills.filter (fun f => !(f.reg == n && f.thread == t))
    stuck := [] }
/-- Lane registers from n on read zero and full (R103, R116). -/
def Group.clearFrom (g : Group) (n : Nat) : Group := { g with v := g.v.filter (fun e => decide (e.1 < 32 * n)) }

/-- Lane predicate p of every thread; p7 is all true (R44). -/
def Group.preg (g : Group) (p : Nat) : Mask := if p = 7 then 0xFFFFFFFF else SMap.get 0 g.p p
/-- Lane predicate p of one thread written (R119). -/
def Group.setP (g : Group) (p t : Nat) (b : Bool) : Group :=
  { g with p := SMap.set 0 g.p p (if b then g.preg p ||| (1#32 <<< t) else g.preg p &&& ~~~(1#32 <<< t)) }

/-- Value of index register x of thread t (R107). -/
def Group.xv (g : Group) (x t : Nat) : BitVec 16 := SMap.get 0 g.xval (32 * x + t)
/-- Value of index register x of thread t written. -/
def Group.setXv (g : Group) (x t : Nat) (w : BitVec 16) : Group := { g with xval := SMap.set 0 g.xval (32 * x + t) w }
/-- Base and limit of index register x of a run (R107). -/
def Run.xreg (r : Run) (x : Nat) : XReg := SMap.get {} r.x x

/-- No register of the group has a fill pending. -/
def Group.noFills (g : Group) : Bool := g.fills.isEmpty
/-- The group holds no leaf run, begun or pending (R93). -/
def Group.noRuns (g : Group) : Bool := g.run.isNone && g.pend.isNone

/-! ## Leaf slots and the divergence stack -/

/-- A leaf slot (R136). -/
def Group.slot (g : Group) (k : Nat) : Option Path := if k = 0 then g.slot0 else g.slot1
/-- A leaf slot set. -/
def Group.setSlot (g : Group) (k : Nat) (p : Option Path) : Group :=
  if k = 0 then { g with slot0 := p } else { g with slot1 := p }
/-- A join record by number. -/
def Group.findRec (g : Group) (id : Nat) : Option JoinRec :=
  g.stack.findSome? (fun e => match e with
    | .join r => if r.id = id then some r else none
    | .spill _ => none)
/-- A join record or one that it lies in is a graft record: a thread under it runs a region inline (R359). -/
def Group.underGraft (g : Group) : (fuel : Nat) → Option Nat → Bool
  | 0, _ => false
  | f + 1, k => match k.bind g.findRec with
    | some r => r.graft || g.underGraft f r.parent
    | none => false
/-- A join record changed. -/
def Group.mapRec (g : Group) (id : Nat) (f : JoinRec → JoinRec) : Group :=
  { g with stack := g.stack.map (fun e => match e with
    | .join r => if r.id = id then .join (f r) else e
    | .spill _ => e) }
/-- A join record taken off the stack; entries leave in any order (R136). -/
def Group.dropRec (g : Group) (id : Nat) : Group :=
  { g with stack := g.stack.filter (fun e => match e with
    | .join r => r.id != id
    | .spill _ => true) }

/-- The most recently pushed spilled path, and the stack without it. -/
def popSpill : List StackEntry → Option (Path × List StackEntry)
  | [] => none
  | .spill p :: r => some (p, r)
  | .join j :: r => (popSpill r).map (fun x => (x.1, .join j :: x.2))

/-- A free slot takes the most recently pushed spilled path, if there is one (R140 step 3). -/
def Group.refillSlot (g : Group) (k : Nat) : Group :=
  match g.slot k with
  | some _ => g
  | none =>
    match popSpill g.stack with
    | some (p, r) => { g with stack := r }.setSlot k (some p)
    | none => g

/-- A merged path placed in the slot if that is free, else on top of the stack (R140, R141). -/
def Group.placePath (g : Group) (k : Nat) (p : Path) : Group :=
  match g.slot k with
  | none => g.setSlot k (some p)
  | some _ => { g with stack := .spill p :: g.stack }

/-- Completes the record and then its ancestors, innermost first, while each has all its threads (R140 step 2,
R142). -/
def Group.complete (k : Nat) : Nat → Group → Option Nat → Group
  | 0, g, _ => g
  | _, g, none => g
  | f + 1, g, some id =>
    match g.findRec id with
    | none => g
    | some r =>
      if r.arrived = r.expected then
        let g := g.dropRec id
        if r.expected = 0 then Group.complete k f g r.parent
        else g.placePath k { off := r.reconv, mask := r.expected, jrec := r.parent }
      else g

/-- Threads of the path in slot `k` arrive at the path's innermost record (R140, R141 `JOIN`). -/
def Group.arriveMask (g : Group) (k : Nat) (m : Mask) : Group :=
  match g.slot k with
  | none => g
  | some p =>
    match p.jrec with
    | none => g
    | some id =>
      let left := p.mask &&& ~~~m
      let g := g.mapRec id (fun r => { r with arrived := r.arrived ||| m })
      let g := g.setSlot k (if left = 0 then none else some { p with mask := left })
      (Group.complete k 65 g (some id)).refillSlot k

/-- The path in slot `k` stands at its innermost record's reconvergence offset. -/
def Group.atReconv (g : Group) (k : Nat) : Bool :=
  match g.slot k with
  | none => false
  | some p =>
    match p.jrec.bind g.findRec with
    | some r => r.reconv == p.off
    | none => false

/-- Arrivals of the path in a slot, cascading (R140). -/
def Group.settleSlot (k : Nat) : Nat → Group → Group
  | 0, g => g
  | f + 1, g =>
    if g.atReconv k then
      match g.slot k with
      | some p => Group.settleSlot k f (g.arriveMask k p.mask)
      | none => g
    else g

/-- Every arrival that is due (R140). -/
def Group.settle (g : Group) : Group := Group.settleSlot 1 130 (Group.settleSlot 0 130 g)

/-- Threads removed from the expected masks of a record and of its ancestors (R142). -/
def Group.unexpect (m : Mask) : Nat → Group → Option Nat → Group
  | 0, g, _ => g
  | _, g, none => g
  | f + 1, g, some id =>
    match g.findRec id with
    | none => g
    | some r => Group.unexpect m f (g.mapRec id (fun r => { r with expected := r.expected &&& ~~~m })) r.parent

/-- Threads of the path in slot `k` end: by `LEND` (`lend`), by `LEXIT` or a fault (R141, R142). -/
def Group.endThreads (g : Group) (k : Nat) (m : Mask) (lend : Bool) : Group :=
  match g.slot k with
  | none => g
  | some p =>
    let m := m &&& p.mask
    if m = 0 then g
    else
      let left := p.mask &&& ~~~m
      let g := if lend then { g with lended := g.lended ||| m } else g
      let g := Group.unexpect m 65 g p.jrec
      let g := g.setSlot k (if left = 0 then none else some { p with mask := left })
      if left = 0 then (Group.complete k 65 g p.jrec).refillSlot k else g

/-- Join records on a stack, innermost first. -/
def recIds : List StackEntry → List Nat
  | [] => []
  | .join r :: l => r.id :: recIds l
  | .spill _ :: l => recIds l
/-- Every thread of the path in a slot is among some threads. -/
def Group.pathEnds (g : Group) (m : Mask) (k : Nat) : Bool := (g.slot k).any (fun p => p.mask &&& ~~~m == 0)
/-- Threads end wherever they are: in a slot, spilled, or arrived at a record (R142); a replay that is due is due for the
others alone, and for nobody once its path has ended. Records that then have all their threads complete, innermost first.
DESIGN CHOICE (log entry 111): a merged path takes a slot that the ending has freed, else an empty slot, else the top of the
stack. -/
def Group.endAnywhere (g : Group) (m : Mask) : Group :=
  let cut (p : Path) : Option Path := if p.mask &&& ~~~m = 0 then none else some { p with mask := p.mask &&& ~~~m }
  let ends := g.pathEnds m
  let g := { g with
    redo := match g.redo with
      | some (k, x) => if ends k then none else some (k, x &&& ~~~m)
      | none => none
    park := g.park.map (fun p => match p.slot with
      | some k => { p with mask := p.mask &&& ~~~m, gone := p.gone || ends k }
      | none => p)
    slot0 := g.slot0.bind cut
    slot1 := g.slot1.bind cut
    stack := g.stack.filterMap (fun e => match e with
      | .spill p => (cut p).map .spill
      | .join r => some (.join { r with expected := r.expected &&& ~~~m, arrived := r.arrived &&& ~~~m })) }
  let k := if ends 0 then 0 else if ends 1 then 1 else if g.slot0.isNone then 0 else 1
  (((recIds g.stack).foldl (fun g id => Group.complete k 65 g (some id)) g).refillSlot 0).refillSlot 1

/-- Every thread of the run has ended (R94). -/
def Group.runOver (g : Group) : Bool := g.slot0.isNone && g.slot1.isNone && g.stack.isEmpty

/-- A run that is over ends: `ACTIVE` takes the threads that ended by `LEND` (R80, R94). -/
def Group.finishRun (g : Group) : Group :=
  if g.run.isSome && g.runOver then { g with run := none, active := g.lended, lended := 0 } else g

/-- A run begins: all 32 threads in slot 0, slot 1 and the stack empty; an index register set by `XSET` since the run
before starts at 0 (R94, R108). -/
def Group.startRun (g : Group) (r : Run) : Group :=
  { g with
    run := some r
    slot0 := some { off := r.off, mask := 0xFFFFFFFF, jrec := none }
    slot1 := none
    lastSlot := 1
    stack := []
    lended := 0
    xval := g.xval.filter (fun e => !(r.xreg (e.1 / 32)).fresh) }

end Sys2Proof.Machine
end

