-- ==== Sys2Proof/Machine/Ops.lean ====
section
/-! DEFINITION. The shared operations on work: groups, workgroups and clusters that end, kills and restarts (R83, R409,
R410), barriers (R223-R227), page requests and parking (R290-R298), and TAKING A FAULT: the one operation that records
a fault and acts by the policy of its domain (R403-R410). -/
namespace Sys2Proof.Machine

/-! ## Lookups -/

/-- Groups that satisfy a test. -/
def State.groupsOf (s : State) (p : Group → Bool) : List (Nat × Group) := s.groups.filter (fun e => p e.2)
/-- Groups of a cluster; host groups belong to none (R363). -/
def State.groupsIn (s : State) (cid : Nat) : List (Nat × Group) :=
  s.groupsOf (fun g => g.cid == cid && g.host.isNone)
/-- The task of a group. -/
def State.taskOf (s : State) (g : Group) : Option Task := SMap.find? s.tasks g.tid
/-- The region control block a group's task was taken from. -/
def State.rcbOf (s : State) (g : Group) : Word := ((s.taskOf g).map (·.rcb)).getD 0
/-- The core of a group. -/
def Group.coreN (g : Group) : Nat := g.core.getD 0
/-- What a group's task resolved to (R20). -/
def State.effOf (s : State) (g : Group) : Eff :=
  match s.taskOf g with
  | some t => t.eff
  | none => s.resolve g.part (s.rcbOf g)
/-- The levels and budgets of a group's cluster, as its admission resolved them (R20). -/
def State.limitsOf (s : State) (g : Group) : List (Word × List (Option Nat)) :=
  ((SMap.find? s.clusters g.cid).bind (·.limits)).getD (s.effOf g).limits
/-- A charge by a group stays within every level's budget (R13). -/
def State.groupFits (s : State) (g : Group) (c : Charge) : Bool := s.fitsIn g.part (s.limitsOf g) c
/-- A charge by a group alone stays within every level's budget (R103). -/
def State.groupFitsAlone (s : State) (g : Group) (c : Charge) : Bool := fitsAloneIn (s.limitsOf g) c
/-- The levels at which a group's cluster is charged (R13, R14). -/
def State.pathOf (s : State) (g : Group) : List Word :=
  match (SMap.find? s.clusters g.cid).bind (·.limits) with
  | some l => l.map (·.1)
  | none => s.chain g.part (s.rcbOf g)
/-- A charge by a group (R13). -/
def State.chargeBy (s : State) (g : Group) (c : Charge) : State := s.chargeAt g.part (s.pathOf g) c
/-- Units of a group reclaimed (R14). -/
def State.reclaimBy (s : State) (g : Group) (c : Charge) : State := s.reclaimAt g.part (s.pathOf g) c
/-- Clusters of a task. -/
def State.clustersOf (s : State) (tid : Nat) : List (Nat × Cluster) := s.clusters.filter (fun e => e.2.tid == tid)
/-- A cluster that has been admitted and has not ended; a saved one counts (R226). -/
def Cluster.admitted (c : Cluster) : Bool :=
  match c.st with
  | .resident | .stopping | .saved => true
  | _ => false

/-- Workgroups and cores of a shape (R27). -/
def shapeWgs : Nat → Nat
  | 0 => 1 | 1 => 2 | 2 => 4 | 3 => 8 | _ => 16
/-- Groves charged for a shape (R29). -/
def shapeGroves : Nat → Nat
  | 2 => 1 | 3 => 2 | 4 => 4 | _ => 0
/-- Chunks of a group that are charged: v0 to v15 only while it is evicted (R105). -/
def Group.charged (g : Group) : Nat := if g.evicted then Nat.min g.chunks 2 else g.chunks
/-- Charges of a cluster beside lane registers and streams (R29). -/
def Task.share (t : Task) : Charge :=
  { sram := t.scr * shapeWgs t.shape, ob := t.obu * shapeWgs t.shape, grove := shapeGroves t.shape }

/-! ## Descriptor and graph records -/

/-- STATE of a task descriptor (R23). -/
def State.setTaskState (s : State) (part : Nat) (desc : Word) (v : Nat)
    (t : Option Time := none) : State :=
  s.devMod part (desc + 0x30) (fun w => BitVec.ofNat 64 (w.toNat / 2 ^ 32 * 2 ^ 32 + v * 2 ^ 24)) t
/-- CLDONE of a task descriptor raised by one (R23). -/
def State.raiseClDone (s : State) (part : Nat) (desc : Word) : State :=
  s.devMod part (desc + 0x30) (fun w => BitVec.ofNat 64 ((w.toNat / 2 ^ 32 + 1) % 2 ^ 32 * 2 ^ 32 + w.toNat % 2 ^ 32))

/-- A word of a graph object (R196). -/
def State.graphWord (s : State) (g : Graph) (off : Nat) : Nat :=
  ((s.devRead g.part (g.ptr + BitVec.ofNat 64 off)).map (·.toNat)).getD 0
/-- A word of a graph object changed. -/
def State.graphMod (s : State) (g : Graph) (off : Nat) (f : Nat → Nat) : State :=
  s.devMod g.part (g.ptr + BitVec.ofNat 64 off) (fun w => BitVec.ofNat 64 (f w.toNat))
/-- Byte offset of node i (R196). -/
def nodeOff (i : Nat) : Nat := 64 + 64 * i
/-- KIND of a node. -/
def State.nodeKind (s : State) (g : Graph) (i : Nat) : Nat := bits (s.graphWord g (nodeOff i + 8)) 0 8
/-- NSTATE of a node. -/
def State.nodeState (s : State) (g : Graph) (i : Nat) : Nat := bits (s.graphWord g (nodeOff i + 0x10)) 0 8
/-- PLEFT of a node. -/
def State.nodeLeft (s : State) (g : Graph) (i : Nat) : Nat := bits (s.graphWord g (nodeOff i + 0x10)) 16 16
/-- NSTATE of a node set. -/
def State.setNodeState (s : State) (g : Graph) (i v : Nat) : State :=
  s.graphMod g (nodeOff i + 0x10) (fun w => w / 2 ^ 8 * 2 ^ 8 + v)
/-- Successors of a node (R196). -/
def State.nodeSucc (s : State) (g : Graph) (i : Nat) : List Nat :=
  let w := s.graphWord g (nodeOff i + 8)
  (List.range (bits w 48 16)).map (fun j =>
    let off := nodeOff g.nodes + 2 * (bits w 32 16 + j)
    bits (s.graphWord g (off / 8 * 8)) (off % 8 * 8) 16)
/-- Nodes reachable from some nodes, these included. -/
def State.reachable (s : State) (g : Graph) : Nat → List Nat → List Nat
  | 0, l => l
  | f + 1, l =>
    let n := (l ++ l.flatMap (s.nodeSucc g)).eraseDups
    if n.length = l.length then l else s.reachable g f n

/-- A graph that can run no further ends faulted (R198): no node running or launchable, some node faulted. -/
def State.graphStuck (s : State) (gn : Nat) : State :=
  match SMap.find? s.graphs gn with
  | none => s
  | some g =>
    let ns := List.range g.nodes
    let busy := ns.any (fun i => let v := s.nodeState g i
      v == 1 || v == 2 || (v == 0 && s.nodeLeft g i == 0))
    if !busy && ns.any (fun i => s.nodeState g i == 4) then
      let s := s.graphMod g 0x18 (fun _ => 3)
      { s with graphs := SMap.erase s.graphs gn }
    else s

/-- A node faults: NSTATE 4, every node reachable from it blocked (R198). -/
def State.nodeFault (s : State) (gn i : Nat) : State :=
  match SMap.find? s.graphs gn with
  | none => s
  | some g =>
    let s := s.setNodeState g i 4
    let bl := ((s.reachable g g.nodes [i]).filter (· != i))
    (bl.foldl (fun s j => s.setNodeState g j 5) s).graphStuck gn

/-- The work of a node is over at a logical time; its completion is due (R198). -/
def State.nodeDone (s : State) (gn i : Nat) (t : Time) : State :=
  s.modGraph gn (fun g => { g with finished := g.finished ++ [i], ts := tmax g.ts t })

/-- A node faults with a code: the record of its graph, and the node's state (R198, R404). -/
def State.nodeFail (s : State) (gn i : Nat) (c : Code) : State :=
  match SMap.find? s.graphs gn with
  | none => s
  | some g =>
    (s.rcbRecord g.part g.rcb { origin := 3, action := 4, f := { code := c }, node := i, tdesc := g.ptr } g.ts).nodeFault
      gn i

/-! ## Streams whose binding ends -/

/-- A stream that is closing and has nothing unacknowledged is gone: its close is sent, its identifier reclaimed
(R337, R338, R353). -/
def State.reapStream (s : State) (sid : Nat) : State :=
  match SMap.find? s.streams sid with
  | none => s
  | some x =>
    if x.closing && x.ops.isEmpty then
      let s := { s with streams := SMap.erase s.streams sid }
      let s := match x.sent with
        | some (.modul m) => { s with closes := s.closes ++ [(m, sid)] }
        | _ => s
      s.reclaimAt x.part x.path { strm := 1 }
    else s

/-- The operations of a stream without some that go before they are sent, and whether a gap is left at the end: the
operation after a gap becomes a resync, since no operation will carry the numbers between (R337, R339; DEDUCED, log entry
110). -/
def dropOps (d : SOp → Bool) : Bool → List SOp → List SOp × Bool
  | gap, [] => ([], gap)
  | gap, o :: r =>
    if d o then dropOps d true r
    else
      let (l, e) := dropOps d false r
      ({ o with resync := o.resync || gap } :: l, e)
/-- Operations of a stream go before they are sent. -/
def Stream.drop (x : Stream) (d : SOp → Bool) : Stream :=
  let (l, e) := dropOps d false x.ops
  { x with ops := l, fresh := x.fresh || e }

/-- A stream belongs to a receiver of this package (R369): no group binds it, and it does not close. -/
def State.ofReceiver (s : State) (sid : Nat) : Bool := decide (2048 * s.pkg + 2032 ≤ sid ∧ sid < 2048 * s.pkg + 2048)

/-- Every binding of a group ends; operations not yet sent go when `drop` (R353): in its receiver's stream its own
(R369). -/
def State.unbindAll (s : State) (gid : Nat) (drop : Bool) : State :=
  let s : State := { s with streams := s.streams.map (fun e =>
    (e.1, if drop && s.ofReceiver e.1 then e.2.drop (fun o => o.gid == gid && o.state == 0) else e.2)) }
  (s.streams.filter (fun e => e.2.gid == gid && !e.2.closing && !s.ofReceiver e.1)).foldl (fun s e =>
    (s.modStream e.1 (fun x => { x with
      closing := true, ops := if drop then x.ops.filter (fun o => o.state != 0) else x.ops })).reapStream e.1) s

/-! ## Barriers (R223-R227) -/

/-- The workgroup barrier's episode completes when every group of the workgroup waits at it (R225). -/
def State.wgbarCheck (s : State) (cid wg : Nat) : State :=
  let gs := (s.groupsIn cid).filter (fun e => e.2.wg == wg)
  if !gs.isEmpty && gs.all (fun e => e.2.wait == .wgbar) then
    gs.foldl (fun s e => s.modGroup e.1 (fun g => { g with wait := .wgbarDone, nextAt := s.cycle + 1 })) s
  else s

/-- A group that waits at a route tag: its core's pts at its arrival (R227, R424). -/
def Group.atBar (g : Group) (t : Nat) : Option Time :=
  match g.wait with
  | .bar n p => if n = t then some p else none
  | _ => none
/-- The latest of the arrivals' times (R424, R306). -/
def latestArrival : List Time → Time
  | [] => 0
  | p :: ps => ps.foldl tmax p
/-- A route tag's episode completes when every group of the task's admitted clusters waits at it; they are released 96
cycles later (R227), with the latest of their cores' times at their arrivals (R424). -/
def State.barCheck (s : State) (tid t : Nat) : State :=
  let gs := s.groupsOf (fun g => g.tid == tid && g.host.isNone)
  if !gs.isEmpty && gs.all (fun e => (e.2.atBar t).isSome) then
    let p := latestArrival (gs.filterMap (fun e => e.2.atBar t))
    gs.foldl (fun s e => s.modGroup e.1 (fun g => { g with
      wait := .barDone t (s.cycle + 96) p, nextAt := s.cycle + 96 })) s
  else s
/-- Every route tag of a task checked. -/
def State.barCheckAll (s : State) (tid : Nat) : State := (List.range 8).foldl (fun s t => s.barCheck tid t) s

/-- Physical tags pass to a reservation of the task that holds and has none: they are bound afresh for it (R226). -/
def State.passTags (s : State) (tid : Nat) (tags : List Nat) : State :=
  match (s.clustersOf tid).find? (fun e => (e.2.hold.map (fun h => h.lead == e.1)).getD false) with
  | none => s
  | some (i, _) => s.modCluster i (fun c => { c with hold := c.hold.map (fun h => { h with tags }) })
/-- The binding of a task's route tags ends when no cluster of it is admitted (R226). -/
def State.unbindTags (s : State) (tid : Nat) : State :=
  match SMap.find? s.tasks tid with
  | none => s
  | some t =>
    if t.bound.isEmpty || (s.clustersOf tid).any (fun e => e.2.admitted) then s
    else
      let s := (if t.tagsCharged then s.reclaimAt t.part t.tagPath { tag := t.tags } else s).modTask tid (fun t =>
        { t with bound := [], tagsCharged := false, tagPath := [] })
      s.passTags tid t.bound

/-! ## Page requests and parking -/

/-- A page request, or a waiter that joins one for the same page (R295). -/
def State.request (s : State) (part obj page : Nat) (kind : MissKind) (first : Nat) (mal : Bool) (w : Nat) : State :=
  s.modPart part (fun p =>
    if p.reqs.any (fun r => r.obj == obj && r.page == page) then
      { p with reqs := p.reqs.map (fun r =>
          if r.obj == obj && r.page == page && !r.waiters.contains w then { r with waiters := r.waiters ++ [w] } else r) }
    else { p with reqs := p.reqs ++ [{ obj, page, kind, first, mal, tag := none, seq := none, waiters := [w] }] })

/-- A request whose every waiter is gone is cancelled and its tag is free (R298). -/
def State.cancelWaiter (s : State) (part w : Nat) : State :=
  s.modPart part (fun p => { p with reqs := (p.reqs.map (fun r =>
    { r with waiters := r.waiters.filter (· != w) })).filter (fun r => !r.waiters.isEmpty) })

/-- One waiter of a page's request leaves it (R298). -/
def State.leaveRequest (s : State) (part w obj page : Nat) : State :=
  s.modPart part (fun p =>
    let rs := p.reqs.map (fun r =>
      if r.obj == obj && r.page == page then { r with waiters := r.waiters.filter (· != w) } else r)
    { p with reqs := rs.filter (fun r => !r.waiters.isEmpty) })

/-- Since when every group of a cluster that has not ended is parked (R292). -/
def State.noteParked (s : State) (cid : Nat) : State :=
  let gs := s.groupsIn cid
  let all := !gs.isEmpty && gs.all (fun e => e.2.park.isSome)
  s.modCluster cid (fun c => { c with
    parkedSince := if all then some (c.parkedSince.getD s.cycle) else none })

/-- A page that an access did not find: the page request it needs (none for a migrating page) and the kind and offset
of the access. `down` says that the page is there and its route carries no traffic (R328): the access waits, without a
request. -/
structure MissInfo where
  miss : Miss
  mal : Bool
  kind : MissKind
  first : Nat
  down : Bool := false
  deriving DecidableEq, Repr

/-- The group parks at its replayable instruction (R290): the stem word (`slot` none) or a leaf slot's instruction with
the unfinished threads. -/
def State.parkGroup (s : State) (gid : Nat) (slot : Option Nat) (mask : Mask) (ms : List MissInfo) : State :=
  match SMap.find? s.groups gid with
  | none => s
  | some g =>
    let s := ms.foldl (fun s m =>
      if m.miss.mig then s else s.request g.part m.miss.obj m.miss.page m.kind m.first m.mal (2 * gid)) s
    let s := s.modGroup gid (fun g => { g with
      park := some { slot, mask, misses := (ms.map (·.miss)).eraseDups, failed := g.retry }, retry := [], redo := none })
    s.noteParked g.cid

/-- One answer lowers a parked group's count; at zero the group may issue again and replays (R290, R291). -/
def State.unparkMiss (s : State) (gid : Nat) (m : Miss) (fail : Bool) : State :=
  match SMap.find? s.groups gid with
  | none => s
  | some g =>
    match g.park with
    | none => s
    | some p =>
      if !p.misses.contains m then s
      else
        let left := p.misses.filter (· != m)
        let failed := if fail then p.failed ++ [(m.obj, m.page)] else p.failed
        if left.isEmpty then
          (s.modGroup gid (fun g => { g with
            park := none, retry := failed, redo := if p.gone then none else some (p.slot.getD 2, p.mask) })).noteParked g.cid
        else s.modGroup gid (fun g => { g with park := some { p with misses := left, failed } })

/-! ## The end of groups, clusters and tasks -/

/-- A FIFO bank's owner is gone: entries discarded, cache mode, the charge reclaimed (R207). -/
def State.dropFifos (s : State) (cid part : Nat) (path : List Word) : State :=
  let owned := s.groves.flatMap (fun e => (e.2.banks.filter (fun b => b.2.mode == .fifo && b.2.owner == cid)).map
    (fun b => (e.1, b.1)))
  let saved := ((SMap.find? s.clusters cid).map (fun c => c.fifos.length)).getD 0
  let s := owned.foldl (fun s gb => s.modBank gb.1 gb.2 (fun b => { mode := .cache, bts := b.bts })) s
  s.reclaimAt part path { sram := 64 * (owned.length + saved) }

/-- Two ranges conflict (R195): one object, bytes in common, at least one of them written. -/
def TRange.conflicts (x y : TRange) : Bool :=
  x.len != 0 && y.len != 0 && (x.wr || y.wr) && ptrObj x.base == ptrObj y.base
    && decide (ptrOff x.base < ptrOff y.base + y.len) && decide (ptrOff y.base < ptrOff x.base + x.len)
/-- An earlier task of the same RCB in flight holds a conflicting range; a graph node's ranges are ignored (R195,
R198). -/
def State.rangeWaits (s : State) (t : Task) : Bool :=
  t.node.isNone && s.tasks.any (fun e => e.2.part == t.part && samePtr e.2.rcb t.rcb && decide (e.2.order < t.order)
    && e.2.node.isNone && e.2.ranges.any (fun x => t.ranges.any (fun y => x.conflicts y)))
/-- Tasks that waited on ranges and no longer do: STATE is 0 again (R23, R195). -/
def State.wakeRanges (s : State) : State :=
  (s.tasks.filter (fun e => e.2.waiting && !s.rangeWaits e.2)).foldl (fun s e =>
    (s.setTaskState e.2.part e.2.desc 0).modTask e.1 (fun t => { t with waiting := false })) s

/-- The record of a task goes: it is complete, or no cluster of a dead one is left (R195). -/
def State.dropTask (s : State) (tid : Nat) : State := ({ s with tasks := SMap.erase s.tasks tid }).wakeRanges

/-- The room of a cluster's image is free again (R412). -/
def State.freeImage (s : State) (c : Cluster) : State :=
  match c.img with
  | some (some die, n) => s.modDie die (fun d => { d with shadow := d.shadow - n })
  | some (none, n) => match SMap.find? s.tasks c.tid with
    | some t => s.modPart t.part (fun p => { p with ctxUsed := p.ctxUsed - n })
    | none => s
  | none => s

/-- A task was taken from the subtree of a `PREEMPT`'s RCB, or of its whole partition (R411). -/
def State.underRcb (s : State) (t : Task) (r : Word) : Bool :=
  r == 0 || (s.taskPath t).any (fun x => samePtr x r)
/-- No cluster of the subtree is resident (R411, R418). -/
def State.subtreeSaved (s : State) (part : Nat) (r : Word) : Bool :=
  !s.clusters.any (fun e => (e.2.st == .resident || e.2.st == .stopping) && (match SMap.find? s.tasks e.2.tid with
    | some t => t.part == part && s.underRcb t r
    | none => false))
/-- A die is pre-empted for a partition (R372). -/
def State.dieHeld (s : State) (part die : Nat) : Bool := (s.die die).preempts.any (fun x => x.1 == part)
/-- A subtree is reopened, and every one that was pre-empted inside it (R411). -/
def State.reopen (s : State) (part : Nat) (r : Word) : State :=
  let out (x : Word) : Bool := r == 0 || samePtr x r || (s.chain part x).any (fun y => samePtr y r)
  let s := s.modPart part (fun p => { p with preempted := p.preempted.filter (fun x => !out x) })
  let s : State := { s with dies := s.dies.map (fun e =>
    (e.1, { e.2 with preempts := e.2.preempts.filter (fun x => !(x.1 == part && out x.2)) })) }
  { s with groups := s.groups.map (fun e => (e.1, { e.2 with host := e.2.host.map (fun h =>
      { h with heldSince := if e.2.part == part && !s.dieHeld part h.die then none else h.heldSince }) })) }
/-- PREEMPTs and RESUMEs of a subtree that is saved take effect and are answered, in order (R411). -/
def State.answerPreempts (s : State) (part : Nat) : State :=
  match SMap.find? s.parts part with
  | none => s
  | some p =>
    (p.answers.filter (fun x => s.subtreeSaved part x.1)).foldl (fun s x =>
      let s := s.modPart part (fun p => { p with answers := p.answers.erase x })
      let s := if x.2 then s.modPart part (fun p => { p with
          preempted := if p.preempted.contains x.1 then p.preempted else p.preempted ++ [x.1] })
        else s.reopen part x.1
      s.answer) s

/-- A cluster leaves: its banks, its charges, its image, its record (R14, R29, R412). -/
def State.dropCluster (s : State) (cid : Nat) : State :=
  match SMap.find? s.clusters cid with
  | none => s
  | some c =>
    match SMap.find? s.tasks c.tid with
    | none => { s with clusters := SMap.erase s.clusters cid }
    | some t =>
      let path := (c.limits.map (fun l => l.map (·.1))).getD (s.taskPath t)
      let s := (s.dropFifos cid t.part path).freeImage c
      let s := if c.admitted then s.reclaimAt t.part path t.share else s
      (({ s with clusters := SMap.erase s.clusters cid }).unbindTags c.tid).answerPreempts t.part

/-- A cluster ends: CLDONE rises, its charges are reclaimed; a dead task goes with its last cluster (R14, R26, R195). -/
def State.endCluster (s : State) (cid : Nat) : State :=
  match SMap.find? s.clusters cid with
  | none => s
  | some c =>
    let s := s.dropCluster cid
    match SMap.find? s.tasks c.tid with
    | none => s
    | some t =>
      let s := (s.raiseClDone t.part t.desc).modTask c.tid (fun t => { t with clEnded := t.clEnded + 1 })
      if t.dead && (s.clustersOf c.tid).isEmpty then s.dropTask c.tid else s

/-- The issue slots that a group has used are added to BUSY at every level (R17). -/
def State.flushBusy (s : State) (gid : Nat) : State :=
  match SMap.find? s.groups gid with
  | none => s
  | some g =>
    if g.busyDue = 0 then s
    else ((s.pathOf g).foldl (fun s r =>
      s.devMod g.part (r + 0x90) (fun w => w + BitVec.ofNat 64 g.busyDue)) s).modGroup gid (fun g => { g with busyDue := 0 })

/-- Accesses of a partition that have been translated and are not performed: pod-tier loads, non-temporal stores, stream
operations (R284). -/
def State.translated (s : State) (part : Nat) : Bool :=
  s.groups.any (fun e => e.2.part == part && (!e.2.stnts.isEmpty || e.2.fills.any (fun f => match f.src with
    | .podLoad _ _ _ _ _ => true
    | _ => false)))
  || s.streams.any (fun e => e.2.part == part && !e.2.ops.isEmpty)
  || s.groves.any (fun e => e.2.queues.any (fun q => q.2.any (fun x => match x with
    | .op o => o.part == part && !o.pods.isEmpty
    | .fence _ _ _ _ => false)))
/-- `OBJINV`s whose accesses are all performed are answered (R284). -/
def State.answerInvs (s : State) (part : Nat) : State :=
  match SMap.find? s.parts part with
  | none => s
  | some p =>
    if p.invs = 0 || s.translated part then s
    else (List.range p.invs).foldl (fun s _ => s.answer) (s.modPart part (fun p => { p with invs := 0 }))

/-- A core's groups changed, so that a deadlock of `GROW`s must hold a full slot anew (R105). -/
def State.clearGrowStuck (s : State) (core : Nat) : State :=
  if (s.core core).growStuck.isSome then s.modCore core (fun c => { c with growStuck := none }) else s

/-- What a chain read of register `reg` of thread `t` of a group takes when that register goes: what it holds if it is
full, else a break mark (R166). -/
def State.chainGot (s : State) (u : Group) (t reg : Nat) : ChainGot :=
  let x := u.lreg reg t
  if 8 * u.chunks ≤ reg ∨ x.fe ≠ .full then .mark .brk
  else match x.mark with
    | some m => .mark m
    | none => .value (s.pts u.coreN) x.val
/-- The registers from `lo` on of a group go: the chain reads of its cluster that wait for them take what they find
(R166). -/
def State.takeReads (s : State) (u : Group) (lo : Nat) : State :=
  let hit (wg idx reg : Nat) : Bool := wg == u.wg && idx == u.idx && decide (lo ≤ reg)
  { s with groups := s.groups.map (fun e =>
      if e.2.cid = u.cid ∧ e.2.host.isNone then (e.1, { e.2 with
        fills := e.2.fills.map (fun f => match f.src with
          | .chainRead wg idx t r => if hit wg idx r then { f with src := .chainGot (s.chainGot u t r) } else f
          | _ => f)
        scans := e.2.scans.map (fun (q : ScanWait) =>
          if hit q.leftWg q.leftGroup q.reg && q.got.isNone then { q with got := some (s.chainGot u 31 q.reg) } else q) })
      else e) }

/-- A group leaves: bindings, lane registers, reservations, barrier counts (R83). -/
def State.dropGroup (s : State) (gid : Nat) (kill : Bool) : State :=
  match SMap.find? s.groups gid with
  | none => s
  | some g =>
    let s := (s.flushBusy gid).unbindAll gid kill
    let s := match g.core with
      | some c => s.clearGrowStuck c
      | none => s
    let s := match g.host with
      | none => (s.reclaimBy g { lreg := g.charged }).takeReads g 0
      | some _ => s
    ({ s with groups := SMap.erase s.groups gid, resvs := s.resvs.filter (fun r => r.2.2.1 != gid) }).answerInvs g.part

/-- A group ends by `EXIT` (R83): it leaves; its workgroup or its cluster may end with it. -/
def State.endGroup (s : State) (gid : Nat) : State :=
  match SMap.find? s.groups gid with
  | none => s
  | some g =>
    let s := s.modTask g.tid (fun t => { t with pts := tmax t.pts (s.pts g.coreN) })
    let s := s.dropGroup gid false
    let s := (s.wgbarCheck g.cid g.wg).barCheckAll g.tid
    let rest := s.groupsIn g.cid
    if rest.isEmpty then s.endCluster g.cid
    else
      let s := s.noteParked g.cid
      if rest.any (fun e => e.2.wg == g.wg) then s
      else s.modWg g.cid g.wg (fun w => { w with slice := false, ranges := [], tiles := [] })

/-! ## Kill and restart (R409, R410) -/

/-- Engine work of killed groups (R275): entries that have not started go, a started operation stops, fences go. -/
def State.dropEngineWork (s : State) (gs : List Nat) : State :=
  { s with groves := s.groves.map (fun e => (e.1, { e.2 with
      queues := e.2.queues.map (fun q => (q.1, q.2.filter (fun x => match x with
        | .op o => !gs.contains o.gid
        | .fence g _ _ _ => !gs.contains g))) })) }

/-- Matrix work of killed groups (R261): ungranted entries go, granted ones retire without effect, and so do fills. -/
def State.dropMatrixWork (s : State) (gs : List Nat) : State :=
  { s with groves := s.groves.map (fun e =>
      let keys := (e.2.passes.filter (fun p => gs.contains p.gid && p.granted.isNone)).map (·.key)
      (e.1, { e.2 with
        passes := (e.2.passes.filter (fun p => !keys.contains p.key)).map (fun p =>
          if gs.contains p.gid then { p with dead := true } else p)
        obFills := e.2.obFills.filter (fun f => !gs.contains f.gid)
        tileOps := e.2.tileOps.filter (fun t => match t.2.2 with
          | .pass k => !keys.contains k
          | .zmov _ g _ _ _ => !gs.contains g
          | .zld g _ _ => !gs.contains g) })) }

/-- FIFO requests of some groups withdrawn from the banks (R217). -/
def State.dropFifoReqs (s : State) (gs : List Nat) : State :=
  { s with groves := s.groves.map (fun e => (e.1, { e.2 with
      banks := e.2.banks.map (fun b => (b.1, { b.2 with
        pushq := b.2.pushq.filter (fun r => !gs.contains r.gid)
        popq := b.2.popq.filter (fun r => !gs.contains r.gid) })) })) }

/-- Buds of some groups that have not been sent are discarded (R372). -/
def State.dropBuds (s : State) (gs : List Nat) : State :=
  { s with cores := s.cores.map (fun e => (e.1, { e.2 with budq := e.2.budq.filter (fun b => !gs.contains b.out.gid) })) }

/-- A non-temporal store is performed at its home (R323), when those in `rest` are still to come: the last store of a
request that writes a sector whole clears the sector's poison (R219, R303). -/
def State.stntPerform (s : State) (part : Nat) (x : Stnt) (rest : List Stnt) : Time × State :=
  let (t, s) := s.stntWrite (s.keyOf part) x.bytes
  let sec := x.addr / 32
  (t, if x.req.isSome && !rest.any (fun y => y.req == x.req && y.addr / 32 == sec) then
      { s with poison := SMap.set false s.poison sec false } else s)

/-- Non-temporal stores performed in order: their times, and the state after. -/
def State.stntAll (part : Nat) : List Stnt → State → List Time × State
  | [], s => ([], s)
  | x :: r, s =>
    let (t, s) := s.stntPerform part x r
    let (ts, s) := State.stntAll part r s
    (t :: ts, s)

/-- Non-temporal stores of a killed group are performed without order (R325). -/
def State.performStnts (s : State) (g : Group) : State := (State.stntAll g.part g.stnts s).2

/-- A cluster's work is discarded at once (R409): everything its groups hold, have posted or wait for. -/
def State.discardCluster (s : State) (cid : Nat) : State :=
  let gs := s.groupsIn cid
  let ids := gs.map (·.1)
  let tid := ((SMap.find? s.clusters cid).map (·.tid)).getD 0
  let s := gs.foldl (fun s e => (s.performStnts e.2).cancelWaiter e.2.part (2 * e.1)) s
  let s := s.cancelWaiter (((SMap.find? s.tasks tid).map (·.part)).getD 0) (2 * cid)
  let s := (((s.dropEngineWork ids).dropMatrixWork ids).dropFifoReqs ids).dropBuds ids
  let s := ids.foldl (fun s i => s.dropGroup i true) s
  s.barCheckAll tid

/-- A cluster is killed (R409). -/
def State.killCluster (s : State) (cid : Nat) : State := (s.discardCluster cid).dropCluster cid

/-- A cluster is discarded and returns to placement (R410); `raise`: RESTARTS rises. A task that is admitted no further
(R202) loses the cluster, and goes with its last one (R195). -/
def State.restartCluster (s : State) (cid : Nat) (raise : Bool) : State :=
  match SMap.find? s.clusters cid with
  | none => s
  | some c =>
    let s := (s.discardCluster cid).dropCluster cid
    if ((SMap.find? s.tasks c.tid).map (·.dead)).getD false then
      if (s.clustersOf c.tid).isEmpty then s.dropTask c.tid else s
    else
    let n : Cluster := { tid := c.tid, idx := c.idx, restarts := c.restarts + (if raise then 1 else 0) }
    { s with clusters := SMap.put s.clusters cid n }

/-- A task is killed: its clusters, and then its record; STATE takes the value given (R408, R409). -/
def State.killTask (s : State) (tid state : Nat) : State :=
  match SMap.find? s.tasks tid with
  | none => s
  | some t =>
    let s := (s.clustersOf tid).foldl (fun s e => s.killCluster e.1) s
    let s := ((s.setTaskState t.part t.desc state).cancelWaiter t.part (2 * tid)).dropTask tid
    match t.node with
    | some (gn, i) => s.nodeFault gn i
    | none => s

/-- The subtree of an RCB: itself and what its CHILD list links. -/
def State.subtree (s : State) (part : Nat) (r : Word) : List Word := r :: (s.links part r).map (·.1)

/-- A task was taken from an RCB's subtree. -/
def State.inSubtree (s : State) (t : Task) (part : Nat) (root : Word) : Bool :=
  t.part == part && (s.taskPath t).any (fun r => samePtr r root)

/-- A row of y of a root node that a kill stops: its bytes are free (R384). -/
def State.freeRow (s : State) (r : RootNode) (i : Nat) : State :=
  let (x, s) := s.freeWord
  let off := ptrOff r.yptr + 4 * i
  match SMap.find? s.parts r.part with
  | none => s
  | some p =>
    match s.walkDesc p (ptrObj r.yptr) with
    | .error _ => s
    | .ok d =>
      if d.size < off + 4 then s
      else match (s.translate 0 p (ptrObj r.yptr) d off true).1 with
        | .place (.hbm a) _ => s.homeStore p.keyId (addrBytes a (bytesOf 4 x.toNat))
        | .place (.modul _ m a) _ => s.modWrite m (s.modKeyOf p m a 4) (addrBytes a (bytesOf 4 x.toNat))
        | .place (.host a) _ => s.hostWrite (addrBytes a (bytesOf 4 x.toNat))
        | _ => s
/-- The rows of y of root nodes that a kill stops are unspecified, if the node was bound (R384, R386). -/
def State.freeRows (s : State) (rs : List RootNode) : State :=
  (rs.filter (fun r => r.stack.isSome)).foldl (fun s r => (List.range r.nrows).foldl (fun s i => s.freeRow r i) s) s

/-- Something of a graph still waits for a page: its completion word, a node to be launched, a root node, a copy. -/
def State.graphWaits (s : State) (gn obj page : Nat) : Bool :=
  let m := some (obj, page)
  (match SMap.find? s.graphs gn with
   | none => false
   | some g => g.cwMiss == m || g.offered.any (fun i =>
       let ptr : Word := BitVec.ofNat 64 (s.graphWord g (nodeOff i))
       ptrObj ptr == obj && ptrOff ptr / 65536 == page))
    || s.roots.any (fun r => r.graph == gn && r.miss == m)
    || s.groves.any (fun e => e.2.queues.any (fun q => q.2.any (fun x => match x with
      | .op o => o.node.any (fun k => k.1 == gn) && o.miss == m
      | .fence _ _ _ _ => false)))
/-- A root node that is killed no longer waits for its page (R298). -/
def State.leaveRootPage (s : State) (r : RootNode) : State :=
  match r.miss with
  | none => s
  | some (obj, page) => if s.graphWaits r.graph obj page then s else s.leaveRequest r.part (2 * r.graph + 1) obj page

/-- Root nodes of the graphs of a killed subtree stop, and their tiles are unbound (R384). -/
def State.killRoots (s : State) (part : Nat) (root : Word) : State :=
  let hit (r : RootNode) : Bool := r.part == part && (match SMap.find? s.graphs r.graph with
    | some g => (s.chain part g.rcb).any (fun x => samePtr x root)
    | none => false)
  let out := s.roots.filter hit
  let ctl := s.hbmCtl.map (fun e => (e.1, { e.2 with
    reqs := e.2.reqs.filter (fun q => !out.any (fun r => some r.order == q.burst.map (·.1))) }))
  let s := State.freeRows { s with roots := s.roots.filter (fun r => !hit r), hbmCtl := ctl } out
  let s := out.foldl (fun (s : State) (r : RootNode) => s.leaveRootPage r) s
  (out.foldl (fun (s : State) (r : RootNode) => s.nodeFault r.graph r.node) s).startMigs

/-- Policy 00 (R408): every task of the domain is killed, VALID goes to 0 in its RCBs; the faulting task's STATE is 4,
the others' 5. -/
def State.killSubtree (s : State) (part : Nat) (root : Word) (tid : Nat) : State :=
  let ts := (s.tasks.filter (fun e => s.inSubtree e.2 part root)).map (·.1)
  let s := s.killRoots part root
  let s := ts.foldl (fun s i => s.killTask i (if i = tid then 4 else 5)) s
  (s.subtree part root).foldl (fun s r => s.devMod part (r + 0x38) (fun w => w &&& ~~~1#64)) s

/-! ## Taking a fault -/

/-- What a fault does by its domain's policy (R408): the ACTION field's value 0, 1 or 2. -/
def faultAction (t : Task) (c : Cluster) : Nat :=
  match t.eff.policy with
  | 1 => 0
  | 2 => if t.idem && decide (c.restarts < 3) then 2 else 1
  | _ => 1

/-- FAULT_CODE of a record (R81). -/
def FaultInfo.word (f : FaultInfo) : BitVec 32 := BitVec.ofNat 32 (f.thread * 2 ^ 24 + f.sw % 2 ^ 16 * 2 ^ 8 + f.code.byte)

/-- TAKING A FAULT of a group (R404-R410): one record for each code, in the order given, then the action of the
effective policy. The answer says whether the group goes on: FAULT_CODE and FAULT_ADDR then hold the first. -/
def State.takeFault (s : State) (gid origin : Nat) (fs : List FaultInfo) : State × Bool :=
  match SMap.find? s.groups gid, fs with
  | some g, f :: _ =>
    match SMap.find? s.tasks g.tid, SMap.find? s.clusters g.cid with
    | some t, some c =>
      let act := faultAction t c
      let k := g.coreN
      let rec0 (f : FaultInfo) : FaultRecord :=
        { origin, action := act, f, restarts := c.restarts, node := (t.node.map (·.2)).getD 0xFFFF, tdesc := t.desc,
          taskNo := t.no.toNat, cluster := c.idx, die := coreDie k, grove := coreGrove k % 24, core := k % 4, wg := g.wg,
          group := g.idx }
      let root := t.eff.root
      let s := fs.foldl (fun s f => s.taskRecord t (rec0 f) (s.pts k)) s
      match act with
      | 0 => (s.modGroup gid (fun g => { g with faultCode := f.word, faultAddr := f.addr }), true)
      | 2 => (s.restartCluster g.cid true, false)
      | _ => (s.killSubtree t.part root g.tid, false)
    | _, _ => (s, false)
  | _, _ => (s, false)

/-- A fault of one thread at a leaf instruction. -/
structure TFault where
  thread : Nat
  code : Code
  sw : Nat := 0
  addr : Option Word := none
  info : Word := 0
  deriving DecidableEq, Repr

/-- Threads' faults as records: one for each distinct code, by its lowest thread (R405). -/
def faultRecords (off : Nat) (fs : List TFault) : List FaultInfo :=
  let fs := allThreads.flatMap (fun t => fs.filter (fun f => f.thread == t))
  (fs.map (·.code)).eraseDups.filterMap (fun c =>
    (fs.find? (fun f => f.code == c)).map (fun f =>
      { code := c, sw := f.sw, thread := f.thread, mask := maskOf ((fs.filter (fun x => x.code == c)).map (·.thread)),
        addr := f.addr.getD (BitVec.ofNat 64 off), info := f.info }))

/-- Threads of a host group end: one that waits at its `GRET` takes a fault that comes then, and the first fault stays
(R367). -/
def endAll (old new : List Ending) : List Ending :=
  let new := new.filter (fun e => !old.any (fun o => o.thread == e.thread && o.code != 0))
  old.filter (fun o => !new.any (fun e => e.thread == o.thread)) ++ new

/-- Faults of a leaf instruction at an offset (R405, R408, R367): threads of a home group end, by `fin`, if the policy
goes on; threads of a host group end and wait to return with the code. -/
def State.takeThreadFaults (s : State) (gid off : Nat) (fs : List TFault) (fin : Group → Mask → Group) : State :=
  match fs with
  | [] => s
  | _ :: _ =>
    match SMap.find? s.groups gid with
    | none => s
    | some g =>
      let m := maskOf (fs.map (·.thread))
      match g.host with
      | some h =>
        let es : List Ending := fs.map (fun f => { thread := f.thread, code := BitVec.ofNat 8 f.code.byte, off })
        s.modGroup gid (fun g => { fin g m with host := some { h with ending := endAll h.ending es } })
      | none =>
        match s.takeFault gid 0 (faultRecords off fs) with
        | (s, true) => s.modGroup gid (fun g => fin g m)
        | (s, false) => s
/-- Faults of the instruction at which a leaf slot stands: the threads end as by `LEXIT`. -/
def State.takeLeafFaults (s : State) (gid slot off : Nat) (fs : List TFault) : State :=
  s.takeThreadFaults gid off fs (fun g m => g.endThreads slot m false)

/-! ## Stem words -/

/-- What a stem word does: complete, continue elsewhere, wait at the word, turn out not to be ready (R77), fault, or
miss a page. The state given is the one with its effects so far. -/
inductive StemRes where
  | next (s : State)
  | goto (s : State) (pc : Word)
  | wait (s : State)
  | unready (s : State)
  | fault (s : State) (f : FaultInfo)
  | miss (s : State) (m : MissInfo)

/-- A pointer moved by a displacement: only bits [39:0] change (R91). -/
def pcPlus (pc : Word) (d : Int) : Word := ptrWith pc (Int.toNat (((ptrOff pc : Int) + d) % (2 ^ 40 : Int)))

/-- The group's stem word issues in cycle `c` (R77); a word that waits has issued when it was first tried. -/
def Group.stemIssue (g : Group) (c : Nat) : Group := if g.blocked then g else { g with issueEnd := c + 1 }
/-- A group whose stem word is complete in cycle `c`: it stands at `pc`, and its next word is ready `n` cycles later
(R77); after a release from a barrier, when the release says (R225, R227). -/
def Group.stemMove (g : Group) (pc : Word) (c n : Nat) : Group :=
  let g := { g.stemIssue c with pc, retry := [], redo := none, blocked := false }
  match g.wait with
  | .wgbarDone => { g with wait := .none }
  | .barDone _ _ _ => { g with wait := .none }
  | _ => { g with wait := .none, nextAt := c + n }
/-- A word that waits has issued (R77): the core's stem unit is free for other groups. One that has begun its effect has no
replay before it any more (R291). -/
def Group.stemHold (g : Group) (c : Nat) : Group :=
  { g.stemIssue c with blocked := true, redo := if g.wait = .none then g.redo else none }
/-- A stem unit's turn that issued nothing is given back (R77). -/
def State.unissue (s : State) (gid : Nat) (g : Group) : State :=
  (s.modGroup gid (fun g => { g with stemIssued := false })).modCore g.coreN (fun c => { c with stemEnd := 0 })

/-- The stem goes on at the next word (R77). -/
def State.stemPass (s : State) (gid : Nat) (pc : Word) : State :=
  s.modGroup gid (fun g => g.stemMove (pcPlus pc 4) s.cycle 1)
/-- The stem goes on at another address, and the word there is ready 2 cycles later (R77). -/
def State.stemGoto (s : State) (gid : Nat) (pc : Word) : State := s.modGroup gid (fun g => g.stemMove pc s.cycle 2)

/-- A fault at the group's stem word (R408): the word completes with no effect if the group goes on. -/
def State.stemFault (s : State) (gid : Nat) (f : FaultInfo) : State :=
  match s.takeFault gid 1 [f] with
  | (s, true) => s.modGroup gid (fun g => g.stemMove (pcPlus g.pc 4) s.cycle 1)
  | (s, false) => s

/-- A stem word's result applied to its group. -/
def State.stemApply (gid : Nat) (g : Group) : StemRes → State
  | .next s => s.stemPass gid g.pc
  | .goto s pc => s.stemGoto gid pc
  | .wait s => s.modGroup gid (fun g => g.stemHold s.cycle)
  | .unready s => s.unissue gid g
  | .fault s f => s.stemFault gid f
  | .miss s m => (s.modGroup gid (fun g => { g.stemIssue s.cycle with blocked := false })).parkGroup gid none 0 [m]

/-- A fault of this stem word: THREAD = 0xFF and the word's address (R89). -/
def Group.fault (g : Group) (c : Code) (info : Word := 0) : FaultInfo := { code := c, addr := g.pc, info }

/-- The first of some held faults in posting order (R257, R273). -/
def firstPosted : List HeldFault → Option HeldFault
  | [] => none
  | h :: r =>
    match firstPosted r with
    | some k => if k.num < h.num then some k else some h
    | none => some h
/-- The held fault that is raised before the group's next stem word executes: of an engine or a stream (R273, R348). -/
def Group.dueHeld (g : Group) : Option HeldFault := firstPosted (g.held.filter (fun h => h.mx.isNone))

/-- A held fault raised at the group's word; a group that goes on executes the word afresh (R273, R257, R408). -/
def State.raiseHeld (s : State) (gid : Nat) (h : HeldFault) : State :=
  let s := s.modGroup gid (fun g => { g with held := g.held.erase h })
  (s.takeFault gid 2 [{ code := h.code, addr := h.addr, info := h.info }]).1

/-- The turn of a group whose word has not issued because a held fault came first is given back (R77, R273). -/
def State.giveTurn (s : State) (gid : Nat) (g : Group) : State := if g.blocked then s else s.unissue gid g

/-- The stem word of the current group executes: held faults come first (R273), then the word itself. -/
def runStem (s : State) (body : Nat → Group → State → StemRes) : Host.Outcome State Fault Refusal :=
  match s.cur with
  | some (.stem gid) =>
    let s := { s with cur := none }
    match SMap.find? s.groups gid with
    | none => .fault .noParty
    | some g =>
      match g.dueHeld with
      | some h => .next ((s.raiseHeld gid h).giveTurn gid g)
      | none => .next (State.stemApply gid g (body gid g s))
  | _ => .fault .noParty

/-- A stem word that only changes its group, and never waits or faults. -/
def stemSet (s : State) (f : Group → Group) : Host.Outcome State Fault Refusal :=
  runStem s (fun gid g s => .next (s.putGroup gid (f g)))

end Sys2Proof.Machine
end

