-- ==== Sys2Proof/Machine/Access.lean ====
section
/-! DEFINITION. The access checks of the stem and of the lanes (R89, R210, R319, R445): rights, bounds, alignment,
sealing, pages; the scratch window (R204, R212) and local space (R213); and how an operation enters a stream (R337). -/
namespace Sys2Proof.Machine

/-- A global access to check: pointer, resulting offset, size, what it needs. -/
structure AccReq where
  ptr : Word
  e : Int
  n : Nat
  align : Nat
  needR : Bool := false
  needW : Bool := false
  needA : Bool := false
  atomic : Bool := false
  wr : Bool := false
  badTiers : List Nat := []
  unbound : Bool := false
  kind : MissKind := .read
  deriving DecidableEq, Repr

/-- The outcome of the checks. -/
inductive Acc where
  | fault (c : Code)
  | miss (m : MissInfo)
  | ok (pl : Place) (tier : Nat) (d : Desc)
  deriving DecidableEq, Repr

/-- The rights that the pointer and the descriptor leave (R277) include those needed. -/
def rightsOk (q : AccReq) (d : Desc) : Bool :=
  (!q.needR || d.r) && (!q.needW || (d.w && !ptrNW q.ptr)) && (!q.needA || (d.a && !ptrNA q.ptr && !ptrNW q.ptr))

/-- Steps 2 to 5 of the check tables (R89, R210, R319). -/
def lateChecks (q : AccReq) (d : Desc) (k : KeyClass) : Option Code :=
  if !rightsOk q d || (q.atomic && k == .open_) then some .rights
  else if q.e < 0 || (d.size : Int) < q.e + q.n then some .bounds
  else if q.e.toNat % q.align ≠ 0 then some .misalign
  else sealFault k

/-- A place that reads as an uncorrectable error (R303, R440). -/
def State.placeBad (s : State) (pl : Place) (n : Nat) : Bool :=
  match pl with
  | .hbm a => s.hbmBadSpan a n
  | .modul _ m a => (span a n).any (fun x => SMap.get false s.modPoison (modKey m x / 32))
  | .host _ => false

/-- A place on a stack that has failed: every access of it faults (R440). -/
def State.placeFailed (s : State) (pl : Place) : Bool :=
  match pl with
  | .hbm a => s.hbmGone a
  | _ => false

/-- The page of an offset as a group's access finds it: a page whose answer was a failure fails (R291, R297). -/
def State.findPage (s : State) (die : Nat) (g : Group) (p : Part) (obj : Nat) (d : Desc) (off : Nat) (wr : Bool) :
    Xlat × State :=
  if g.retry.contains (obj, off / 65536) then (.fault .pageFail, s) else s.translate die p obj d off wr

/-- What the page of an access adds to step 1 of the check tables: a page list that could not be read, and a page in a
tier that the access may not use (R283, R319, R445). -/
def stepOne (q : AccReq) (x : Xlat) : Option Code :=
  match x with
  | .fault .uePoison => some .uePoison
  | .place _ t => if q.badTiers.contains t then some .objInvalid else none
  | _ => none

/-- The checks of a global access by a group on a core, in the order of R89, R210 and R319; a check on the tier is made
against the page's location (R445). -/
def State.checkAccess (s : State) (c : Nat) (g : Group) (q : AccReq) : Acc × State :=
  match SMap.find? s.parts g.part with
  | none => (.fault .objInvalid, s)
  | some p =>
    let obj := ptrObj q.ptr
    match s.coreDesc c g.part obj with
    | (.error e, s) => (.fault e, s)
    | (.ok d, s) =>
      let late := lateChecks q d (keyClass p d)
      if q.e < 0 || (d.size : Int) ≤ q.e then (.fault (late.getD .bounds), s)
      else
        let off := q.e.toNat
        let (x, s) := s.findPage (coreDie c) g p obj d off q.wr
        match stepOne q x with
        | some e => (.fault e, s)
        | none =>
        match late with
          | some e => (.fault e, s)
          | none =>
            match x with
            | .fault e => (.fault e, s)
            | .miss m mal => (.miss { miss := m, mal, kind := q.kind, first := off }, s)
            | .place pl t =>
              if t ≠ 0 && q.unbound then (.fault .streamSeq, s)
              else if s.placeLost pl then (.fault .moduleLost, s)
              else if q.needR && s.placeBad pl q.n || s.placeFailed pl then (.fault .uePoison, s)
              else (.ok pl t d, s)

/-! ## Scratch (R204, R210, R212) -/

/-- Scratch units of a group's task (R23). -/
def State.scrOf (s : State) (g : Group) : Nat := ((s.taskOf g).map (·.scr)).getD 0

/-- The SRAM address of a window offset of a workgroup (R204). -/
def State.scratchAddr (s : State) (cid wg e : Nat) : Option Nat :=
  match s.wg? cid wg with
  | none => none
  | some w =>
    match w.core, w.units[e / 4096]? with
    | some c, some u => some (coreGrove c * 2 ^ 22 + u * 4096 + e % 4096)
    | _, _ => none

/-- The scratch checks of R210 for n bytes; a bud away from home has no scratch (R222). -/
def State.checkScratch (s : State) (g : Group) (e : Int) (n align : Nat) : Except Code Nat :=
  if g.host.isSome then .error .rights
  else if e < 0 || (4096 * s.scrOf g : Int) < e + n then .error .bounds
  else if e.toNat % align ≠ 0 then .error .misalign
  else match s.scratchAddr g.cid g.wg e.toNat with
    | some a => .ok a
    | none => .error .bounds

/-- Some sector of SRAM bytes reads as an uncorrectable error (R210). -/
def State.sramBad (s : State) (a n : Nat) : Bool := (span a n).any (fun x => SMap.get false s.sramPoison (x / 32))

/-- A core's read of scratch bytes at the bank (R314). -/
def State.scratchRead (s : State) (c a n : Nat) : List Byte × State :=
  let s := s.bankTime c a false
  (s.sramBytes a n, s)
/-- A core's write of scratch bytes at the bank (R314). -/
def State.scratchWrite (s : State) (c a : Nat) (bs : List Byte) : State :=
  (s.bankTime c a true).sramWrite (addrBytes a bs)

/-! ## Local space (R213) -/

/-- HBM address of a thread's local byte: offset 256 (o div 8) + 8 t + (o mod 8) of its group's object (R213). -/
def localAddr (p : Part) (g : Group) (t o : Nat) : Nat :=
  frameBase p g.frame + 1024 + 256 * (o / 8) + 8 * t + o % 8

/-- The local checks of R210. -/
def checkLocal (p : Part) (g : Group) (t : Nat) (e : Int) (n : Nat) : Except Code Nat :=
  if g.host.isSome then .error .rights
  else if e < 0 || (1024 * p.localS : Int) < e + n then .error .bounds
  else if e.toNat % n ≠ 0 then .error .misalign
  else .ok (localAddr p g t e.toNat)

/-! ## Streams (R336, R337) -/

/-- The stream identifier of a host group's receiver (R369). -/
def State.recvStream (s : State) (h : HostInfo) : Nat := 2048 * s.pkg + 2032 + 4 * h.die + h.recv

/-- The stream that a group's slot names: its binding (R336), or the receiver's for a host group (R369). -/
def State.slotStream (s : State) (g : Group) (slot : Nat) : Option Nat :=
  match g.host with
  | some h => some (s.recvStream h)
  | none => SMap.find? g.wslots slot

/-- A stream as it stands; a receiver's stream exists from its first use (R369). -/
def State.streamAt (s : State) (gid slot sid : Nat) (part : Nat) (rcb : Word) : Stream :=
  (SMap.find? s.streams sid).getD { gid, slot, part, rcb }

/-- Where a place's stream operations go. -/
def placeDest : Place → Option Dest
  | .modul _ m _ => some (.modul m)
  | .host _ => some .host
  | .hbm _ => none

/-- A stream of the group is full: 64 operations sent and one more at the port, so that the group's next instruction
that targets a pod tier does not issue (R337). -/
def Stream.full (x : Stream) : Bool :=
  decide (64 ≤ (x.ops.filter (fun o => o.state != 0)).length) && x.ops.any (fun o => o.state == 0)
/-- Some stream of the group holds back its pod-tier instructions (R337). -/
def State.podBlocked (s : State) (gid : Nat) : Bool := s.streams.any (fun e => e.2.gid == gid && e.2.full)

/-- An operation takes the counter's value in its stream; the first after a binding or a change of destination is a
resync; joins hold it at the port (R337, R341). -/
def State.streamPut (s : State) (gid slot sid part : Nat) (rcb : Word) (d : Dest) (op : ModOp) (addr : Word) (thr : Mask)
    (nt : Bool := false) (eng : Option Nat := none) (hold : Bool := false) (layout : Option SealAt := none) : Nat × State :=
  let x := s.streamAt gid slot sid part rcb
  let o : SOp := { seq := x.counter, resync := x.fresh || x.dest != some d, dest := d, op, gid, addr, part,
                   after := x.join, thr, nt, num := s.nextId, eng, hold, layout }
  let x := { x with gid, counter := (x.counter + 1) % 2 ^ 32, dest := some d, fresh := false, join := [],
                    ops := x.ops ++ [o] }
  (o.seq, { s with streams := SMap.put s.streams sid x, nextId := s.nextId + 1 })

/-- An operation's atomics, if it holds some of a sector of a module. -/
def SOp.atomsOf (o : SOp) (m sec : Nat) : List AtomReq :=
  match o.dest, o.op with
  | .modul k, .atom xs => if k = m ∧ xs.all (fun x => x.addr / 32 == sec) then xs else []
  | _, _ => []
/-- A thread's atomic in a module (R428): it joins the request of its instruction for the sector, whose operations are
those from the number `first` on, or makes one. -/
def State.streamAtom (s : State) (gid slot : Nat) (g : Group) (m first : Nat) (x : AtomReq) (ptr : Word) : Nat × State :=
  let sid := (s.slotStream g slot).getD 0
  match ((SMap.find? s.streams sid).map (·.ops)).bind (fun l => l.find? (fun o =>
      decide (first ≤ o.num) && !(o.atomsOf m (x.addr / 32)).isEmpty)) with
  | some o => (o.seq, s.modStream sid (fun y => { y with ops := y.ops.map (fun p => if p.num = o.num then
      { p with op := .atom (o.atomsOf m (x.addr / 32) ++ [x]), thr := p.thr ||| (1#32 <<< x.thr) } else p) }))
  | none => s.streamPut gid slot sid g.part (s.rcbOf g) (.modul m) (.atom [x]) ptr (1#32 <<< x.thr)

/-- A stem store to a pod tier: one operation of its slot's stream (R337, R90). -/
def State.podStore (s : State) (gid slot sid : Nat) (g : Group) (p : Part) (pl : Place) (bs : List Byte) (addr : Word)
    (nt : Bool := false) : State :=
  match pl with
  | .modul _ m a =>
    (s.streamPut gid slot sid g.part (s.rcbOf g) (.modul m)
      (.write (addrBytes a bs) (s.modKeyOf p m a bs.length)) addr 0 nt).2
  | .host a => (s.streamPut gid slot sid g.part (s.rcbOf g) .host (.write (addrBytes a bs) none) addr 0 nt).2
  | .hbm _ => s

/-- Bytes of a place as a partition reads them. -/
def State.placeBytes (s : State) (p : Part) (pl : Place) (n : Nat) : List Byte :=
  match pl with
  | .hbm a => s.hbmBytes p.keyId a n
  | .modul _ m a => s.modBytes (s.modKeyOf p m a n) m a n
  | .host a => s.hostBytes a n

/-- Lines that a canopy slice holds: 128 MiB in 16 slices (R1). -/
def canopyLines : Nat := 65536
/-- A copy of a line of an attached module at its canopy home (R332); a full slice loses another, which one is the device's
choice (R1, log entry 114). -/
def State.keepPodCopy (s : State) (port m a : Nat) : State :=
  let home := podHome port a + 1
  let l := modKey m a / 128
  let there := s.podCopies.filter (fun e => e.2 == home && e.1 != l)
  let s : State := if there.length < canopyLines then s
    else match there[(Config.freeWord s.fresh).toNat % there.length]? with
      | some e => { s with podCopies := SMap.erase s.podCopies e.1, fresh := s.fresh + 1 }
      | none => s
  { s with podCopies := SMap.set 0 s.podCopies l home }
/-- A load from a pod tier (R332, R342): the bytes; a line of an attached module leaves a copy at its canopy home. -/
def State.podRead (s : State) (p : Part) (pl : Place) (n : Nat) : List Byte × State :=
  (s.placeBytes p pl n,
   match pl with
   | .modul (some h) m a => s.keepPodCopy h m a
   | _ => s)

/-- The destination and address of a place off the package. -/
def placeAddr (pl : Place) : Option (Dest × Nat) :=
  match pl with
  | .modul _ m a => some (.modul m, a)
  | .host a => some (.host, a)
  | .hbm _ => none

/-- The module address of a queue's entry: entry i lies at offset 64 + 8 × (i mod C) of the queue (R345). -/
def entryAddr (q : List Nat) (cap i : Nat) : Nat :=
  let o := 64 + 8 * (i % cap)
  q.getD (o / 65536) 0 + o % 65536
/-- The spans of a queue of some size in its pages. -/
def queueSpans : List Nat → Nat → List (Nat × Nat)
  | [], _ => []
  | a :: r, n => (a, Nat.min n 65536) :: queueSpans r (n - 65536)
/-- The spans of bytes that a stream operation may write: address and length. Which entry a push writes is found at its
commit (R347). -/
def opSpans : ModOp → List (Nat × Nat)
  | .write ws _ => ((ws.map (fun w => w.1 / 32)).eraseDups).map (fun x => (32 * x, 32))
  | .atom xs => xs.map (fun x => (x.addr, x.n))
  | .push q c _ => queueSpans q (64 + 8 * c)
  | .pop q _ _ => [(q.headD 0, 32)]
  | .redu _ d xs => [(d, 4 * xs.length)]
/-- An operation may write a block of bytes of some size. -/
def opMeets (op : ModOp) (size k : Nat) : Bool := (opSpans op).any (fun x => decide (x.1 / size ≤ k) && decide (k ≤ (x.1 + x.2 - 1) / size))

/-- Operations of a group's streams that a load of n bytes at the place waits for: each that writes a sector of them (R343
rule 3), of those before a number in posting order where one is given. -/
def State.ownStoresPend (s : State) (gid : Nat) (pl : Place) (n : Nat := 1) (before : Option Nat := none) : Bool :=
  match placeAddr pl with
  | none => false
  | some (d, a) => s.streams.any (fun e => e.2.ops.any (fun o => o.gid == gid && before.all (fun k => decide (o.num < k)) && o.dest == d &&
      (span (a / 32) ((a + n - 1) / 32 - a / 32 + 1)).any (opMeets o.op 32)))
/-- The group's stem has waited, in cycle `c`, for its leaf runs to end (R90). -/
def Group.synced (g : Group) (c : Nat) : Group := { g with syncAt := c + 1 }
/-- A stem access may take its place: every access of the leaf runs that a stem word has waited for has taken its own. What
such a run may have left is a request at a FIFO bank (R217) or a load from a pod tier (R343). -/
def State.afterRuns (s : State) (gid : Nat) (g : Group) : Bool :=
  g.fills.all (fun f => match f.src with
    | .podLoad _ _ _ _ c => decide (g.syncAt ≤ c)
    | _ => true)
  && s.groves.all (fun e => e.2.banks.all (fun b => (b.2.pushq ++ b.2.popq).all (fun q =>
    q.gid != gid || decide (g.syncAt ≤ q.at_))))

/-- A read of a place off the package does not issue now: the streams of the group are full (R337), or the route carries
no traffic (R328). -/
def State.podHeld (s : State) (gid : Nat) (pl : Place) : Bool := s.podBlocked gid || s.placeDown pl

end Sys2Proof.Machine
end

