-- ==== Sys2Proof/Machine/Float.lean ====
section
/-! DEFINITION. Number formats, rounding and exact arithmetic (spec/08_number_formats.md R145-R153, and R129-R134): a
floating value is NaN, an infinity or sign, magnitude and power of two; every operation is exact and then rounded
once. -/
namespace Sys2Proof.Machine

/-- The five sticky flags, as the bits of R154. -/
abbrev Flags := BitVec 5
/-- Invalid (R154). -/
def flagNV : Flags := 1
/-- Divide by zero (R154). -/
def flagDZ : Flags := 2
/-- Overflow (R154). -/
def flagOF : Flags := 4
/-- Underflow (R154). -/
def flagUF : Flags := 8
/-- Inexact (R154). -/
def flagNX : Flags := 16

/-- A floating format (R145). -/
structure Fmt where
  width : Nat
  frac : Nat
  bias : Nat
  expMax : Nat
  canon : Nat
  hasInf : Bool
  maxK : Nat
  deriving DecidableEq, Repr

/-- Bits of the exponent field. -/
def Fmt.expBits (f : Fmt) : Nat := f.width - 1 - f.frac
/-- The formats of R145. `expMax` is the largest exponent field of a finite value, `maxK` the largest magnitude in
units of its last place. -/
def fmtOf : Ty → Fmt
  | .f64 => ⟨64, 52, 1023, 2046, 0x7FF8000000000000, true, 2 ^ 53 - 1⟩
  | .f32 => ⟨32, 23, 127, 254, 0x7FC00000, true, 2 ^ 24 - 1⟩
  | .f16 => ⟨16, 10, 15, 30, 0x7E00, true, 2 ^ 11 - 1⟩
  | .bf16 => ⟨16, 7, 127, 254, 0x7FC0, true, 2 ^ 8 - 1⟩
  | .e4m3 => ⟨8, 3, 7, 15, 0x7F, false, 14⟩
  | _ => ⟨8, 2, 15, 30, 0x7E, true, 7⟩

/-- A floating value: NaN (signalling or not), an infinity, or (−1)^neg × m × 2^e. -/
inductive FVal where
  | nan (sig : Bool)
  | inf (neg : Bool)
  | fin (neg : Bool) (m : Nat) (e : Int)
  deriving DecidableEq, Repr

/-- The value of a pattern (R145, R146). -/
def decodeF (f : Fmt) (x : Nat) : FVal :=
  let neg := x / 2 ^ (f.width - 1) % 2 == 1
  let ex := x / 2 ^ f.frac % 2 ^ f.expBits
  let fr := x % 2 ^ f.frac
  if f.hasInf && ex == 2 ^ f.expBits - 1 then
    if fr = 0 then .inf neg else .nan (decide (fr < 2 ^ (f.frac - 1)))
  else if !f.hasInf && ex == 2 ^ f.expBits - 1 && fr == 2 ^ f.frac - 1 then .nan false
  else if ex = 0 then .fin neg fr (1 - (f.bias : Int) - f.frac)
  else .fin neg (2 ^ f.frac + fr) ((ex : Int) - f.bias - f.frac)

/-- The sign bit of a pattern. -/
def signBit (f : Fmt) (neg : Bool) : Nat := if neg then 2 ^ (f.width - 1) else 0
/-- The pattern of an infinity. -/
def infBits (f : Fmt) (neg : Bool) : Nat := signBit f neg + (2 ^ f.expBits - 1) * 2 ^ f.frac
/-- The pattern of the largest finite value. -/
def maxBits (f : Fmt) (neg : Bool) : Nat := signBit f neg + f.expMax * 2 ^ f.frac + (f.maxK - 2 ^ f.frac)

/-- Number of bits of a magnitude. -/
def bitLen (m : Nat) : Nat := if m = 0 then 0 else Nat.log2 m + 1

/-- Whether a magnitude k with a remainder below its last place goes up by one unit (R150, R153): the remainder over
2^s, the mode, and the sixteen random bits. -/
def roundsUp (rm : RMode) (neg : Bool) (k rem s r : Nat) : Bool :=
  match rm with
  | .rne => decide (2 ^ s < 2 * rem) || (decide (2 ^ s = 2 * rem) && k % 2 == 1)
  | .rtz => false
  | .rdn => neg && rem != 0
  | .rup => !neg && rem != 0
  | .rna => decide (2 ^ s ≤ 2 * rem)
  | .sr => decide (2 ^ 16 ≤ rem * 2 ^ 16 / 2 ^ s + r)
  | .rto => false

/-- A magnitude m × 2^e in units of 2^q: the rounded count, and whether it is exact (R150, R152). -/
def roundAt (rm : RMode) (neg : Bool) (m : Nat) (e q : Int) (r : Nat) : Nat × Bool :=
  if q ≤ e then (m * 2 ^ (e - q).toNat, true)
  else
    let s := (q - e).toNat
    let k := m / 2 ^ s
    let rem := m % 2 ^ s
    if rem = 0 then (k, true)
    else if rm = .rto then (if k % 2 = 0 then k + 1 else k, false)
    else (if roundsUp rm neg k rem s r then k + 1 else k, false)

/-- The exponent of the last place kept for a magnitude m × 2^e (R151). -/
def lastPlace (f : Fmt) (m : Nat) (e : Int) : Int :=
  let top : Int := (bitLen m : Int) - 1 + e
  let emin : Int := 1 - f.bias
  (if top < emin then emin else top) - f.frac

/-- The pattern of k × 2^q, which the format holds. -/
def encodeF (f : Fmt) (neg : Bool) (k : Nat) (q : Int) : Nat :=
  let (k, q) := if k = 2 ^ (f.frac + 1) then (2 ^ f.frac, q + 1) else (k, q)
  signBit f neg + (if k < 2 ^ f.frac then k else (q + f.frac + f.bias).toNat * 2 ^ f.frac + (k - 2 ^ f.frac))

/-- k × 2^q is above the largest finite value. -/
def tooLarge (f : Fmt) (k : Nat) (q : Int) : Bool :=
  let mq : Int := (f.expMax : Int) - f.bias - f.frac
  if mq ≤ q then decide (f.maxK < k * 2 ^ (q - mq).toNat) else decide (f.maxK * 2 ^ (mq - q).toNat < k)

/-- `round(value, mode, fmt)` of R151, with sat, and the sixteen bits of a stochastic draw (R153). -/
def roundF (f : Fmt) (rm : RMode) (sat : Bool) (r : Nat) (v : FVal) : Nat × Flags :=
  match v with
  | .nan _ => (f.canon, 0)
  | .inf neg =>
    if f.hasInf then (infBits f neg, 0) else if sat then (maxBits f neg, 0) else (f.canon, flagNV)
  | .fin neg m e =>
    if m = 0 then (signBit f neg, 0)
    else
      let q := lastPlace f m e
      let (k, exact) := roundAt rm neg m e q r
      if tooLarge f k q then
        let toMax := sat || rm == .rtz || rm == .rto || (rm == .rdn && !neg) || (rm == .rup && neg)
        (if toMax then maxBits f neg else if f.hasInf then infBits f neg else f.canon, flagOF ||| flagNX)
      else
        let tiny := decide (k < 2 ^ f.frac)
        (encodeF f neg k q, if exact then 0 else if tiny then flagNX ||| flagUF else flagNX)

/-! ## Exact arithmetic (R129) -/

/-- A NaN, signalling or not. -/
def FVal.isNan : FVal → Bool
  | .nan _ => true
  | _ => false
/-- A signalling NaN. -/
def FVal.isSig : FVal → Bool
  | .nan s => s
  | _ => false
/-- The value with its sign turned. -/
def FVal.negate : FVal → FVal
  | .nan s => .nan s
  | .inf n => .inf (!n)
  | .fin n m e => .fin (!n) m e
/-- NV for signalling NaNs among the operands (R127). -/
def sigFlags (vs : List FVal) : Flags := if vs.any FVal.isSig then flagNV else 0

/-- An exact product; 0 × ∞ is NaN and invalid. -/
def mulF (a b : FVal) : FVal × Flags :=
  match a, b with
  | .nan _, _ => (.nan false, 0)
  | _, .nan _ => (.nan false, 0)
  | .inf x, .inf y => (.inf (x != y), 0)
  | .inf x, .fin y m _ => if m = 0 then (.nan false, flagNV) else (.inf (x != y), 0)
  | .fin y m _, .inf x => if m = 0 then (.nan false, flagNV) else (.inf (x != y), 0)
  | .fin x m e, .fin y n d => (.fin (x != y) (m * n) (e + d), 0)

/-- Signed magnitude in units of 2^q, for q at most the value's exponent. -/
def FVal.unitsOf (q : Int) : FVal → Int
  | .fin neg m e => (if neg then -1 else 1) * ((m * 2 ^ (e - q).toNat : Nat) : Int)
  | _ => 0
/-- The exponent of a finite value. -/
def FVal.expo : FVal → Int
  | .fin _ _ e => e
  | _ => 0
/-- The sign of a value. -/
def FVal.neg : FVal → Bool
  | .nan _ => false
  | .inf n => n
  | .fin n _ _ => n
/-- A finite zero. -/
def FVal.isZero : FVal → Bool
  | .fin _ m _ => m == 0
  | _ => false

/-- The exact sum of terms (R129, R134): NaN terms, infinities of opposite signs, and the sign of a zero sum. -/
def sumF (rm : RMode) (vs : List FVal) : FVal × Flags :=
  let infs := vs.filter (fun v => match v with
    | .inf _ => true
    | _ => false)
  if infs.any (fun i => infs.any (fun j => j != i)) then (.nan false, flagNV)
  else if vs.any FVal.isNan then (.nan false, 0)
  else match infs with
    | i :: _ => (i, 0)
    | [] =>
      let q : Int := vs.foldl (fun (q : Int) v => min q v.expo) ((vs.head?.map FVal.expo).getD 0)
      let t : Int := vs.foldl (fun (t : Int) v => t + v.unitsOf q) 0
      if t = 0 then
        let allNeg := vs.all (fun v => v.isZero && v.neg)
        let allPos := vs.all (fun v => v.isZero && !v.neg)
        (.fin (if allNeg then true else if allPos then false else rm == .rdn) 0 0, 0)
      else (.fin (decide (t < 0)) t.natAbs q, 0)

/-- An exact quotient, to many more bits than any format keeps and a last bit that says whether more follow (R129). -/
def divF (a b : FVal) : FVal × Flags :=
  match a, b with
  | .nan _, _ => (.nan false, 0)
  | _, .nan _ => (.nan false, 0)
  | .inf _, .inf _ => (.nan false, flagNV)
  | .inf x, .fin y _ _ => (.inf (x != y), 0)
  | .fin x _ _, .inf y => (.fin (x != y) 0 0, 0)
  | .fin x m e, .fin y n d =>
    if n = 0 then (if m = 0 then (.nan false, flagNV) else (.inf (x != y), flagDZ))
    else if m = 0 then (.fin (x != y) 0 0, 0)
    else
      let up := 140 + bitLen n
      let k := m * 2 ^ up / n
      let st := if m * 2 ^ up % n = 0 then 0 else 1
      (.fin (x != y) (2 * k + st) (e - d - up - 1), 0)

/-- Integer square root, one bit at a time from bit `i - 1` down. -/
def isqrtFrom (n : Nat) : Nat → Nat → Nat
  | 0, r => r
  | i + 1, r => if (r + 2 ^ i) * (r + 2 ^ i) ≤ n then isqrtFrom n i (r + 2 ^ i) else isqrtFrom n i r
/-- Integer square root. -/
def isqrt (n : Nat) : Nat := isqrtFrom n (bitLen n / 2 + 1) 0

/-- An exact square root in the same form (R129). -/
def sqrtF (a : FVal) : FVal × Flags :=
  match a with
  | .nan _ => (.nan false, 0)
  | .inf n => if n then (.nan false, flagNV) else (.inf false, 0)
  | .fin n m e =>
    if m = 0 then (.fin n 0 0, 0)
    else if n then (.nan false, flagNV)
    else
      let m := if e % 2 = 0 then m else 2 * m
      let e := if e % 2 = 0 then e else e - 1
      let k := isqrt (m * 2 ^ 200)
      let st := if k * k = m * 2 ^ 200 then 0 else 1
      (.fin false (2 * k + st) (e / 2 - 101), 0)

/-! ## Comparison (R130, R131) -/

/-- Signed units of two finite values on one scale. -/
def ordF (a b : FVal) : Int :=
  match a, b with
  | .inf x, .inf y => (if x then 0 else 1) - (if y then 0 else 1)
  | .inf x, _ => if x then -1 else 1
  | _, .inf y => if y then 1 else -1
  | a, b => let q := min a.expo b.expo
    a.unitsOf q - b.unitsOf q

/-- `FMIN` and `FMAX` (R130): a NaN is ignored, −0 is below +0. The patterns, with their values. -/
def minMaxF (f : Fmt) (mx : Bool) (x y : Nat) : Nat × Flags :=
  let a := decodeF f x
  let b := decodeF f y
  let fl := sigFlags [a, b]
  if a.isNan then (if b.isNan then f.canon else y, fl)
  else if b.isNan then (x, fl)
  else
    let c := ordF a b
    let aLess := decide (c < 0) || (decide (c = 0) && a.neg && !b.neg)
    (if aLess != mx then x else y, fl)

/-- A float condition of code 0 to 7 and its NV (R49, R131). -/
def cmpF (cond : Nat) (a b : FVal) : Bool × Flags :=
  let un := a.isNan || b.isNan
  let c := ordF a b
  match cond with
  | 0 => (!un && decide (c = 0), sigFlags [a, b])
  | 1 => (un || decide (c ≠ 0), sigFlags [a, b])
  | 2 => (!un && decide (c < 0), if un then flagNV else 0)
  | 3 => (!un && decide (c ≤ 0), if un then flagNV else 0)
  | 4 => (!un && decide (0 < c), if un then flagNV else 0)
  | 5 => (!un && decide (0 ≤ c), if un then flagNV else 0)
  | 6 => (!un, sigFlags [a, b])
  | _ => (un, sigFlags [a, b])

/-- `FCLASS` (R132). -/
def classF (f : Fmt) (x : Nat) : Nat :=
  match decodeF f x with
  | .nan s => if s then 2 ^ 8 else 2 ^ 9
  | .inf n => if n then 2 ^ 0 else 2 ^ 7
  | .fin n m _ =>
    let sub := decide (m < 2 ^ f.frac)
    if m = 0 then (if n then 2 ^ 3 else 2 ^ 4)
    else if n then (if sub then 2 ^ 2 else 2 ^ 1) else (if sub then 2 ^ 5 else 2 ^ 6)

/-! ## Functions with a bound (R133) -/

/-- |a × 2^p − b × 2^q| ≤ c × 2^r. -/
def closeTo (a : Nat) (p : Int) (b : Nat) (q : Int) (c : Nat) (r : Int) : Bool :=
  let z := min p (min q r)
  let x := a * 2 ^ (p - z).toNat
  let y := b * 2 ^ (q - z).toNat
  decide ((x - y) + (y - x) ≤ c * 2 ^ (r - z).toNat)

/-- A result within `bound` units in the last place of an exact magnitude m × 2^e, which some free choice takes
(R133): one choice for each function, type and input. `exact` says that m × 2^e is the exact result itself. -/
def pickF (fn : Nat) (ty : Ty) (input : Word) (bound : Nat) (neg : Bool) (m : Nat) (e : Int) (exact : Bool) :
    Nat × Flags :=
  let f := fmtOf ty
  let q := lastPlace f m e
  let (k0, _) := roundAt .rtz false m e q 0
  if tooLarge f k0 q then (infBits f neg, flagOF ||| flagNX)
  else
    let p0 := encodeF f false k0 q
    let cands := ((List.range (3 * bound + 1)).map (fun i => p0 + i - 2 * bound)).eraseDups.filter (fun p =>
      match decodeF f p with
      | .fin _ k d => closeTo k d m e bound q
      | _ => false)
    let p := cands.getD (Config.approx fn (Ty.code ty) input % cands.length) p0
    let hit := match decodeF f p with
      | .fin _ k d => exact && closeTo k d m e 0 q
      | _ => false
    let tiny := decide (p < 2 ^ f.frac)
    (signBit f neg + p, (if tiny then flagUF else 0) ||| (if hit then 0 else flagNX))

/-- Bits of fraction of the fixed-point numbers below. -/
def fixBits : Nat := 160
/-- ln 2 × 2^160, rounded down. -/
def fixLn2 : Nat := 0xb17217f7d1cf79abc9e3b39803f2f6af40f34326
/-- π/2 × 2^300, rounded down. -/
def fixHalfPi : Nat := 0x1921fb54442d18469898cc51701b839a252049c1114cf98e804177d4c76273644a29410f31c6

/-- Σ x^k / k! from term k on, x and the terms in units of 2^−160. -/
def expTerms (x : Nat) : Nat → Nat → Nat → Nat → Nat
  | 0, _, _, acc => acc
  | n + 1, k, t, acc => let t := t * x / 2 ^ fixBits / k
    expTerms x n (k + 1) t (acc + t)
/-- e^x × 2^160 for x in units of 2^−160, below 1. -/
def expFix (x : Nat) : Nat := expTerms x 50 1 (2 ^ fixBits) (2 ^ fixBits)

/-- Alternating Taylor terms of sine and cosine: x², the next factor, the term, the sum. -/
def trigTerms (xx : Nat) : Nat → Nat → Int → Int → Int
  | 0, _, _, acc => acc
  | n + 1, k, t, acc =>
    let t := -(t * xx / (2 ^ fixBits : Int) / ((k * (k + 1) : Nat) : Int))
    trigTerms xx n (k + 2) t (acc + t)
/-- sin x × 2^160 for x in units of 2^−160, 0 ≤ x ≤ π/2. -/
def sinFix (x : Nat) : Nat := (trigTerms (x * x / 2 ^ fixBits) 30 2 x x).toNat
/-- cos x × 2^160. -/
def cosFix (x : Nat) : Nat := (trigTerms (x * x / 2 ^ fixBits) 30 1 (2 ^ fixBits : Int) (2 ^ fixBits : Int)).toNat

/-- Fraction bits of log2 z for z in [1, 2), in units of 2^−160: one bit for each squaring. -/
def logBits : Nat → Nat → Nat → Nat
  | 0, _, acc => acc
  | n + 1, z, acc =>
    let z := z * z / 2 ^ fixBits
    if 2 ^ (fixBits + 1) ≤ z then logBits n (z / 2) (2 * acc + 1) else logBits n z (2 * acc)

/-- A power of two, as its exponent: m × 2^e with m a power of two. -/
def powerOfTwo (m : Nat) (e : Int) : Option Int :=
  if m ≠ 0 ∧ m = 2 ^ Nat.log2 m then some (e + Nat.log2 m) else none

/-- An exact result. -/
def exactF (f : Fmt) (neg : Bool) (m : Nat) (e : Int) : Nat × Flags := roundF f .rne false 0 (.fin neg m e)

/-- `FRCP` (R133). -/
def frcpF (ty : Ty) (x : Nat) : Nat × Flags :=
  let f := fmtOf ty
  match decodeF f x with
  | .nan s => (f.canon, if s then flagNV else 0)
  | .inf n => (signBit f n, 0)
  | .fin n m e =>
    if m = 0 then (infBits f n, flagDZ)
    else match powerOfTwo m e with
      | some p =>
        if p % 2 = 0 ∧ 1 - (f.bias : Int) ≤ -p ∧ -p ≤ f.bias then exactF f n 1 (-p)
        else pickF 0 ty (BitVec.ofNat 64 x) 1 n 1 (-p) true
      | none =>
        let up := 140 + bitLen m
        pickF 0 ty (BitVec.ofNat 64 x) 1 n (2 * (2 ^ up / m) + 1) (-e - up - 1) false

/-- `FRSQ` (R133). -/
def frsqF (ty : Ty) (x : Nat) : Nat × Flags :=
  let f := fmtOf ty
  match decodeF f x with
  | .nan s => (f.canon, if s then flagNV else 0)
  | .inf n => if n then (f.canon, flagNV) else (0, 0)
  | .fin n m e =>
    if m = 0 then (infBits f n, flagDZ)
    else if n then (f.canon, flagNV)
    else match powerOfTwo m e with
      | some p =>
        if p % 2 = 0 then exactF f false 1 (-(p / 2))
        else pickF 1 ty (BitVec.ofNat 64 x) 1 false (2 * isqrt (2 ^ 401) + 1) (-((p + 1) / 2) - 201 + 0) false
      | none =>
        let m' := if e % 2 = 0 then m else 2 * m
        let e' := if e % 2 = 0 then e else e - 1
        pickF 1 ty (BitVec.ofNat 64 x) 1 false (2 * isqrt (2 ^ 600 / m') + 1) (-(e' / 2) - 301) false

/-- `FEX2` (R133). -/
def fex2F (ty : Ty) (x : Nat) : Nat × Flags :=
  let f := fmtOf ty
  match decodeF f x with
  | .nan s => (f.canon, if s then flagNV else 0)
  | .inf n => (if n then 0 else infBits f false, 0)
  | .fin n m e =>
    if m = 0 then exactF f false 1 0
    else if decide (14 ≤ (bitLen m : Int) + e) then
      (if n then pickF 2 ty (BitVec.ofNat 64 x) 2 false 1 (-20000) false else (infBits f false, flagOF ||| flagNX))
    else if 0 ≤ e ∨ m % 2 ^ (-e).toNat = 0 then
      let k : Int := (if n then -1 else 1) * ((if 0 ≤ e then m * 2 ^ e.toNat else m / 2 ^ (-e).toNat : Nat) : Int)
      if 1 - (f.bias : Int) - f.frac ≤ k ∧ k ≤ f.bias then
        let (p, _) := exactF f false 1 k
        (p, if p < 2 ^ f.frac then flagUF else 0)
      else pickF 2 ty (BitVec.ofNat 64 x) 2 false 1 k true
    else
      let fx := if 0 ≤ e + fixBits then m * 2 ^ (e + fixBits).toNat else m / 2 ^ (-(e + fixBits)).toNat
      let whole : Int := if n then -((fx / 2 ^ fixBits : Nat) : Int) - 1 else ((fx / 2 ^ fixBits : Nat) : Int)
      let part := if n then 2 ^ fixBits - 1 - fx % 2 ^ fixBits else fx % 2 ^ fixBits
      let y := expFix (part * fixLn2 / 2 ^ fixBits)
      pickF 2 ty (BitVec.ofNat 64 x) 2 false (2 * y + 1) (whole - fixBits - 1) false

/-- `FLG2` (R133). -/
def flg2F (ty : Ty) (x : Nat) : Nat × Flags :=
  let f := fmtOf ty
  match decodeF f x with
  | .nan s => (f.canon, if s then flagNV else 0)
  | .inf n => if n then (f.canon, flagNV) else (infBits f false, 0)
  | .fin n m e =>
    if m = 0 then (infBits f true, flagDZ)
    else if n then (f.canon, flagNV)
    else match powerOfTwo m e with
      | some p => exactF f (decide (p < 0)) p.natAbs 0
      | none =>
        let l := Nat.log2 m
        let top : Int := e + l
        let fr := logBits 120 (m * 2 ^ fixBits / 2 ^ l) 0
        let v : Int := top * (2 ^ 120 : Int) + fr
        pickF 3 ty (BitVec.ofNat 64 x) 2 (decide (v < 0)) (if v < 0 then 2 * v.natAbs - 1 else 2 * v.natAbs + 1) (-121)
          false

/-- |x| ≤ π (R133). -/
def withinPi (m : Nat) (e : Int) : Bool := closeTo m e 0 e (2 * fixHalfPi) (-300)

/-- `FSIN` and `FCOS` (R133): the quadrant and the rest of |x| modulo π/2. -/
def trigF (cos : Bool) (ty : Ty) (x : Nat) : Nat × Flags :=
  let f := fmtOf ty
  let fn := if cos then 5 else 4
  match decodeF f x with
  | .nan s => (f.canon, if s then flagNV else 0)
  | .inf _ => (f.canon, flagNV)
  | .fin n m e =>
    if m = 0 then (if cos then exactF f false 1 0 else (signBit f n, 0))
    else
      let bound := if withinPi m e then 2 else 4
      if (bitLen m : Int) + e < -40 then
        (if cos then pickF fn ty (BitVec.ofNat 64 x) bound false (2 ^ 80 - 1) (-80) false
         else pickF fn ty (BitVec.ofNat 64 x) bound n (m * 2 ^ 80 - 1) (e - 80) false)
      else
        let v := if 0 ≤ e + 300 then m * 2 ^ (e + 300).toNat else m / 2 ^ (-(e + 300)).toNat
        let quad := v / fixHalfPi % 4
        let rest := v % fixHalfPi / 2 ^ 140
        let quad := if cos then (quad + 1) % 4 else quad
        let y := if quad % 2 = 0 then sinFix rest else cosFix rest
        pickF fn ty (BitVec.ofNat 64 x) bound ((decide (2 ≤ quad)) != (n && !cos)) (2 * y + 1) (-(fixBits : Int) - 1)
          false

/-! ## Stochastic draws (R152, R153) -/

/-- One advance of the generator (R152). -/
def srAdvance (x : BitVec 32) : BitVec 32 :=
  let x := x ^^^ (x <<< 13)
  let x := x ^^^ (x >>> 17)
  x ^^^ (x <<< 5)
/-- The sixteen bits that thread t draws for sub-element e (R153). -/
def srDraw (st : BitVec 32) (t e : Nat) : Nat := (st.rotateLeft ((t + 8 * e) % 32)).toNat / 2 ^ 16

end Sys2Proof.Machine
end

