-- ==== Sys2Proof/Machine/Flags.lean ====
section
/-! DEFINITION. Flags and conditions: the sticky flags of a group (R127, R154), integer conditions (R49), and the
sub-elements of a packed register (R118). -/
namespace Sys2Proof.Machine

/-- Flags raised for a group stay set (R127). -/
def Group.raise (g : Group) (f : Flags) : Group := { g with flags := g.flags ||| f }

/-- An integer condition on 64-bit stem values (R88). -/
def intCondHolds (c : IntCond) (x y : Word) : Bool :=
  match c with
  | .eq => x == y
  | .ne => x != y
  | .lt => x.slt y
  | .le => x.sle y
  | .gt => y.slt x
  | .ge => y.sle x
  | .ltu => x.ult y
  | .leu => x.ule y
  | .gtu => y.ult x
  | .geu => y.ule x

/-- The integer condition of a leaf condition code on w-bit values (R124). -/
def intCondAt (w cond x y : Nat) : Bool :=
  let a : Int := (BitVec.ofNat w x).toInt
  let b : Int := (BitVec.ofNat w y).toInt
  match cond with
  | 0 => x == y
  | 1 => x != y
  | 2 => decide (a < b)
  | 3 => decide (a ≤ b)
  | 4 => decide (b < a)
  | 5 => decide (b ≤ a)
  | 6 => decide (x < y)
  | 7 => decide (x ≤ y)
  | 8 => decide (y < x)
  | _ => decide (y ≤ x)

/-- Sub-element i of width w (R118). -/
def elemAt (w : Nat) (x : Word) (i : Nat) : Nat := x.toNat / 2 ^ (w * i) % 2 ^ w
/-- Sub-elements of width w packed into a register, the first lowest. -/
def packElems (w : Nat) : List Nat → Nat
  | [] => 0
  | e :: r => e % 2 ^ w + 2 ^ w * packElems w r
/-- Packed sub-elements as a register. -/
def packWord (w : Nat) (es : List Nat) : Word := BitVec.ofNat 64 (packElems w es)
/-- The sub-elements of a register. -/
def elems (w : Nat) (x : Word) : List Nat := (List.range (64 / w)).map (elemAt w x)
/-- A value copied into every sub-element. -/
def splat (w x : Nat) : Word := packWord w ((List.range (64 / w)).map (fun _ => x))

/-- A w-bit value read as signed or unsigned (R118). -/
def valueOf (w : Nat) (sgn : Bool) (x : Nat) : Int := if sgn then (BitVec.ofNat w x).toInt else (x : Int)
/-- An exact integer cut to w bits. -/
def cut (w : Nat) (x : Int) : Nat := (x % (2 ^ w : Int)).toNat
/-- The range of a w-bit integer (R121). -/
def rangeOf (w : Nat) (sgn : Bool) : Int × Int :=
  if sgn then (-(2 ^ (w - 1) : Int), (2 ^ (w - 1) : Int) - 1) else (0, (2 ^ w : Int) - 1)
/-- A value held within the range of a w-bit integer (R121). -/
def clampTo (w : Nat) (sgn : Bool) (x : Int) : Int :=
  let (lo, hi) := rangeOf w sgn
  if x < lo then lo else if hi < x then hi else x

end Sys2Proof.Machine
end

