-- ==== Sys2Proof/Machine/Operands.lean ====
section
/-! DEFINITION. The operands of leaf instructions: small constants, immediates, uniforms, indexed registers (R45-R50,
R102, R109), and the steps by which an instruction issues: operands resolved, sources full, destinations free
(R112, R166, R365). -/
namespace Sys2Proof.Machine

/-- Small constants 24 to 31 as exact values; the irrational ones to many more bits than any format keeps (R47). -/
def smallFloat (n : Nat) : FVal :=
  match n with
  | 24 => .fin false 1 (-1)
  | 25 => .fin false 1 (-2)
  | 26 => .fin false 1 (-3)
  | 27 => .fin true 1 (-1)
  | 28 => .fin false 0x171547652b82fe1777d0ffda0d23a7d11d6aef551 (-160)
  | 29 => .fin false 0xb17217f7d1cf79abc9e3b39803f2f6af40f34326 (-160)
  | 30 => .fin false 0x3243f6a8885a308d313198a2e03707344a4093822 (-160)
  | _ => .inf false

/-- Small constants 0 to 23 (R47). -/
def smallInt (n : Nat) : Int :=
  if n < 16 then n
  else match n with
    | 16 => -1 | 17 => -2 | 18 => -4 | 19 => -8 | 20 => 16 | 21 => 32 | 22 => 64 | _ => 128

/-- A small constant in every sub-element of a type (R47). -/
def constWord (t : Ty) (n : Nat) : Word :=
  let w := Ty.width t
  if Ty.isInt t then splat w (cut w (smallInt n))
  else
    let v : FVal := if n < 24 then .fin (decide (smallInt n < 0)) (smallInt n).natAbs 0 else smallFloat n
    splat w (roundF (fmtOf t) .rne false 0 v).1

/-- An immediate of 18 bits in every sub-element, or as a 64-bit integer (R50). -/
def immWord (t : Option Ty) (i : BitVec 18) : Word :=
  match t with
  | some t => splat (Ty.width t) (cut (Ty.width t) i.toInt)
  | none => i.signExtend 64

/-- What a leaf instruction executes with: its group, slot, offset, the offset after it, and its taking threads. -/
structure LCtx where
  gid : Nat
  slot : Nat
  off : Nat
  next : Nat
  takers : Mask
  mask : Mask
  deriving DecidableEq, Repr

/-- The register that an operand names for thread t, or the number it resolved to outside the allotment or the limit
(R102, R109). Other kinds name no register. -/
def resolveReg (g : Group) (r : Run) (t : Nat) (x : Opnd) : Except Nat (Option Nat) :=
  match x with
  | .lane n => if 8 * g.chunks ≤ n.toNat then .error n.toNat else .ok (some n.toNat)
  | .indexed j k =>
    let v := (g.xv j.toNat t).toNat + k.toNat
    let n := (r.xreg j.toNat).base + v
    if (r.xreg j.toNat).limit ≤ v ∨ 8 * g.chunks ≤ n then .error n else .ok (some n)
  | _ => .ok none

/-- Register number of an operand that resolves. -/
def regOf (g : Group) (r : Run) (t : Nat) (x : Opnd) : Nat :=
  match resolveReg g r t x with
  | .ok (some n) => n
  | _ => 0

/-- The value of a source operand for thread t; a small constant takes type `ct` (R45, R47). -/
def opndVal (g : Group) (r : Run) (ct : Option Ty) (t : Nat) (x : Opnd) : Word :=
  match x with
  | .areg n => SMap.get 0 r.a n.toNat
  | .const n => constWord (ct.getD .b64) n.toNat
  | .pred p => if (g.preg p.toNat).getLsbD t then 1 else 0
  | .none => 0
  | x => (g.lreg (regOf g r t x) t).val

/-- The first operand of thread t that does not resolve, as an `INDEX_RANGE` fault (R112 step 1). -/
def rangeFault (g : Group) (r : Run) (t : Nat) (xs : List Opnd) : Option TFault :=
  xs.findSome? (fun x => match resolveReg g r t x with
    | .error n => some { thread := t, code := .indexRange, info := BitVec.ofNat 64 n }
    | .ok _ => none)

/-- The fault of reading a marked register (R166, R365). -/
def markFault (t reg : Nat) : Mark → TFault
  | .brk => { thread := t, code := .chainBreak }
  | .graft c a => { thread := t, code := (Code.ofByte c.toNat).getD .graftRefused, addr := some a,
                    info := BitVec.ofNat 64 reg }

/-- Thread t's register n is empty. -/
def Group.isEmpty (g : Group) (n t : Nat) : Bool := (g.lreg n t).fe != .full

/-- A source, with its empty mode: true for trap (R112). -/
abbrev Src := Opnd × Bool

/-- Some source of thread t in blocking mode is empty (R112 step 2). -/
def srcWaits (g : Group) (r : Run) (t : Nat) (ss : List Src) : Bool :=
  ss.any (fun s => !s.2 && Opnd.hasEm s.1 && g.isEmpty (regOf g r t s.1) t)

/-- The fault that reading thread t's sources raises, in operand order: an empty register in trap mode, or a mark
(R112 step 3, R166, R365). -/
def srcFault (g : Group) (r : Run) (t : Nat) (ss : List Src) : Option TFault :=
  ss.findSome? (fun s =>
    if !Opnd.hasEm s.1 then none
    else
      let n := regOf g r t s.1
      if g.isEmpty n t then some { thread := t, code := .feEmpty }
      else (g.lreg n t).mark.map (markFault t n))

/-- Some destination of thread t is empty with a fill pending (R112 step 4). -/
def dstWaits (g : Group) (r : Run) (t : Nat) (ds : List Opnd) : Bool :=
  ds.any (fun d => Opnd.hasEm d && (g.lreg (regOf g r t d) t).fe == .pending)

/-- How an instruction stands before it executes (R112, R186): it waits for a source or a destination and does not issue,
or it executes for some threads, with the faults of the others. -/
inductive Prep where
  | wait
  | go (threads : List Nat) (faults : List TFault)
  deriving DecidableEq, Repr

/-- R112 steps 1 to 3 for the taking threads: none while a source is to be waited for, else the threads that go on and
the faults of the others. -/
def readable (g : Group) (r : Run) (takers : Mask) (ss : List Src) (ds : List Opnd) : Option (List Nat × List TFault) :=
  let ts := threadsOf takers
  let xs := ss.map (·.1) ++ ds
  let f1 := ts.filterMap (fun t => rangeFault g r t xs)
  let t1 := ts.filter (fun t => (rangeFault g r t xs).isNone)
  if t1.any (fun t => srcWaits g r t ss) then none
  else
    let f2 := t1.filterMap (fun t => srcFault g r t ss)
    some (t1.filter (fun t => (srcFault g r t ss).isNone),
      ts.filterMap (fun t => (f1 ++ f2).find? (fun f => f.thread == t)))

/-- R112 steps 1 to 4 for the taking threads. -/
def prepare (g : Group) (r : Run) (takers : Mask) (ss : List Src) (ds : List Opnd) : Prep :=
  match readable g r takers ss ds with
  | none => .wait
  | some (ts, fs) => if ts.any (fun t => dstWaits g r t ds) then .wait else .go ts fs

/-- The sources of a leaf instruction that its entry uses, with their empty modes (R45, R53). -/
def leafSrcs (w : Leaf) : List Src :=
  [(w.s1, w.em.getLsbD 0), (w.s2, w.em.getLsbD 1), (w.s3, w.em.getLsbD 2), (w.s4, w.em.getLsbD 3)].filter
    (fun s => s.1 != .none)

/-- Taking threads of a path under two guards (R44). -/
def guardMask (g : Group) (c : Ctl) : Mask :=
  let h (n : Bool) (p : BitVec 3) : Mask := if n then ~~~(g.preg p.toNat) else g.preg p.toNat
  h c.g1n c.g1 &&& h c.g2n c.g2

end Sys2Proof.Machine
end

