-- ==== Sys2Proof/Machine/Wire.lean ====
section
/-! DEFINITION. The 128 bytes of a bud, a return or a refusal notice (spec/18_graft.md R356). -/
namespace Sys2Proof.Machine

/-- The subset registers that a bud carries (R356). -/
def budRegs (b : Bud) : List Nat := (List.range 16).filter (fun n => b.mask.getLsbD n)

/-- The number of a kind in a message (R356). -/
def budKindCode : BudKind → Nat
  | .bud => 0
  | .ret => 1
  | .refusal => 2
/-- The kind of a number (R356): 3 is reserved. -/
def budKindOf : Nat → Option BudKind
  | 0 => some .bud
  | 1 => some .ret
  | 2 => some .refusal
  | _ => none

/-- Fields of a word, from the highest: each a value and its width. -/
def packBits (fs : List (Nat × Nat)) : Nat := fs.foldl (fun x f => x * 2 ^ f.2 + f.1 % 2 ^ f.2) 0

/-- The 16 words of a message (R356). -/
def budWords (b : Bud) : List Word :=
  let four (l : List Word) (n : Nat) : List Word := (List.range n).map (fun i => l.getD i 0)
  [BitVec.ofNat 64 (packBits [(b.spkg, 5), (b.sdie, 2), (b.sgrove, 5), (b.score, 2), (b.slane, 5), (b.sgpos, 4),
      (b.sthread, 5), (b.hops, 2), (budKindCode b.kind, 2), (0, 3), (b.fcode.toNat, 8), (b.region, 21)]),
   BitVec.ofNat 64 (packBits [(b.mask.toNat, 16), (b.strmid, 16), (if b.strmv then 1 else 0, 1), (0, 3), (b.dpart, 4),
      (b.pts.toNat, 24)]),
   b.leafbase, b.args] ++ four b.snap 4 ++ four (b.subset.take (budRegs b).length) 8

/-- A message read from its words, with what stands beside them (log entry 10); none for the reserved kind (R356). -/
def budOfWords (ws : List Word) (ref obj : Nat) (tenant : BitVec 32) : Option Bud :=
  let w (i : Nat) : Nat := (ws.getD i 0).toNat
  (budKindOf (bits (w 0) 32 2)).map (fun kind =>
    let b : Bud := {
      spkg := bits (w 0) 59 5, sdie := bits (w 0) 57 2, sgrove := bits (w 0) 52 5, score := bits (w 0) 50 2,
      slane := bits (w 0) 45 5, sgpos := bits (w 0) 41 4, sthread := bits (w 0) 36 5, hops := bits (w 0) 34 2, kind,
      fcode := BitVec.ofNat 8 (bits (w 0) 21 8), region := bits (w 0) 0 21, mask := BitVec.ofNat 16 (bits (w 1) 48 16),
      strmid := bits (w 1) 32 16, strmv := bit (w 1) 31, dpart := bits (w 1) 24 4, pts := BitVec.ofNat 24 (bits (w 1) 0 24),
      leafbase := ws.getD 2 0, args := ws.getD 3 0, snap := (ws.drop 4).take 4, subset := [], ref, obj, tenant }
    { b with subset := ((ws.drop 8).take 8).take (budRegs b).length })

/-- A message as it arrives: every field has its width, what is reserved or unused is zero (R356). -/
def budWire (b : Bud) : Bud := (budOfWords (budWords b) b.ref b.obj b.tenant).getD b

end Sys2Proof.Machine
end

