-- ==== Sys2Proof/Machine/Leaf.lean ====
section
/-! DEFINITION. How a leaf instruction issues and completes: the path goes on, faults are taken, arrivals and the end
of a run follow, the lane's slot is used (R112, R117, R137, R140, R187); and the shared form of the instructions that
compute one result for each taking thread. -/
namespace Sys2Proof.Machine

/-- What a leaf instruction does: it does not issue, for it would wait (R112 steps 2 and 4, R186) or the rules of memory
order hold it back (R217, R337, R343), it executes (in one or two slots) and its path goes on, it executes and has moved its path itself, or some threads find a
page absent and the group parks (R290). The state given holds the effects so far. -/
inductive LRes where
  | wait
  | hold
  | done (s : State) (slots : Nat) (fs : List TFault)
  | moved (s : State) (fs : List TFault)
  | park (s : State) (ms : List MissInfo) (mask : Mask) (fs : List TFault)

/-- A host thread may return: its own buds are back, its stream operations acknowledged, its subset registers not
waiting for a fill (R361). -/
def State.returnReady (s : State) (gid : Nat) (g : Group) (b : Bud) (t : Nat) : Bool :=
  !s.budsOut.any (fun o => o.gid == gid && o.bud.sthread == t)
    && !s.cores.any (fun e => e.2.budq.any (fun q => q.out.gid == gid && q.out.bud.sthread == t))
    && !s.streams.any (fun e => e.2.ops.any (fun o => o.gid == gid && o.thr.getLsbD t))
    && !(budRegs b).any (fun n => (g.lreg n t).fe == .pending)

/-- The return of a host thread (R361, R367): its subset registers; the code of the lowest marked one, else its own. -/
def Group.returnOf (g : Group) (b : Bud) (e : Ending) (pts : Time) : Bud :=
  let m := (budRegs b).findSome? (fun n => (g.lreg n e.thread).mark)
  let (code, off) : BitVec 8 × Nat := match m with
    | some .brk => (BitVec.ofNat 8 Code.chainBreak.byte, e.off)
    | some (.graft c a) => (c, a.toNat)
    | none => (e.code, if e.code = 0 then 0 else e.off)
  budWire { b with kind := .ret, fcode := code, region := off, pts, snap := [],
                   subset := (budRegs b).map (fun n => (g.lreg n e.thread).val) }

/-- Host threads that may return do so (R361): a return to this package is on its way; another package's leaves. -/
def State.sendReturns (s : State) (gid : Nat) : State :=
  match SMap.find? s.groups gid with
  | none => s
  | some g =>
    match g.host with
    | none => s
    | some h =>
      let bud (e : Ending) : Option Bud := h.buds[e.thread]?
      let ready (e : Ending) : Bool := (bud e).all (fun b => s.returnReady gid g b e.thread)
      let rs := (h.ending.filter ready).filterMap (fun e => (bud e).map (fun b => g.returnOf b e (s.pts g.coreN)))
      let s := s.modGroup gid (fun g => { g with host := some { h with ending := h.ending.filter (fun e => !ready e) } })
      { s with returns := s.returns ++ rs.filter (fun b => b.spkg == s.pkg) }

/-- A host group whose last thread has ended and returned is over (R364); its non-temporal stores are performed. -/
def State.reapHost (s : State) (gid : Nat) : State :=
  let s := s.sendReturns gid
  match SMap.find? s.groups gid with
  | none => s
  | some g =>
    match g.host with
    | some h => if g.run.isNone && h.ending.isEmpty then (s.performStnts g).dropGroup gid true else s
    | none => s

/-- Arrivals, the end of the run, the returns of a host group and its end (R140, R94, R361, R364). -/
def State.settleGroup (s : State) (gid : Nat) : State :=
  (s.modGroup gid (fun g => g.settle.finishRun)).reapHost gid

/-- A lane is occupied for `n` more slots of 32 cycles, after what occupies it already (R117, R170, R248). -/
def State.useLane (s : State) (core lane n : Nat) : State :=
  if n = 0 then s
  else s.modCore core (fun c => { c with
    slotAt := SMap.put c.slotAt lane (Nat.max ((SMap.find? c.slotAt lane).getD 0) s.cycle + 32 * n) })
/-- A group's lane is occupied for some more slots (R117, R170, R248). -/
def State.useSlots (s : State) (g : Group) (n : Nat) : State := s.useLane g.coreN g.lane n

/-- The group has issued from a slot: its stall, yield and turn (R51, R137, R187); nothing is left to redo. -/
def Group.noteIssue (g : Group) (ctl : Ctl) (slot cycle slots : Nat) : Group :=
  { g with
    issued := true
    lastIssue := cycle
    stall := ctl.stall.toNat
    yielded := ctl.yld
    lastSlot := slot
    redo := none
    retry := []
    stuck := []
    behind := []
    busyDue := g.busyDue + 32 * slots }

/-- The path of a slot goes on at an offset. -/
def Group.advance (g : Group) (slot off : Nat) : Group :=
  match g.slot slot with
  | some p => g.setSlot slot (some { p with off })
  | none => g

/-- A leaf instruction's outcome applied. The slot in which it issues is occupied since the lane's arbitration (R117). -/
def State.leafApply (s0 : State) (c : LCtx) (ctl : Ctl) (r : LRes) : State :=
  match r with
  | .wait => s0.modGroup c.gid (fun g => { g with stuck := c.slot :: g.stuck })
  | .hold => s0.modGroup c.gid (fun g => { g with behind := c.slot :: g.behind })
  | .done s n fs =>
    let s := match SMap.find? s.groups c.gid with
      | some g => s.useSlots g (n - 1)
      | none => s
    let s := s.modGroup c.gid (fun g => (g.noteIssue ctl c.slot s.cycle n).advance c.slot c.next)
    (s.takeLeafFaults c.gid c.slot c.off fs).settleGroup c.gid
  | .moved s fs =>
    let s := s.modGroup c.gid (fun g => g.noteIssue ctl c.slot s.cycle 1)
    (s.takeLeafFaults c.gid c.slot c.off fs).settleGroup c.gid
  | .park s ms mask fs =>
    let s := (s.parkGroup c.gid (some c.slot) mask ms).modGroup c.gid (fun g => g.noteIssue ctl c.slot s.cycle 1)
    s.takeLeafFaults c.gid c.slot c.off fs

/-- The leaf instruction of the current slot executes. -/
def runLeaf (s : State) (ctl : Ctl) (body : LCtx → Group → Run → State → LRes) : Host.Outcome State Fault Refusal :=
  match s.cur with
  | some (.leaf gid slot next) =>
    let s := { s with cur := none }
    match SMap.find? s.groups gid with
    | none => .fault .noParty
    | some g =>
      match g.run, g.slot slot with
      | some r, some p =>
        let m := p.mask &&& guardMask g ctl
        let takers := match g.redo with
          | some (k, x) => if k = slot then m &&& x else m
          | none => m
        let c : LCtx := { gid, slot, off := p.off, next, takers, mask := p.mask }
        .next (s.leafApply c ctl (body c g r s))
      | _, _ => .fault .noParty
  | _ => .fault .noParty

/-- The type of a source role (R47). -/
def roleTy (o : LOp) (w : Leaf) : Role → Option Ty
  | .src t => t.ty o w
  | .srcOpt t => t.ty o w
  | _ => some w.ty

/-- Type of an immediate: the instruction's, or none for an operand read as a 64-bit integer (R50). -/
def immTy (o : LOp) (w : Leaf) : Option Ty :=
  match o.spec.s2 with
  | .src .int64 => none
  | .srcOpt .int64 => none
  | _ => some w.ty

/-- Source 1 of thread t (R118: A). -/
def argA (o : LOp) (w : Leaf) (g : Group) (r : Run) (t : Nat) : Word := opndVal g r (roleTy o w o.spec.s1) t w.s1
/-- Source 2 of thread t, or the immediate (R118: B). -/
def argB (o : LOp) (w : Leaf) (g : Group) (r : Run) (t : Nat) : Word :=
  match w.imm with
  | some i => immWord (immTy o w) i
  | none => opndVal g r (roleTy o w o.spec.s2) t w.s2
/-- Source 3 of thread t (R118: C). -/
def argC (o : LOp) (w : Leaf) (g : Group) (r : Run) (t : Nat) : Word := opndVal g r (roleTy o w o.spec.s3) t w.s3
/-- Source 4 of thread t (R118: E). -/
def argE (o : LOp) (w : Leaf) (g : Group) (r : Run) (t : Nat) : Word := opndVal g r (roleTy o w o.spec.s4) t w.s4

/-- The generator's state for an instruction under `.sr`: advanced once when it issues with a taking thread (R152). -/
def srState (g : Group) (c : LCtx) (rm : RMode) : BitVec 32 :=
  if rm = .sr && c.takers != 0 then srAdvance g.srseed else g.srseed

/-- A value written to a lane destination of thread t. -/
def Group.writeDest (g g0 : Group) (r : Run) (d : Opnd) (t : Nat) (w : Word) : Group :=
  match d with
  | .lane _ => g.writeLane (regOf g0 r t d) t w
  | .indexed _ _ => g.writeLane (regOf g0 r t d) t w
  | .pred p => g.setP p.toNat t (w != 0)
  | _ => g

/-- THE FORM OF AN ARITHMETIC LEAF INSTRUCTION: one result for each taking thread from its own sources, with the flags
that it raises; `f` takes the thread, A, B, C, E and the thread's draws by sub-element (R118, R127, R153). -/
def laneOp (s : State) (o : LOp) (w : Leaf) (f : Nat → Word → Word → Word → Word → (Nat → Nat) → Word × Flags) :
    Host.Outcome State Fault Refusal :=
  runLeaf s w.ctl (fun c g r s =>
    match prepare g r c.takers (leafSrcs w) [w.d] with
    | .wait => .wait
    | .go ts fs =>
      let st := srState g c w.rm
      let g1 := ts.foldl (fun (g1 : Group) t =>
        let (x, fl) := f t (argA o w g r t) (argB o w g r t) (argC o w g r t) (argE o w g r t) (srDraw st t)
        (g1.writeDest g r w.d t x).raise fl) { g with srseed := st }
      .done (s.putGroup c.gid g1) 1 fs)

/-- An arithmetic leaf instruction that acts on sub-elements of its type, with no flags. -/
def elemOp (s : State) (o : LOp) (w : Leaf) (f : Nat → Nat → Nat → Nat → Nat) : Host.Outcome State Fault Refusal :=
  let n := Ty.width w.ty
  laneOp s o w (fun _ a b c e _ =>
    (packWord n ((List.range (64 / n)).map (fun i => f (elemAt n a i) (elemAt n b i) (elemAt n c i) (elemAt n e i))), 0))

/-- A floating leaf instruction on sub-elements of its type (R129). The function takes the sub-element's number. -/
def floatOp (s : State) (o : LOp) (w : Leaf) (f : Nat → Nat → Nat → (draw : Nat) → Nat × Flags) :
    Host.Outcome State Fault Refusal :=
  let n := Ty.width w.ty
  laneOp s o w (fun _ a b c _ dr =>
    let rs := (List.range (64 / n)).map (fun i => f (elemAt n a i) (elemAt n b i) (elemAt n c i) (dr i))
    (packWord n (rs.map (·.1)), rs.foldl (fun fl r => fl ||| r.2) 0))

/-- A checked operand: the bits that the entry uses are the same for every thread (R172). -/
def uniform (ts : List Nat) (f : Nat → Nat) : Bool :=
  match ts with
  | [] => true
  | t :: r => r.all (fun u => f u == f t)
/-- Every given thread faults with a code. -/
def allFault (ts : List Nat) (c : Code) : List TFault := ts.map (fun t => { thread := t, code := c })

/-- The destination of a comparison (R124, R131): the AND or OR of the sub-elements for a predicate, a mask for a lane
register. -/
def compareResult (w : Leaf) (bs : List Bool) : Word :=
  match w.d with
  | .pred _ => if (if w.opx.getLsbD 0 then bs.any id else bs.all id) then 1 else 0
  | _ => packWord (Ty.width w.ty) (bs.map (fun b => if b then 2 ^ Ty.width w.ty - 1 else 0))

end Sys2Proof.Machine
end

