-- ==== Sys2Proof/Machine/Fetch.lean ====
section
/-! DEFINITION. Which instruction a party executes next: stem fetch (R42, R77), the fill of leaf instructions and what
a leaf slot issues (R60-R63), and the installation of one stem word where the next step fetches it. -/
namespace Sys2Proof.Machine

/-! ## Stem fetch -/

/-- What a stem fetch finds; it waits where the word's route carries no traffic (R328). -/
inductive Fetched where
  | word (w : BitVec 32)
  | fault (c : Code)
  | miss (m : MissInfo)
  | cut
  deriving DecidableEq, Repr

/-- The causes of R42 that the descriptor decides, in order; a misaligned address faults at the target (R91), and ranks
after the bounds (DESIGN CHOICE, log entry 76). -/
def stemFetchFault (d : Desc) (k : KeyClass) (off : Nat) : Option Code :=
  if !d.r then some .rights
  else match k with
    | .open_ => some .rights
    | .sealed_ => some .sealDenied
    | .mismatch => some .sealKey
    | .none => if d.size < off + 4 then some .bounds else if off % 4 ≠ 0 then some .misalign else none

/-- The fetch of a group's stem word (R42). -/
def State.fetchStem (s : State) (g : Group) : Fetched × State :=
  match SMap.find? s.parts g.part with
  | none => (.fault .objInvalid, s)
  | some p =>
    let obj := ptrObj g.pc
    match s.coreDesc g.coreN g.part obj with
    | (.error e, s) => (.fault e, s)
    | (.ok d, s) =>
      match stemFetchFault d (keyClass p d) (ptrOff g.pc) with
      | some c => (.fault c, s)
      | none =>
        match s.findPage (coreDie g.coreN) g p obj d (ptrOff g.pc) false with
        | (.fault c, s) => (.fault c, s)
        | (.miss m mal, s) => (.miss { miss := m, mal, kind := .stemFetch, first := ptrOff g.pc }, s)
        | (.place pl _, s) =>
          if s.placeLost pl then (.fault .moduleLost, s)
          else if s.placeDown pl then (.cut, s)
          else if s.placeBad pl 4 then (.fault .uePoison, s)
          else (.word (BitVec.ofNat 32 (wordOf (s.placeBytes p pl 4))), s)

/-- What a stem word means: its instruction, or a reserved word (R41). -/
def stemInstr (w : BitVec 32) : Instr :=
  match decodeStem w with
  | .ok i => i
  | .error _ => .reservedWord w

/-- A word each of whose bytes is the older or the newer one's, by a free value (R64). -/
def mixWord (x : Word) (old now : BitVec 32) : BitVec 32 :=
  BitVec.ofNat 32 (wordOf ((List.range 4).map (fun i =>
    BitVec.ofNat 8 ((if x.getLsbD i then old else now).toNat / 2 ^ (8 * i)))))

/-- A stem word as a core of the task gets it (R64): memory's at the first fetch since the take; afterwards each byte is
the one first fetched or memory's. -/
def State.keepStem (s : State) (tid : Nat) (pc : Word) (now : BitVec 32) : BitVec 32 × State :=
  match SMap.find? s.tasks tid with
  | none => (now, s)
  | some t =>
    match SMap.find? t.stemCode pc.toNat with
    | none => (now, s.modTask tid (fun t => { t with stemCode := SMap.put t.stemCode pc.toNat now }))
    | some old =>
      if old = now then (now, s)
      else
        let (x, s) := s.freeWord
        (mixWord x old now, s)

/-- The instruction that a group's stem executes next: its word's, or the fetch that fails or misses (R42); with what the
caches keep of the word (R64). -/
def State.stemWord (s : State) (gid : Nat) : Instr × State :=
  match SMap.find? s.groups gid with
  | none => (.stemFetch, s)
  | some g =>
    match (s.fetchStem g).1 with
    | .word w =>
      let k := s.keepStem g.tid g.pc w
      (stemInstr k.1, k.2)
    | _ => (.stemFetch, s)

/-- A stem may issue: the group is resident and neither halted, parked nor evicted, no replay at a leaf slot is due, and its
cluster has been admitted whole and is not being stopped (R28, R77, R84, R290, R291, R413). -/
def State.stemReady (s : State) (g : Group) : Bool :=
  !s.issueHeld && g.redo.all (fun x => x.1 == 2) && g.host.isNone && g.core.isSome && !g.halted && g.park.isNone && !g.evicted && !g.evicting
    && (match SMap.find? s.clusters g.cid with
        | some c => (c.st == .resident || (c.st == .stopping && g.wait == .keyDrop)) && c.refills.isEmpty
        | none => false)

/-- The stem registers from `b` on. -/
def regsFrom (b : BitVec 5) (n : Nat) : List Nat := (List.range n).map (b.toNat + ·)
/-- The stem registers that a stem word reads or writes (R77, and the formats of R38, R85 to R100); a leaf run takes a
copy of them all (R93). -/
def stemRegs : Instr → List Nat
  | .add d s t | .sub d s t | .mul d s t | .mulh d s t | .mulhu d s t | .stemAnd d s t | .stemOr d s t | .stemXor d s t
  | .stemShl d s t | .stemShr d s t | .stemSra d s t | .min d s t | .max d s t | .minu d s t | .maxu d s t
  | .stemSel d _ s t | .padd d s t => [d.toNat, s.toNat, t.toNat]
  | .addi d s _ | .andi d s _ | .ori d s _ | .xori d s _ | .shli d s _ | .shri d s _ | .srai d s _ | .paddi d s _
  | .prst d s _ | .psize d s | .sld d s _ | .sst d s _ => [d.toNat, s.toNat]
  | .movi d _ | .movk d _ _ | .rfal d _ | .voteAny d _ | .voteAll d _ | .voteUniform d _ | .sread d _ => [d.toNat]
  | .cmp _ _ s t | .txbExp s t | .txbWait s t => [s.toNat, t.toNat]
  | .cmpi _ _ s _ | .ret s | .swriteFaultCode s | .swriteFaultAddr s | .swriteLease s | .srsd s | .strmBind _ s
  | .txbArr s => [s.toNat]
  | .call _ => [31]
  | .loop c _ => [c.toNat]
  | .lrun _ => List.range 32
  | .cp b _ | .gth b _ => regsFrom b 6
  | .cp2 b _ => regsFrom b 8
  | .obres b _ _ | .mx b _ _ _ _ _ _ | .mredFadd b _ | .mredBfadd b _ | .mredIadd b _ | .mredFmax b _
  | .mredFmin b _ => regsFrom b 4
  | .mqpush b _ _ | .kload b => regsFrom b 3
  | .waita b _ _ | .task b | .tgraph b | .tgraphResume b | .mqpop b _ _ => regsFrom b 2
  | .obfill b _ => regsFrom b 1
  | _ => []

/-- A group's next word is ready: its cycle has come, and every register that the word reads or writes is final (R77). -/
def State.stemDue (s : State) (gid : Nat) (g : Group) : Bool :=
  decide (g.nextAt ≤ s.cycle)
    && g.late.all (fun e => decide (e.2 ≤ s.cycle) || !(stemRegs (s.stemWord gid).1).contains e.1)
/-- The stem unit of a core has issued a word in this cycle (R77). -/
def State.stemSpent (s : State) (core : Nat) : Bool := (s.core core).stemEnd == s.cycle + 1

/-- The order of the stem unit's rotation: lane number, then position on the lane (R77). -/
def Group.stemKey (g : Group) : Nat := 16 * g.lane + g.pos

/-- The group of smallest key. -/
def firstBy (key : Group → Nat) : List (Nat × Group) → Option (Nat × Group)
  | [] => none
  | e :: r =>
    match firstBy key r with
    | none => some e
    | some f => if key e.2 ≤ key f.2 then some e else some f

/-- A rotation over some groups of a core: the first in order among those that have not had their turn in this round; a
new round, which clears every group's turn, begins when each has. -/
def State.rotate (s : State) (core : Nat) (turn : Group → Bool) (set : Bool → Group → Group) (l : List (Nat × Group)) :
    Option (Nat × State) :=
  match firstBy Group.stemKey (l.filter (fun e => !turn e.2)) with
  | some e => some (e.1, s.modGroup e.1 (set true))
  | none =>
    match firstBy Group.stemKey l with
    | none => none
    | some e =>
      let s := (s.groups.filter (fun x => x.2.core == some core)).foldl (fun s x => s.modGroup x.1 (set false)) s
      some (e.1, s.modGroup e.1 (set true))

/-- A group whose word waits for an event that has not come, with no held fault to raise. -/
def Group.asleep (g : Group) : Bool :=
  g.dueHeld.isNone && (match g.wait with
    | .wgbar | .bar _ _ | .mq _ _ | .mqSleep _ _ _ | .sleep | .txbSleep _ _ => true
    | _ => false)
/-- The group of a core whose stem acts: the one whose word issues, at most one in a cycle, the next in the rotation
among the groups with a ready word (R77); else one whose word has issued and waits, which is tried again. -/
def State.pickStem (s : State) (core : Nat) : Option (Nat × State) :=
  let due := s.groups.filter (fun e => e.2.core == some core && s.stemReady e.2 && s.stemDue e.1 e.2)
  let fresh := if s.stemSpent core then [] else due.filter (fun e => !e.2.blocked)
  ((s.rotate core Group.stemIssued (fun b g => { g with stemIssued := b }) fresh).map (fun x =>
      (x.1, x.2.modCore core (fun c => { c with stemEnd := s.cycle + 1 })))).or
    (s.rotate core Group.tried (fun b g => { g with tried := b }) (due.filter (fun e => e.2.blocked && !e.2.asleep)))

/-- The group that acts when the schedule says nothing: the stem units of the cores take their turns cycle by cycle. -/
def State.defaultParty (s : State) : Option (Nat × State) :=
  let cores := ((s.groups.filterMap (fun e => e.2.core)).eraseDups).filter (fun k => (s.pickStem k).isSome)
  (cores[s.cycle % cores.length]?).bind s.pickStem

/-! ## Leaf fetch -/

/-- The offset of the first byte from `off` on that is not padding, and that byte; none where a byte cannot be had
(R60, R62). -/
def skipPadding (byteAt : Nat → Option Byte) : Nat → Nat → Nat × Option Byte
  | 0, off => (off, none)
  | f + 1, off =>
    match byteAt off with
    | none => (off, none)
    | some b => if isPadding b then skipPadding byteAt f (off + 1) else (off, some b)

/-- The bytes of the instruction from an offset on (R60, R62): where it starts, and its bytes, or none for
`LEAF_FETCH`. -/
def leafBytesAt (byteAt : Nat → Option Byte) (off : Nat) : Nat × Option (List Byte) :=
  match skipPadding byteAt (2 ^ 21 + 1 - off) off with
  | (o, none) => (o, none)
  | (o, some b) =>
    let bs := (span (o + 1) (storedLength b - 1)).map byteAt
    if bs.all Option.isSome then (o, some (b :: bs.filterMap id)) else (o, none)

/-- One byte of a group's leaf code: the byte, nothing if it cannot be had, or a page to ask for (R61, R62). -/
inductive LeafByte where
  | byte (b : Byte)
  | bad
  | miss (m : MissInfo)
  deriving DecidableEq, Repr

/-- The leaf code base of a group: its task's, or that of the buds a host group serves (R364). -/
def State.leafBase (s : State) (g : Group) : Word :=
  match g.host with
  | some h => ((h.buds.head?).map (·.leafbase)).getD 0
  | none => ((s.taskOf g).map (·.leafBase)).getD 0

/-- A byte of leaf code at an offset from LEAFBASE (R62); one on a lost module cannot be had, which no case of R62 names
(DESIGN CHOICE, log entry 77). -/
def State.leafByte (s : State) (g : Group) (off : Nat) : LeafByte :=
  let base := s.leafBase g
  let a := ptrOff base + off
  if 2 ^ 21 ≤ off then .bad
  else match SMap.find? s.parts g.part with
    | none => .bad
    | some p =>
      match (s.coreDesc g.coreN g.part (ptrObj base)).1 with
      | .error _ => .bad
      | .ok d =>
        if !d.r || keyClass p d != .none || decide (d.size ≤ a) then .bad
        else match (s.findPage (coreDie g.coreN) g p (ptrObj base) d a false).1 with
          | .fault _ => .bad
          | .miss m mal => .miss { miss := m, mal, kind := .leafFetch, first := a }
          | .place pl _ =>
            if s.placeLost pl || s.placeBad pl 1 then .bad
            else if s.placeDown pl then
              .miss { miss := { obj := ptrObj base, page := a / 65536, mig := false }, mal := false, kind := .leafFetch, first := a, down := true }
            else .byte ((s.placeBytes p pl 1).headD 0)

/-- A byte of leaf code as a core of the group's task gets it (R64): memory's at the first fill since the take; afterwards
the one first filled or memory's, by a free value. -/
def State.leafByteKept (s : State) (g : Group) (off : Nat) : LeafByte :=
  match s.leafByte g off, (s.taskOf g).bind (fun t => SMap.find? t.leafCode off) with
  | .byte now, some old => .byte (if old ≠ now ∧ (Config.freeWord (s.fresh + off)).getLsbD 0 then old else now)
  | b, _ => b
/-- The same, where it can be had. -/
def State.leafByteAt (s : State) (g : Group) (off : Nat) : Option Byte :=
  match s.leafByteKept g off with
  | .byte b => some b
  | _ => none

/-- The caches keep the bytes of a fill from an offset; free values that it took are used up (R64). -/
def State.keepLeaf (s : State) (g : Group) (off : Nat) : State :=
  match s.taskOf g, leafBytesAt (s.leafByteAt g) off with
  | some t, (o, some bs) =>
    let offs := span off (o + bs.length - off)
    let now (x : Nat) : Option Byte := match s.leafByte g x with
      | .byte b => some b
      | _ => none
    let s := if offs.any (fun x => (SMap.find? t.leafCode x).isSome && SMap.find? t.leafCode x != now x)
      then { s with fresh := s.fresh + 2 ^ 21 } else s
    let put (m : SMap Byte) (x : Nat) : SMap Byte :=
      match SMap.find? m x, now x with
      | none, some b => SMap.put m x b
      | _, _ => m
    s.modTask g.tid (fun t => { t with leafCode := offs.foldl put t.leafCode })
  | _, _ => s

/-- The first page that a fill from an offset would have to ask for, among the bytes it reads: it is asked for also where
another byte cannot be had (DESIGN CHOICE, log entry 77). -/
def State.leafMiss (s : State) (g : Group) (off : Nat) : Option MissInfo :=
  let (o, bs) := leafBytesAt (s.leafByteAt g) off
  if bs.isSome then none
  else
    let n := match s.leafByteAt g o with
      | some b => storedLength b
      | none => 1
    (span o n).findSome? (fun x => match s.leafByte g x with
      | .miss m => some m
      | _ => none)

/-- The instruction of a group's leaf slot as its cache holds it: the offset after it and the instruction, if it is one
(R60). -/
def State.leafNext (s : State) (gid slot : Nat) : Option (Nat × Instr) :=
  match SMap.find? s.groups gid with
  | none => none
  | some g =>
    match g.slot slot with
    | none => none
    | some p =>
      match SMap.find? g.ic p.off with
      | some (_, some (b :: r)) =>
        match decodeStored b r with
        | .ok i => some (p.off + storedLength b, i)
        | .error _ => none
      | _ => none

/-! ## Turns of the schedule -/

/-- The instruction is an event of the device or the host, and no word of a stream: what a turn of the schedule may
be. -/
def isEvent (i : Instr) : Bool :=
  match i with
  | .reservedWord _ => false
  | .stemFetch => false
  | i => (encode i).isNone

/-- A line is of the lowest class among some lines: the next that may be evicted (R221). -/
def goesFirst (ls : List (Nat × Nat)) (l : Nat) : Bool :=
  ls.any (fun x => x.1 == l && ls.all (fun y => decide (x.2 ≤ y.2)))
/-- An L1 drops its copy of a line (R307), if it is one of those to be evicted first (R221). -/
def State.dropCopyL1 (s : State) (core line : Nat) : State :=
  if goesFirst (s.l1Lines core) line then s.dropL1 core line else s
/-- A grove cache drops its copy of a line (R310), if it is one of those of its set to be evicted first (R221). -/
def State.dropCopyGrove (s : State) (grove line : Nat) : State :=
  if goesFirst ((s.setLines grove line).map (fun x => (x.1, x.2.1))) line then s.dropGrove grove line else s
/-- An OTLB drops a descriptor (R283). -/
def State.dropOtlb (s : State) (core key : Nat) : State :=
  s.modCore core (fun c => { c with otlb := SMap.erase c.otlb key })
/-- A group's leaf instruction cache drops the instruction at an offset (R61). -/
def State.dropCode (s : State) (gid off : Nat) : State :=
  s.modGroup gid (fun g => { g with ic := SMap.erase g.ic off })
/-- A die's port drops a translation (R283). -/
def State.dropPort (s : State) (die key : Nat) : State :=
  s.modDie die (fun d => { d with port := SMap.erase d.port key })

/-! ## One stem word where the next step fetches it -/

/-- The descriptor of a 64 KiB object with rights R, W, A, E whose page list is at `plist` (R279). -/
def plainDescWords (plist : Nat) : List Nat :=
  [2 ^ 63 + 2 ^ 62 + 2 ^ 61 + 2 ^ 60 + 2 ^ 59 + 65536, plist, 0, 0, 0, 0, 0, 0]

/-- Bytes of 64-bit words. -/
def bytesOfWords (ws : List Nat) : List Byte := ws.flatMap (bytesOf 8)

/-- The machine with a partition, its directory, one object with the word at its start, and one resident group that
executes it next (log entry 2): what a host does to attach work, in one operation. -/
def State.installWord (s : State) (w : BitVec 32) : State :=
  let p : Part := { num := 0, tenant := 0, poolBase := 0, poolCnt := 2032, bud := ⟨4096, 4096, 4096, 8, 96, 2048, 4096⟩,
                    prio := 8, lease := 10, fpolicy := 1, system := true, keyId := 0, dir := some (0x10000, 16) }
  let t : Task := { part := 0, rcb := 0, desc := 0, no := 0, order := 0, privileged := true, stemEntry := 2 ^ 40,
                    leafBase := 0, args := 0, ncl := 1, shape := 0, chain := false, coop := false, idem := false,
                    podw0 := false, ngm1 := 0, chm1 := 0, scr := 0, obu := 0, tags := 0, argLen := 0, cwPtr := 0,
                    cwVal := 0, ranges := [], eff := { prio := 8, lease := 10, policy := 1, pool := (0, 2032) } }
  let g : Group := { part := 0, tid := 0, cid := 0, wg := 0, idx := 0, core := some 0, pc := 2 ^ 40, chunks := 1,
                     lease := 10 }
  let wr (s : State) (a : Nat) (bs : List Byte) : State := s.hbmWrite 0 (addrBytes a bs)
  let s := wr s (0x10000 + 64) (bytesOfWords (plainDescWords 0x20000))
  let s := wr s 0x20000 (bytesOfWords [2 ^ 63 + 0x30000])
  let s := wr s 0x30000 (bytesOf 4 w.toNat)
  let s := s.modCore 0 (fun c => { c with otlb := SMap.erase c.otlb (otlbKey 0 1) })
  let s := s.modDie 0 (fun d => { d with port := SMap.erase d.port (portKey 0 1 0) })
  { s with
    parts := SMap.put s.parts 0 p
    tasks := SMap.put s.tasks 0 t
    clusters := SMap.put s.clusters 0 { tid := 0, idx := 0, st := .resident, wgs := [{ core := some 0 }] }
    groups := SMap.put s.groups 0 g
    nextId := s.nextId + 1
    cur := some (.stem 0) }

end Sys2Proof.Machine
end

