-- ==== Sys2Proof/Machine/LaneMem.lean ====
section
/-! DEFINITION. The loads, stores and FIFO instructions of the lanes (spec/11_grove_sram.md R208-R222), `STNT` (R323),
atomics, `LR` and `SC` (spec/16_coherence.md R318-R322). A load is performed at its issue; its value reaches the register
with a later fill (R111). -/
namespace Sys2Proof.Machine

/-! ## The form of a memory instruction -/

/-- A store to a pod tier by one thread: destination, tenant key if any, bytes, the thread's pointer. -/
structure PodStore where
  dest : Dest
  key : Option Nat
  bytes : List (Nat × Byte)
  ptr : Word
  thr : Mask
  deriving DecidableEq, Repr

/-- What a thread's access does: it is performed, having stored the bytes at some addresses of HBM or (when `sr`) of the
SRAM; or it faults, or misses a page. -/
inductive TRes where
  | ok (s : State) (ps : List PodStore)
  | stored (s : State) (sr : Bool) (ws : List Nat)
  | fault (c : Code) (info : Word) (s : State)
  | miss (m : MissInfo) (s : State)

/-- What the accesses of an instruction have come to. -/
structure MemRun where
  s : State
  fs : List TFault
  ms : List MissInfo
  mask : Mask
  ps : List PodStore
  hbm : List Nat
  sram : List Nat

/-- One thread's access added. -/
def MemRun.add (m : MemRun) (t : Nat) (f : Nat → State → TRes) : MemRun :=
  match f t m.s with
  | .ok s ps => { m with s, ps := m.ps ++ ps }
  | .stored s false ws => { m with s, hbm := m.hbm ++ ws }
  | .stored s true ws => { m with s, sram := m.sram ++ ws }
  | .fault c info s => { m with s, fs := m.fs ++ [{ thread := t, code := c, info }] }
  | .miss x s => { m with s, ms := m.ms ++ [x], mask := m.mask ||| (1#32 <<< t) }

/-- The sector of a pod store. -/
def PodStore.sector (p : PodStore) : Dest × Nat := (p.dest, ((p.bytes.head?).map (·.1)).getD 0 / 32)

/-- Pod stores of one instruction combined into one operation for each sector, in the order of the lowest thread that
touches it; a later thread's byte remains (R211, R219, R337). -/
def combine (ps : List PodStore) : List PodStore :=
  (ps.map PodStore.sector).eraseDups.filterMap (fun k =>
    let l := ps.filter (fun p => p.sector == k)
    l.head?.map (fun p => { p with
      thr := l.foldl (fun m q => m ||| q.thr) 0
      bytes := l.foldl (fun (b : SMap Byte) q => q.bytes.foldl (fun (b : SMap Byte) w => SMap.put b w.1 w.2) b) [] }))

/-- The combined stores enter the slot's stream. -/
def State.podFlush (s : State) (gid slot : Nat) (g : Group) (nt : Bool) (ps : List PodStore) : State :=
  (combine ps).foldl (fun s p =>
    (s.streamPut gid slot ((s.slotStream g slot).getD 0) g.part (s.rcbOf g) p.dest (.write p.bytes p.key) p.ptr p.thr nt).2) s

/-- Sectors all of whose bytes are among the addresses. -/
def wholeSectors (ws : List Nat) : List Nat :=
  ((ws.map (· / 32)).eraseDups).filter (fun sec => (span (32 * sec) 32).all ws.contains)
/-- The bytes that one request stores, of all its threads, clear the poison of the sectors that they cover (R219, R303).
-/
def State.cleanSectors (s : State) (hbm sram : List Nat) : State :=
  { s with
    poison := (wholeSectors hbm).foldl (fun m x => SMap.set false m x false) s.poison
    sramPoison := (wholeSectors sram).foldl (fun m x => SMap.set false m x false) s.sramPoison }

/-- The non-temporal stores of an instruction, after the group's first `n`: those whose request writes their sector whole
are marked with its number (R219, R303). -/
def State.joinStnts (s : State) (gid n : Nat) : State :=
  match SMap.find? s.groups gid with
  | none => s
  | some g =>
    let secs := wholeSectors ((g.stnts.drop n).flatMap (fun x => x.bytes.map (·.1)))
    if secs.isEmpty then s
    else { s.modGroup gid (fun g => { g with stnts := g.stnts.take n ++ (g.stnts.drop n).map (fun x =>
        if secs.contains (x.addr / 32) then { x with req := some s.nextId } else x) }) with nextId := s.nextId + 1 }

/-- The accesses of the threads in ascending order (R211), and the outcome: threads that miss a page park the group
(R290). -/
def memRun (c : LCtx) (g : Group) (slot : Nat) (nt : Bool) (ts : List Nat) (fs : List TFault) (s : State)
    (f : Nat → State → TRes) : LRes :=
  let m := ts.foldl (fun (m : MemRun) t => m.add t f) ({ s, fs, ms := [], mask := 0, ps := [], hbm := [], sram := [] } : MemRun)
  let s := (m.s.cleanSectors m.hbm m.sram).podFlush c.gid slot g nt m.ps
  let s := if nt then s.joinStnts c.gid g.stnts.length else s
  if m.ms.isEmpty then .done s 1 m.fs else .park s m.ms m.mask m.fs

/-- A thread has a pod-tier load that has not returned (R343 rule 2), or a chain read that has not taken its value (R168,
R173): its later accesses wait. -/
def Group.podLoads (g : Group) (ts : List Nat) : Bool :=
  g.fills.any (fun f => ts.contains f.thread && (match f.src with
    | .podLoad _ _ _ _ _ => true
    | .chainRead _ _ _ _ => true
    | .chainGot _ => true
    | .scanCarry _ => true
    | _ => false))

/-- A memory instruction: R112's steps, then `f`. -/
def memOp (s : State) (w : Leaf) (ds : List Opnd) (f : LCtx → Group → Run → Part → List Nat → List TFault → State → LRes) :
    Host.Outcome State Fault Refusal :=
  runLeaf s w.ctl (fun c g r s =>
    match prepare g r c.takers (leafSrcs w) ds, SMap.find? s.parts g.part with
    | .wait, _ => .wait
    | .go ts fs, some p => f c g r p ts fs s
    | .go _ _, none => .hold)

/-- Some request that threads of a group have sent to a FIFO bank is not served (R217): it has no place in the sequential
order yet. -/
def State.fifoWaits (s : State) (gid : Nat) (ts : List Nat) : Bool :=
  s.groves.any (fun e => e.2.banks.any (fun b => (b.2.pushq ++ b.2.popq).any (fun q =>
    q.gid == gid && q.ts.any ts.contains)))

/-- An access in the sequential order waits for the thread's pod-tier loads (R343), its chain reads (R168) and its
requests at FIFO banks (R217, R305, R343). -/
def ordOp (s : State) (w : Leaf) (ds : List Opnd) (f : LCtx → Group → Run → Part → List Nat → List TFault → State → LRes) :
    Host.Outcome State Fault Refusal :=
  memOp s w ds (fun c g r p ts fs s => if g.podLoads ts || s.fifoWaits c.gid ts then .hold else f c g r p ts fs s)

/-- Bytes of an access (R209). -/
def accSize (w : Leaf) : Nat := Ty.width w.ty / 8
/-- The low bytes of a register. -/
def dataBytes (n : Nat) (x : Word) : List Byte := bytesOf n x.toNat
/-- A loaded value extended to 64 bits (R211). -/
def extend (n : Nat) (sgn : Bool) (bs : List Byte) : Word := BitVec.ofInt 64 (valueOf (8 * n) sgn (wordOf bs))
/-- The destination of thread t is empty until the source fills it (R111). -/
def State.pendDest (s : State) (gid : Nat) (g : Group) (r : Run) (d : Opnd) (t : Nat) (src : FillSrc) : State :=
  s.modGroup gid (fun x => x.pendLane (regOf g r t d) t src)

/-! ## Global accesses (R209-R211) -/

/-- The address of thread t: base and delta (R209). -/
def memAddr (o : LOp) (w : Leaf) (g : Group) (r : Run) (t : Nat) : Word × Word := (argA o w g r t, argB o w g r t)
/-- A place off the package. -/
def isPod : Place → Bool
  | .hbm _ => false
  | _ => true

/-- A global access of each taking thread: the checks for `q`, then `f` at the place. A pod-tier access waits for a
place in the streams, and a load for the group's own stores to the sector (R337, R343). -/
def globalOp (s : State) (o : LOp) (w : Leaf) (ds : List Opnd) (nt load : Bool) (q : AccReq)
    (f : LCtx → Group → Run → Part → Nat → Word → Place → State → TRes) : Host.Outcome State Fault Refusal :=
  ordOp s w ds (fun c g r p ts fs s =>
    let slot := w.slot.toNat
    let req (t : Nat) : AccReq :=
      let (b, d) := memAddr o w g r t
      { q with ptr := b, e := ptrOff b + d.toInt, unbound := q.needW && (s.slotStream g slot).isNone }
    let pods := (ts.filterMap (fun t => match (s.checkAccess g.coreN g (req t)).1 with
      | .ok pl _ _ => some pl
      | _ => none)).filter isPod
    if !pods.isEmpty && (s.podBlocked c.gid || (load && pods.any (s.ownStoresPend c.gid))) then .hold
    else memRun c g slot nt ts fs s (fun t s =>
      let (b, d) := memAddr o w g r t
      match s.checkAccess g.coreN g (req t) with
      | (.fault e, s) => .fault e (b + d) s
      | (.miss m, s) => .miss m s
      | (.ok pl _ _, s) => f c g r p t (b + d) pl s))

/-- What a load needs (R210). -/
def loadReq (n : Nat) : AccReq := { ptr := 0, e := 0, n, align := n, needR := true, kind := .read }
/-- What a store needs (R210). -/
def storeReq (n : Nat) : AccReq := { ptr := 0, e := 0, n, align := n, needW := true, wr := true, kind := .write }

/-- `LDG` (R210, R211). -/
def execLdg (w : Leaf) (s : State) : Host.Outcome State Fault Refusal :=
  let n := accSize w
  globalOp s .ldg w [w.d] false true (loadReq n) (fun c g r p t _ pl s =>
    match pl with
    | .hbm a =>
      let (bs, s) := s.coreRead p.keyId g.coreN r.lease w.hint a n
      .ok (s.pendDest c.gid g r w.d t (.value (extend n w.sgn bs))) []
    | pl => .ok (s.pendDest c.gid g r w.d t (.podLoad pl n w.sgn c.off s.cycle)) [])

/-- The pod store of a thread at a place. -/
def podStoreOf (s : State) (p : Part) (pl : Place) (bs : List Byte) (ptr : Word) (t : Nat) : List PodStore :=
  match pl with
  | .modul _ m a => [{ dest := .modul m, key := s.modKeyOf p m a bs.length, bytes := addrBytes a bs, ptr, thr := 1#32 <<< t }]
  | .host a => [{ dest := .host, key := none, bytes := addrBytes a bs, ptr, thr := 1#32 <<< t }]
  | .hbm _ => []

/-- `STG` (R210, R211). -/
def execStg (w : Leaf) (s : State) : Host.Outcome State Fault Refusal :=
  let n := accSize w
  globalOp s .stg w [] false false (storeReq n) (fun _ g r p t ptr pl s =>
    let bs := dataBytes n (argE .stg w g r t)
    match pl with
    | .hbm a => .stored (s.coreWrite p.keyId g.coreN w.hint (addrBytes a bs)) false (span a n)
    | pl => .ok s (podStoreOf s p pl bs ptr t))

/-- `STNT` (R323): performed later, or in the slot's stream for a pod tier. -/
def execStnt (w : Leaf) (s : State) : Host.Outcome State Fault Refusal :=
  let n := accSize w
  globalOp s .stnt w [] true false (storeReq n) (fun c g r p t ptr pl s =>
    let bs := dataBytes n (argE .stnt w g r t)
    match pl with
    | .hbm a => .ok (s.modGroup c.gid (fun x => { x with stnts := x.stnts ++ [{ addr := a, bytes := addrBytes a bs }] })) []
    | pl => .ok s (podStoreOf s p pl bs ptr t))

/-- `PREF` (R215): a thread whose checks fail, or whose page is absent, does nothing; nor does one whose route carries no
traffic (R328). -/
def execPref (w : Leaf) (s : State) : Host.Outcome State Fault Refusal :=
  memOp s w [] (fun c g r p ts fs s =>
    let req (t : Nat) : AccReq :=
      let (b, d) := memAddr .pref w g r t
      { loadReq 1 with ptr := b, e := ptrOff b + d.toInt }
    if s.podBlocked c.gid && ts.any (fun t => match (s.checkAccess g.coreN g (req t)).1 with
      | .ok pl _ _ => isPod pl
      | _ => false) then .hold
    else memRun c g 0 false ts fs s (fun t s =>
      match s.checkAccess g.coreN g (req t) with
      | (.ok (.hbm a) _ _, s) =>
        .ok (if s.hbmBadSpan (128 * lineOf a) 128 then s else s.prefetch p.keyId g.coreN (lineOf a) r.lease w.hint) []
      | (.ok pl _ _, s) => .ok (if s.placeDown pl then s else (s.podRead p pl 1).2) []
      | (_, s) => .ok s []))

/-! ## Scratch, local space and the argument block (R212-R214) -/

/-- The effective offset of thread t in a space without pointers (R210). -/
def spaceOff (o : LOp) (w : Leaf) (g : Group) (r : Run) (t : Nat) : Int :=
  (argA o w g r t).toInt + (argB o w g r t).toInt
/-- INFO of an offset (R404). -/
def offInfo (e : Int) : Word := BitVec.ofInt 64 e

/-- `LDP` (R210). -/
def execLdp (w : Leaf) (s : State) : Host.Outcome State Fault Refusal :=
  let n := accSize w
  ordOp s w [w.d] (fun c g r _ ts fs s => memRun c g 0 false ts fs s (fun t s =>
    let e := spaceOff .ldp w g r t
    match s.checkScratch g e n n with
    | .error x => .fault x (offInfo e) s
    | .ok a =>
      if s.sramBad a n then .fault .uePoison (offInfo e) s
      else
        let (bs, s) := s.scratchRead g.coreN a n
        .ok (s.pendDest c.gid g r w.d t (.value (extend n w.sgn bs))) []))
/-- `STP` (R210). -/
def execStp (w : Leaf) (s : State) : Host.Outcome State Fault Refusal :=
  let n := accSize w
  ordOp s w [] (fun c g r _ ts fs s => memRun c g 0 false ts fs s (fun t s =>
    let e := spaceOff .stp w g r t
    match s.checkScratch g e n n with
    | .error x => .fault x (offInfo e) s
    | .ok a => .stored (s.scratchWrite g.coreN a (dataBytes n (argE .stp w g r t))) true (span a n)))

/-- `LDL` (R213). -/
def execLdl (w : Leaf) (s : State) : Host.Outcome State Fault Refusal :=
  let n := accSize w
  ordOp s w [w.d] (fun c g r p ts fs s => memRun c g 0 false ts fs s (fun t s =>
    let e := spaceOff .ldl w g r t
    match checkLocal p g t e n with
    | .error x => .fault x (offInfo e) s
    | .ok a =>
      if s.hbmBadSpan a n then .fault .uePoison (offInfo e) s
      else
        let (bs, s) := s.coreRead p.keyId g.coreN r.lease w.hint a n
        .ok (s.pendDest c.gid g r w.d t (.value (extend n w.sgn bs))) []))
/-- `STL` (R213). -/
def execStl (w : Leaf) (s : State) : Host.Outcome State Fault Refusal :=
  let n := accSize w
  ordOp s w [] (fun c g r p ts fs s => memRun c g 0 false ts fs s (fun t s =>
    let e := spaceOff .stl w g r t
    match checkLocal p g t e n with
    | .error x => .fault x (offInfo e) s
    | .ok a =>
      if s.placeFailed (.hbm a) then .fault .uePoison (offInfo e) s
      else .stored (s.coreWrite p.keyId g.coreN w.hint (addrBytes a (dataBytes n (argE .stl w g r t)))) false (span a n)))

/-- The argument block of a group and its length: its task's, or that of the buds a host group serves, whose length no
bud carries (R214, R364). -/
def State.argBlock (s : State) (g : Group) : Word × Option Nat :=
  match g.host with
  | some h => (((h.buds.head?).map (·.args)).getD 0, none)
  | none => (((s.taskOf g).map (·.args)).getD 0, (s.taskOf g).map (·.argLen))

/-- What the read of a sector of the argument block gives (R214): its bytes, a fault, or a page to ask for. -/
inductive ArgRead where
  | ok (bs : List Byte) (s : State)
  | fault (c : Code) (s : State)
  | miss (m : MissInfo) (s : State)

/-- What was kept of a sector of the argument block (R214): by the task, or by a host group, whose package has no task. -/
def State.argKept (s : State) (gid : Nat) (g : Group) (sec : Nat) : Option (List Byte) :=
  match g.host with
  | none => (s.taskOf g).bind (fun t => SMap.find? t.lk sec)
  | some _ => ((SMap.find? s.groups gid).bind (·.host)).bind (fun h => SMap.find? h.lk sec)
/-- A sector of the argument block is kept (R214). -/
def State.keepArg (s : State) (gid : Nat) (g : Group) (sec : Nat) (bs : List Byte) : State :=
  match g.host with
  | none => s.modTask g.tid (fun t => { t with lk := SMap.put t.lk sec bs })
  | some _ => s.modGroup gid (fun g => { g with host := g.host.map (fun h => { h with lk := SMap.put h.lk sec bs }) })

/-- A sector of the argument block as `LDK` reads it (R214): at the first read, from memory; afterwards each byte is the
old or the new one, by a free value, and what was kept serves where memory cannot be read. -/
def State.argSector (s : State) (p : Part) (gid : Nat) (g : Group) (obj : Nat) (d : Desc) (sec : Nat) : ArgRead :=
  let kept := s.argKept gid g sec
  match s.findPage (coreDie g.coreN) g p obj d (32 * sec) false, kept with
  | (.place pl _, s), some old =>
    let now := s.placeBytes p pl 32
    if s.placeLost pl || s.placeBad pl 32 || old == now then .ok old s
    else
      let (x, s) := s.freeWord
      .ok ((List.range 32).map (fun i => if x.getLsbD i then old.getD i 0 else now.getD i 0)) s
  | (.place pl _, s), none =>
    if s.placeLost pl then .fault .moduleLost s
    else if s.placeBad pl 32 then .fault .uePoison s
    else
      let now := s.placeBytes p pl 32
      .ok now (s.keepArg gid g sec now)
  | (_, s), some old => .ok old s
  | (.fault c, s), none => .fault c s
  | (.miss m mal, s), none => .miss { miss := m, mal, kind := .read, first := 32 * sec } s

/-- The sectors that an access of the argument block touches, one after the other (R214). -/
def State.argSectors (p : Part) (gid : Nat) (g : Group) (obj : Nat) (d : Desc) : List Nat → State → ArgRead
  | [], s => .ok [] s
  | x :: r, s =>
    match s.argSector p gid g obj d x with
    | .ok bs s =>
      match State.argSectors p gid g obj d r s with
      | .ok cs s => .ok (bs ++ cs) s
      | e => e
    | e => e

/-- Bytes of the argument block's object from `off` on, as `LDK` reads them (R214). -/
def State.argBytes (s : State) (p : Part) (gid : Nat) (g : Group) (obj : Nat) (d : Desc) (off n : Nat) : ArgRead :=
  match State.argSectors p gid g obj d (span (off / 32) ((off + n - 1) / 32 - off / 32 + 1)) s with
  | .ok bs s => .ok ((bs.drop (off % 32)).take n) s
  | .fault c s => .fault c s
  | .miss m s => .miss { m with first := Nat.max off m.first } s

/-- The page list of the argument block cannot be read (R283): found at step 1 of the checks, where the bytes from `off` on
lie in the object and their sector has not been kept. -/
def State.argWalkBad (s : State) (p : Part) (gid : Nat) (g : Group) (obj : Nat) (d : Desc) (off : Int) : Bool :=
  decide (0 ≤ off) && decide (off < (d.size : Int)) && (s.argKept gid g (off.toNat / 32)).isNone &&
    (match (s.findPage (coreDie g.coreN) g p obj d off.toNat false).1 with
      | .fault .uePoison => true
      | _ => false)

/-- A read of n bytes of the argument block goes to a pod tier and does not issue now (R337, R328). -/
def State.argHeld (s : State) (gid : Nat) (g : Group) (p : Part) (e : Int) (n : Nat) : Bool :=
  let (ptr, _) := s.argBlock g
  let off := (ptrOff ptr : Int) + e
  match (s.coreDesc g.coreN g.part (ptrObj ptr)).1 with
  | .error _ => false
  | .ok d => decide (0 ≤ off) && decide (off + n ≤ (d.size : Int)) && [off.toNat, off.toNat + n - 1].any (fun o =>
      match (s.findPage (coreDie g.coreN) g p (ptrObj ptr) d o false).1 with
      | .place pl _ => isPod pl && s.podHeld gid pl
      | _ => false)

/-- `LDK` (R214): it has no place in the sequential order. -/
def execLdk (w : Leaf) (s : State) : Host.Outcome State Fault Refusal :=
  let n := accSize w
  memOp s w [w.d] (fun c g r p ts fs s =>
    if ts.any (fun t => s.argHeld c.gid g p (spaceOff .ldk w g r t) n) then .hold
    else memRun c g 0 false ts fs s (fun t s =>
    let e := spaceOff .ldk w g r t
    let (ptr, len) := s.argBlock g
    match s.coreDesc g.coreN g.part (ptrObj ptr) with
    | (.error x, s) => .fault x (offInfo e) s
    | (.ok d, s) =>
      let off := (ptrOff ptr : Int) + e
      if s.argWalkBad p c.gid g (ptrObj ptr) d off then .fault .uePoison (offInfo e) s
      else if !d.r then .fault .rights (offInfo e) s
      else if e < 0 || (match len with
          | some l => decide ((l : Int) < e + n)
          | none => false) || decide ((d.size : Int) < off + n) then .fault .bounds (offInfo e) s
      else if e.toNat % n ≠ 0 then .fault .misalign (offInfo e) s
      else match sealFault (keyClass p d) with
        | some x => .fault x (offInfo e) s
        | none =>
          match s.argBytes p c.gid g (ptrObj ptr) d off.toNat n with
          | .fault x s => .fault x (offInfo e) s
          | .miss m s => .miss m s
          | .ok bs s => .ok (s.pendDest c.gid g r w.d t (.value (extend n w.sgn bs))) []))

/-! ## FIFO banks (R216, R217) -/

/-- The waiting push at the head of a bank is served, if there is room: its entries, one place in the order (R217,
R314). -/
def State.servePush (s : State) (gr b : Nat) : State :=
  let x := (s.grove gr).bank b
  match x.pushq with
  | [] => s
  | q :: r =>
    if x.mode = .fifo ∧ x.entries.length + q.push.length ≤ 32767 then
      let c := ((SMap.find? s.groups q.gid).map Group.coreN).getD 0
      let s := s.modBank gr b (fun y => { y with entries := y.entries ++ q.push, pushq := r })
      s.bankTime c (gr * 2 ^ 22 + b * 2 ^ 18) true
    else s

/-- The waiting pop at the head of a bank is served, if the bank holds enough entries (R217, R314). -/
def State.servePop (s : State) (gr b : Nat) : State :=
  let x := (s.grove gr).bank b
  match x.popq with
  | [] => s
  | q :: r =>
    if x.mode = .fifo ∧ q.pop.length ≤ x.entries.length then
      let c := ((SMap.find? s.groups q.gid).map Group.coreN).getD 0
      let s := s.modBank gr b (fun y => { y with entries := y.entries.drop q.pop.length, popq := r })
      let s := s.bankTime c (gr * 2 ^ 22 + b * 2 ^ 18) true
      s.modGroup q.gid (fun g => { g with
        fills := (q.pop.zip x.entries).foldl (fun fs pe => fs.map (fun (f : Fill) =>
          if f.reg = pe.1.1 ∧ f.thread = pe.1.2 then { f with src := .value pe.2 } else f)) g.fills })
    else s

/-- The form of `FPUSH` and `FPOP`: the bank's number and its checks, after the waits of R112 (R216, log entry 87). Away
from home `RIGHTS` (R222, R364) comes before `FIFO_STATE` (DEDUCED, log entry 122). -/
def fifoOp (s : State) (o : LOp) (w : Leaf) (ds : List Opnd)
    (f : LCtx → Group → Run → List Nat → Nat → Nat → State → State) : Host.Outcome State Fault Refusal :=
  memOp s w ds (fun c g r _ ts fs s =>
    if g.podLoads ts then .hold else
    let b (t : Nat) : Nat := (argA o w g r t).toNat % 16
    if !uniform ts b then .done s 1 (fs ++ allFault ts .nonuniform)
    else match ts with
      | [] => .done s 1 fs
      | t :: _ =>
        let gr := coreGrove g.coreN
        let x := (s.grove gr).bank (b t)
        if g.host.isSome then .done s 1 (fs ++ allFault ts .rights)
        else if x.mode != .fifo || x.owner != g.cid then .done s 1 (fs ++ allFault ts .fifoState)
        else .done (f c g r ts gr (b t) s) 1 fs)

/-- `FPUSH` (R216): the request is served at once when it can be. -/
def execFpush (w : Leaf) (s : State) : Host.Outcome State Fault Refusal :=
  fifoOp s .fpush w [] (fun c g r ts gr b s =>
    let regs := if Opnd.hasEm w.s4 then ts.map (fun t => (regOf g r t w.s4, t)) else []
    let q : FifoReq := { gid := c.gid, push := ts.map (argE .fpush w g r), pop := [], regs, ts, at_ := s.cycle, seen := g.v }
    let first := ((s.grove gr).bank b).pushq.isEmpty
    let s := s.modBank gr b (fun y => { y with pushq := y.pushq ++ [q] })
    if first then s.servePush gr b else s)
/-- `FPOP` (R216). -/
def execFpop (w : Leaf) (s : State) : Host.Outcome State Fault Refusal :=
  fifoOp s .fpop w [w.d] (fun c g r ts gr b s =>
    let q : FifoReq := { gid := c.gid, push := [], pop := ts.map (fun t => (regOf g r t w.d, t)), ts, at_ := s.cycle, seen := g.v }
    let first := ((s.grove gr).bank b).popq.isEmpty
    let s := ts.foldl (fun s t => s.pendDest c.gid g r w.d t (.fifo gr b)) s
    let s := s.modBank gr b (fun y => { y with popq := y.popq ++ [q] })
    if first then s.servePop gr b else s)
/-- A bank serves a waiting request (R217). -/
def execFifoRequestServe (grove bank : Nat) (pop : Bool) (s : State) : Host.Outcome State Fault Refusal :=
  .next (if pop then s.servePop grove bank else s.servePush grove bank)

/-! ## Atomics (R318-R320) -/

/-- The type of a float atomic on n bytes. -/
def atomTy (n : Nat) : Ty := if n = 8 then .f64 else .f32
/-- A float result with a NaN made canonical (R318). -/
def canonNan (t : Ty) (x : Nat) : Nat := if (decodeF (fmtOf t) x).isNan then (fmtOf t).canon else x
/-- The new value of an atomic on n bytes (R318). -/
def atomNew (op : AtomOp) (n : Nat) (sgn : Bool) (old x : Nat) : Nat :=
  let w := 8 * n
  let t := atomTy n
  match op with
  | .add => (old + x) % 2 ^ w
  | .and => old &&& x
  | .or => old ||| x
  | .xor => old ^^^ x
  | .min => if valueOf w sgn x < valueOf w sgn old then x else old
  | .max => if valueOf w sgn old < valueOf w sgn x then x else old
  | .exch => x
  | .fadd => (roundF (fmtOf t) .rne false 0 (sumF .rne [decodeF (fmtOf t) old, decodeF (fmtOf t) x]).1).1
  | .fmin => canonNan t (minMaxF (fmtOf t) false old x).1
  | .fmax => canonNan t (minMaxF (fmtOf t) true old x).1

/-- What an atomic needs (R319). -/
def atomReq (n : Nat) : AccReq :=
  { ptr := 0, e := 0, n, align := n, needR := true, needW := true, needA := true, atomic := true, wr := true,
    badTiers := [3], kind := .write }
/-- Some register takes the old value; `.nr` names none (R318). -/
def destList (w : Leaf) : List Opnd := if w.d = .none then [] else [w.d]
/-- The destination is to be filled, if there is one. -/
def State.pendOpt (s : State) (gid : Nat) (g : Group) (r : Run) (d : Opnd) (t : Nat) (src : FillSrc) : State :=
  if d = .none then s else s.pendDest gid g r d t src

/-- One indivisible read and write at the home slice: the old value, and the state (R320). -/
def State.atomHbm (s : State) (k c a n : Nat) (f : Nat → Option Nat) : Nat × State :=
  let s := s.atomTimes k c a n
  let old := wordOf (s.hbmBytes k a n)
  (old, match f old with
    | some x => s.hbmWrite k (addrBytes a (bytesOf n x))
    | none => s)

/-- The new value of a word of n bytes under an atomic, none where it is not written (R320). -/
def fnNew (f : AtomFn) (n old : Nat) : Option Nat :=
  match f with
  | .op op x sgn => some (atomNew op n sgn old (x.toNat % 2 ^ (8 * n)))
  | .cas c x => if old = c.toNat % 2 ^ (8 * n) then some (x.toNat % 2 ^ (8 * n)) else none

/-- An atomic of the global space: `f` is what each thread does with its word, at its home slice or in a module, where
the threads of a sector make one request (R319, R320, R428). -/
def atomOp (s : State) (o : LOp) (w : Leaf) (f : Group → Run → Nat → AtomFn) : Host.Outcome State Fault Refusal :=
  let n := accSize w
  let first := s.nextId
  globalOp s o w (destList w) false false (atomReq n) (fun c g r p t ptr pl s =>
    match pl with
    | .hbm a =>
      let (old, s) := s.atomHbm p.keyId g.coreN a n (fnNew (f g r t) n)
      .ok (s.pendOpt c.gid g r w.d t (.value (BitVec.ofNat 64 old))) []
    | .modul _ md a =>
      let sid := (s.slotStream g w.slot.toNat).getD 0
      let (q, s) := s.streamAtom c.gid w.slot.toNat g md first { thr := t, addr := a, n, fn := f g r t } ptr
      .ok (s.pendOpt c.gid g r w.d t (.stream sid q n c.off)) []
    | .host _ => .ok s [])

/-- An `ATOM` (R320). -/
def atomOf (s : State) (o : LOp) (w : Leaf) (op : AtomOp) : Host.Outcome State Fault Refusal :=
  atomOp s o w (fun g r t => .op op (argE o w g r t) w.sgn)

/-- An `ATOMP` (R320, R314). -/
def atompOf (s : State) (o : LOp) (w : Leaf) (op : AtomOp) : Host.Outcome State Fault Refusal :=
  let n := accSize w
  ordOp s w (destList w) (fun c g r _ ts fs s => memRun c g 0 false ts fs s (fun t s =>
    let e := spaceOff o w g r t
    match s.checkScratch g e n n with
    | .error x => .fault x (offInfo e) s
    | .ok a =>
      if s.sramBad a n then .fault .uePoison (offInfo e) s
      else
        let old := wordOf (s.sramBytes a n)
        let new := atomNew op n w.sgn old ((argE o w g r t).toNat % 2 ^ (8 * n))
        .ok ((s.scratchWrite g.coreN a (bytesOf n new)).pendOpt c.gid g r w.d t (.value (BitVec.ofNat 64 old))) []))

/-- `ATOM.add` (R320). -/
def execAtomAdd (w : Leaf) (s : State) : Host.Outcome State Fault Refusal := atomOf s .atomAdd w .add
/-- `ATOM.and` (R320). -/
def execAtomAnd (w : Leaf) (s : State) : Host.Outcome State Fault Refusal := atomOf s .atomAnd w .and
/-- `ATOM.or` (R320). -/
def execAtomOr (w : Leaf) (s : State) : Host.Outcome State Fault Refusal := atomOf s .atomOr w .or
/-- `ATOM.xor` (R320). -/
def execAtomXor (w : Leaf) (s : State) : Host.Outcome State Fault Refusal := atomOf s .atomXor w .xor
/-- `ATOM.min` (R320). -/
def execAtomMin (w : Leaf) (s : State) : Host.Outcome State Fault Refusal := atomOf s .atomMin w .min
/-- `ATOM.max` (R320). -/
def execAtomMax (w : Leaf) (s : State) : Host.Outcome State Fault Refusal := atomOf s .atomMax w .max
/-- `ATOM.exch` (R320). -/
def execAtomExch (w : Leaf) (s : State) : Host.Outcome State Fault Refusal := atomOf s .atomExch w .exch
/-- `ATOM.fadd` (R320). -/
def execAtomFadd (w : Leaf) (s : State) : Host.Outcome State Fault Refusal := atomOf s .atomFadd w .fadd
/-- `ATOM.fmin` (R320). -/
def execAtomFmin (w : Leaf) (s : State) : Host.Outcome State Fault Refusal := atomOf s .atomFmin w .fmin
/-- `ATOM.fmax` (R320). -/
def execAtomFmax (w : Leaf) (s : State) : Host.Outcome State Fault Refusal := atomOf s .atomFmax w .fmax
/-- `ATOMP.add` (R320). -/
def execAtompAdd (w : Leaf) (s : State) : Host.Outcome State Fault Refusal := atompOf s .atompAdd w .add
/-- `ATOMP.and` (R320). -/
def execAtompAnd (w : Leaf) (s : State) : Host.Outcome State Fault Refusal := atompOf s .atompAnd w .and
/-- `ATOMP.or` (R320). -/
def execAtompOr (w : Leaf) (s : State) : Host.Outcome State Fault Refusal := atompOf s .atompOr w .or
/-- `ATOMP.xor` (R320). -/
def execAtompXor (w : Leaf) (s : State) : Host.Outcome State Fault Refusal := atompOf s .atompXor w .xor
/-- `ATOMP.min` (R320). -/
def execAtompMin (w : Leaf) (s : State) : Host.Outcome State Fault Refusal := atompOf s .atompMin w .min
/-- `ATOMP.max` (R320). -/
def execAtompMax (w : Leaf) (s : State) : Host.Outcome State Fault Refusal := atompOf s .atompMax w .max
/-- `ATOMP.exch` (R320). -/
def execAtompExch (w : Leaf) (s : State) : Host.Outcome State Fault Refusal := atompOf s .atompExch w .exch
/-- `ATOMP.fadd` (R320). -/
def execAtompFadd (w : Leaf) (s : State) : Host.Outcome State Fault Refusal := atompOf s .atompFadd w .fadd
/-- `ATOMP.fmin` (R320). -/
def execAtompFmin (w : Leaf) (s : State) : Host.Outcome State Fault Refusal := atompOf s .atompFmin w .fmin
/-- `ATOMP.fmax` (R320). -/
def execAtompFmax (w : Leaf) (s : State) : Host.Outcome State Fault Refusal := atompOf s .atompFmax w .fmax
/-- `ACAS` (R320). -/
def execAcas (w : Leaf) (s : State) : Host.Outcome State Fault Refusal :=
  atomOp s .acas w (fun g r t => .cas (argC .acas w g r t) (argE .acas w g r t))

/-! ## LR and SC (R321, R322) -/

/-- The reservations of one thread removed. -/
def State.dropResv (s : State) (gid t : Nat) : State :=
  { s with resvs := s.resvs.filter (fun r => !(r.2.2.1 == gid && r.2.2.2.1 == t)) }
/-- A reservation placed; a full table of a slice loses its oldest entry (R321). -/
def State.placeResv (s : State) (l gid t : Nat) : State :=
  let s := s.dropResv gid t
  let sl := homeSlice l
  let mine := s.resvs.filter (fun r => r.1 == sl)
  let rs := match mine with
    | o :: _ => if mine.length < 256 then s.resvs else s.resvs.erase o
    | [] => s.resvs
  { s with resvs := rs ++ [(sl, l, gid, t, s.cycle)] }
/-- The thread holds a reservation of the line that is not older than 65,536 cycles (R321). -/
def State.hasResv (s : State) (l gid t : Nat) : Bool :=
  s.resvs.any (fun r => r.2.1 == l && r.2.2.1 == gid && r.2.2.2.1 == t && decide (s.cycle < r.2.2.2.2 + 65536))

/-- `LR` (R321). -/
def execLr (w : Leaf) (s : State) : Host.Outcome State Fault Refusal :=
  let n := accSize w
  globalOp s .lr w [w.d] false false { atomReq n with wr := false, badTiers := [1, 2, 3], kind := .read }
    (fun c g r p t _ pl s =>
      match pl with
      | .hbm a =>
        let s := s.lrTimes g.coreN (lineOf a) r.lease
        let v := extend n w.sgn (s.hbmBytes p.keyId a n)
        .ok ((s.placeResv (lineOf a) c.gid t).pendDest c.gid g r w.d t (.value v)) []
      | _ => .ok s [])

/-- `SC` (R322). -/
def execSc (w : Leaf) (s : State) : Host.Outcome State Fault Refusal :=
  let n := accSize w
  globalOp s .sc w [w.d] false false { atomReq n with badTiers := [1, 2, 3] } (fun c g r p t _ pl s =>
    match pl with
    | .hbm a =>
      let held := s.hasResv (lineOf a) c.gid t
      let s := s.dropResv c.gid t
      let s := if held then (s.atomTimes p.keyId g.coreN a n).hbmWrite p.keyId
          (addrBytes a (dataBytes n (argE .sc w g r t))) else s.bringHome (lineOf a)
      .ok (s.pendDest c.gid g r w.d t (.value (if held then 0 else 1))) []
    | _ => .ok s [])

/-- A reservation reaches its 65,536 cycles (R321). -/
def execLrReservationExpiry (gid thread : Nat) (s : State) : Host.Outcome State Fault Refusal :=
  .next { s with resvs := s.resvs.filter (fun r =>
    !(r.2.2.1 == gid && r.2.2.2.1 == thread && decide (r.2.2.2.2 + 65536 ≤ s.cycle))) }

/-- A non-temporal store of a group is performed at its home (R323). -/
def execStntPerform (gid k : Nat) (s : State) : Host.Outcome State Fault Refusal :=
  .next (match SMap.find? s.groups gid with
    | none => s
    | some g =>
      match g.stnts[k]? with
      | none => s
      | some x =>
        let (t, s) := s.stntPerform g.part x (g.stnts.eraseIdx k)
        (s.modGroup gid (fun g => { g with stnts := g.stnts.eraseIdx k, drainTs := g.drainTs ++ [t] })).answerInvs g.part)

end Sys2Proof.Machine
end

