-- ==== Sys2Proof/Machine/Lanes.lean ====
section
/-! DEFINITION. The lanes of a core as a resource: the age of groups (R104), free chunks and residence places of a lane
(R11), the neighbour chain's members (R164), and the grant of a `GROW` (R103, R104). -/
namespace Sys2Proof.Machine

/-- Chunks of a lane's register file (R11). -/
def laneChunks : Nat := 32
/-- Groups that may reside on a lane (R11). -/
def lanePlaces : Nat := 16

/-- The chunks that the holds of reservations keep on a lane (R191). -/
def State.heldOn (s : State) (core lane : Nat) : List Nat :=
  s.clusters.flatMap (fun e => match e.2.hold with
    | some h => (h.cores.zip h.lanes).flatMap (fun x =>
        if x.1 = core then (x.2.filter (fun y => y.1 == lane)).map (·.2) else [])
    | none => [])

/-- The age of a group (R104): task age, the cluster's admission order, WG, GROUP; a host group's own order (R364). -/
def State.ageOf (s : State) (g : Group) : List Nat :=
  match g.host with
  | some _ => [g.order, 0, 0, 0]
  | none =>
    [((s.taskOf g).map (·.order)).getD 0, ((SMap.find? s.clusters g.cid).map (·.order)).getD 0, g.wg, g.idx]

/-- Lexicographic order of ages: the smaller is the older. -/
def ageLt : List Nat → List Nat → Bool
  | x :: xs, y :: ys => decide (x < y) || (x == y && ageLt xs ys)
  | [], _ :: _ => true
  | _, [] => false

/-- The groups that reside on a lane of a core. -/
def State.onLane (s : State) (core lane : Nat) : List (Nat × Group) :=
  s.groupsOf (fun g => g.core == some core && g.lane == lane && !g.evicted)
/-- Free chunks of a lane. -/
def State.laneFree (s : State) (core lane : Nat) : Nat :=
  laneChunks - ((s.onLane core lane).map (fun e => e.2.chunks)).sum
/-- A lane has a place that no group has and no reservation holds (R191). -/
def State.placeFree (s : State) (core lane : Nat) : Bool :=
  decide ((s.onLane core lane).length + (s.heldOn core lane).length < lanePlaces)
/-- The lowest free position of a lane. -/
def State.freePos (s : State) (core lane : Nat) : Option Nat :=
  let l := s.onLane core lane
  (List.range lanePlaces).find? (fun p => !l.any (fun e => e.2.pos == p))

/-- Lanes of a core (R9). -/
def coreLanes : Nat := 32
/-- Lanes and chunks that the holds of reservations keep on a core (R191). -/
def State.heldLanes (s : State) (core : Nat) : List (Nat × Nat) :=
  s.clusters.flatMap (fun e =>
    match e.2.hold with
    | some h => (h.cores.zip h.lanes).flatMap (fun x => if x.1 = core then x.2 else [])
    | none => [])
/-- The lane for a group of `need` chunks beside the lanes already `taken` (R190): a free place and enough chunks, the
fewest groups, the lowest number. DESIGN CHOICE (log entry 112): places that reservations hold there count as groups. -/
def State.pickLane (s : State) (core need : Nat) (taken : List (Nat × Nat)) : Option Nat :=
  let taken := taken ++ s.heldLanes core
  let count (l : Nat) : Nat := (s.onLane core l).length + (taken.filter (fun x => x.1 == l)).length
  let used (l : Nat) : Nat := ((taken.filter (fun x => x.1 == l)).map (·.2)).sum
  let ok := (List.range coreLanes).filter (fun l =>
    decide (count l < lanePlaces) && decide (used l + need ≤ s.laneFree core l))
  ok.foldl (fun b l => match b with
    | none => some l
    | some k => if count l < count k then some l else some k) none
/-- A group that comes to a lane enters the pending set when 8 groups are active there (R185). -/
def State.laneFull (s : State) (core lane : Nat) : Bool :=
  decide (8 ≤ ((s.onLane core lane).filter (fun e => !e.2.pendingSet)).length)

/-- Chunks that a blocked `GROW` asks for: n, or the whole allotment and n for an evicted group (R104, R106). -/
def Group.growNeed (g : Group) : Option Nat :=
  match g.wait with
  | .grow n => some (if g.evicted then g.chunks + n else n)
  | _ => none

/-- What a blocked `GROW` asks to be charged: an evicted group's chunks above v15 were released (R105, R106). -/
def Group.growCharge (g : Group) : Nat :=
  match g.wait with
  | .grow n => if g.evicted then g.chunks - Nat.min g.chunks 2 + n else n
  | _ => 0
/-- The requests older than a group's that wait on a lane: of the lane's groups, and of evicted groups, which wait for
any lane of the core (R104, R106). -/
def State.olderGrows (s : State) (gid core lane : Nat) (g : Group) : List (Nat × Group) :=
  s.groupsOf (fun h => h.core == some core && (h.evicted || h.lane == lane) && h.growNeed.isSome
    && ageLt (s.ageOf h) (s.ageOf g)) |>.filter (fun e => e.1 != gid)

/-- Chunk charges of some groups stay together within every level's budget (R13). -/
def State.fitTogether (s : State) (rs : List (Group × Nat)) : Bool :=
  rs.all (fun r => (s.limitsOf r.1).all (fun x =>
    let n := ((rs.filter (fun q => q.1.part == r.1.part && (s.pathOf q.1).any (samePtr x.1))).map (·.2)).sum
    within x.2 (s.counters r.1.part x.1) ({ lreg := n } : Charge).toList))

/-- The free chunks of a lane that no reservation holds (R191) suffice for the older requests on it and one of `need`
chunks. DESIGN CHOICE (log entry 78): held chunks are not free for a `GROW`. -/
def State.chunksFit (s : State) (gid core lane : Nat) (g : Group) (need : Nat) : Bool :=
  decide ((((s.olderGrows gid core lane g).filterMap (fun e => e.2.growNeed)).sum) + need + (s.heldOn core lane).sum
    ≤ s.laneFree core lane)

/-- A request's rank against another's: higher effective priority, then the older task (R16). -/
def State.outranks (s : State) (g h : Group) : Bool :=
  let p := (s.effOf g).prio
  let q := (s.effOf h).prio
  decide (q < p) || (p == q &&
    decide (((s.taskOf g).map (·.order)).getD 0 < ((s.taskOf h).map (·.order)).getD 0))

/-- The free residence places of a lane suffice for an evicted group and the older evicted ones, which wait for any lane of
the core (R104, R106). -/
def State.placesFit (s : State) (gid core lane : Nat) (g : Group) : Bool :=
  decide ((s.onLane core lane).length + (s.heldOn core lane).length
    + ((s.olderGrows gid core lane g).filter (fun e => e.2.evicted)).length < lanePlaces)
/-- A waiting request has the chunks, and an evicted group's a place: on its own lane, or on some lane of its core (R104,
R106). -/
def State.laneHas (s : State) (e : Nat × Group) : Bool :=
  let need := e.2.growNeed.getD 0
  if e.2.evicted then
    (List.range coreLanes).any (fun l => s.placesFit e.1 e.2.coreN l e.2 && s.chunksFit e.1 e.2.coreN l e.2 need)
  else s.chunksFit e.1 e.2.coreN e.2.lane e.2 need

/-- Blocked `GROW`s and re-admissions on other lanes and cores that come before a group's request for a budget's headroom:
their lanes have room for them, and R16 ranks them higher (R104). -/
def State.growRivals (s : State) (gid core lane : Nat) (g : Group) : List (Group × Nat) :=
  (s.groupsOf (fun h => h.core.isSome && h.growNeed.isSome && (h.core != some core || (!h.evicted && h.lane != lane))
      && s.outranks h g)
    |>.filter (fun e => e.1 != gid && s.laneHas e
      && s.fitTogether [(e.2, e.2.growCharge)])).map (fun e => (e.2, e.2.growCharge))

/-- The lane and the budgets admit a request of `need` chunks by a group, charged `charge` (R103, R104, R13): every older
request that waits on the lane can be granted beside it, and those that R16 puts first elsewhere. -/
def State.growFits (s : State) (gid core lane : Nat) (g : Group) (need charge : Nat) : Bool :=
  s.chunksFit gid core lane g need
    && s.fitTogether ((g, charge) :: (s.olderGrows gid core lane g).map (fun e => (e.2, e.2.growCharge))
        ++ s.growRivals gid core lane g)

/-- The groups of a core that a deadlock of `GROW`s involves: every resident group. -/
def State.residents (s : State) (core : Nat) : List (Nat × Group) :=
  s.groupsOf (fun g => g.core == some core && !g.evicted)

/-- Every resident group of the core is blocked in `GROW` and none can be granted (R105). -/
def State.growDead (s : State) (core : Nat) : Bool :=
  let l := s.residents core
  !l.isEmpty && l.all (fun e => match e.2.wait with
    | .grow n => !s.growFits e.1 core e.2.lane e.2 n n
    | _ => false)

/-- Since when the groups of a core are in a deadlock of `GROW`s: from the first cycle in which the condition holds, as long
as it holds (R105). -/
def State.watchGrow (s : State) (core : Nat) : State :=
  if s.growDead core then
    if (s.core core).growStuck.isSome then s else s.modCore core (fun c => { c with growStuck := some s.cycle })
  else s.clearGrowStuck core
/-- Every core watches for a deadlock of its `GROW`s (R105). -/
def State.watchGrows (s : State) : State :=
  let waiting := s.groups.filterMap (fun e => match e.2.wait with
    | .grow _ => e.2.core
    | _ => none)
  ((waiting ++ (s.cores.filter (fun e => e.2.growStuck.isSome)).map (·.1)).eraseDups).foldl State.watchGrow s

/-- Chunks charged to the cluster of a group (R103). -/
def State.clusterChunks (s : State) (cid : Nat) : Nat := ((s.groupsIn cid).map (fun e => e.2.charged)).sum

end Sys2Proof.Machine
end

