-- ==== Sys2Proof/Machine/StemCtl.lean ====
section
/-! DEFINITION. The stem words that control a group: the zero-operand group, branches, leaf runs, lane state read from
the stem, special registers, traps, seeds, chunks and index registers, reserved words and fetch faults
(spec/05_stem.md, R41, R42, R103, R108, R324, R362). -/
namespace Sys2Proof.Machine

/-- `NOP` (R82). -/
def execNop (s : State) : Host.Outcome State Fault Refusal := stemSet s id

/-- A word that waits until every leaf run of the group has ended: accesses of later words follow those of the runs (R90).
`f` is given the group that has waited, stored in the state. -/
def runSynced (s : State) (f : Nat → Group → State → StemRes) : Host.Outcome State Fault Refusal :=
  runStem s (fun gid g s =>
    if !g.noRuns then .wait s else f gid (g.synced s.cycle) (s.putGroup gid (g.synced s.cycle)))

/-- `SAFE` (R82). -/
def execSafe (s : State) : Host.Outcome State Fault Refusal :=
  runSynced s (fun _ g s => if g.noFills && g.buds == 0 then .next s else .wait s)

/-- `LWAIT` (R82). -/
def execLwait (s : State) : Host.Outcome State Fault Refusal := runSynced s (fun _ _ s => .next s)

/-- `GWAIT` (R362). -/
def execGwait (s : State) : Host.Outcome State Fault Refusal :=
  runStem s (fun _ g s => if g.buds = 0 then .next s else .wait s)

/-- Every non-temporal store of the group is performed, and committed for a pod tier (R324). -/
def State.stntsDone (s : State) (gid : Nat) (g : Group) : Bool :=
  g.stnts.isEmpty && !s.streams.any (fun e => e.2.ops.any (fun o => o.gid == gid && o.nt))

/-- The drain takes its place: pts rises to the times of the covered stores (R324). -/
def State.drainNow (s : State) (gid : Nat) (g : Group) : State :=
  (g.drainTs.foldl (fun s t => s.raisePts g.coreN t) s).modGroup gid (fun g => { g with drainTs := [] })

/-- `DRAIN` (R324). -/
def execDrain (s : State) : Host.Outcome State Fault Refusal :=
  runStem s (fun gid g s => if s.stntsDone gid g then .next (s.drainNow gid g) else .wait s)

/-- Some engine operation that the group posted is not performed (R83 step 4, R348). -/
def State.enginePosted (s : State) (gid : Nat) : Bool :=
  s.groves.any (fun e => e.2.queues.any (fun q => q.2.any (fun x => match x with
    | .op o => o.gid == gid && o.node.isNone
    | .fence _ _ _ _ => false)))
/-- Some stream operation of the group is not acknowledged (R348, R353). -/
def State.streamPosted (s : State) (gid : Nat) : Bool :=
  s.streams.any (fun e => e.2.ops.any (fun o => o.gid == gid))
/-- Some pass of the group has not retired, or some fill has not completed (R83 step 5, R261). -/
def State.matrixPosted (s : State) (gid : Nat) : Bool :=
  s.groves.any (fun e => e.2.passes.any (fun p => p.gid == gid) || e.2.obFills.any (fun f => f.gid == gid))
/-- Some push of the group waits at a FIFO bank (R217). -/
def State.pushPosted (s : State) (gid : Nat) : Bool :=
  s.groves.any (fun e => e.2.banks.any (fun b => b.2.pushq.any (fun r => r.gid == gid)))

/-- Everything that `EXIT` waits for is over (R83). -/
def State.exitReady (s : State) (gid : Nat) (g : Group) : Bool :=
  g.noRuns && g.noFills && g.buds == 0 && s.stntsDone gid g && !s.enginePosted gid && !s.streamPosted gid
    && !s.matrixPosted gid && !s.pushPosted gid

/-- `EXIT` (R83): it issues, and the group ends in the cycle after its issue, or later; held matrix faults are raised here, one at a
time (R257). -/
def execExit (s : State) : Host.Outcome State Fault Refusal :=
  runStem s (fun gid g s =>
    if !g.blocked || decide (s.cycle < g.issueEnd) then .wait s
    else if s.exitReady gid g then
      match firstPosted g.held with
      | some h => .wait (s.raiseHeld gid h)
      | none => .wait (((s.drainNow gid g).clearGrowStuck g.coreN).endGroup gid)
    else .wait s)

/-- The group's task is privileged (R76). -/
def State.privileged (s : State) (g : Group) : Bool := ((s.taskOf g).map (·.privileged)).getD false

/-- How the crown controller names a group (R84). DESIGN CHOICE (log entry 75): the task by the model's own number of its
take. -/
def State.nameOf (s : State) (g : Group) : GroupName :=
  { part := g.part, tid := g.tid, cluster := ((SMap.find? s.clusters g.cid).map (·.idx)).getD 0, wg := g.wg,
    group := g.idx }

/-- `HALT` (R84). -/
def execHalt (s : State) : Host.Outcome State Fault Refusal :=
  runStem s (fun gid g s =>
    if s.privileged g then .next ((s.modGroup gid (fun g => { g with halted := true })).post (.halt (s.nameOf g)))
    else .fault s (g.fault .priv))

/-- `BRK` (R82). -/
def execBrk (s : State) : Host.Outcome State Fault Refusal := runStem s (fun _ g s => .fault s (g.fault .brk))

/-- `TRAP` (R99). -/
def execTrap (code : BitVec 16) (s : State) : Host.Outcome State Fault Refusal :=
  runStem s (fun _ g s => .fault s { g.fault .trap with sw := code.toNat })

/-- A reserved word (R41). -/
def execReservedWord (_w : BitVec 32) (s : State) : Host.Outcome State Fault Refusal :=
  runStem s (fun _ g s => .fault s (g.fault .illegal))

/-! ## Control flow (R91, R92) -/

/-- Address of the word `disp` words from the current one. -/
def Group.target (g : Group) {n : Nat} (disp : BitVec n) : Word := pcPlus g.pc (4 * disp.toInt)

/-- `BR` (R91). -/
def execBr (q : BitVec 3) (n : Bool) (disp : BitVec 22) (s : State) : Host.Outcome State Fault Refusal :=
  runStem s (fun _ g s => if (g.qreg q.toNat).xor n then .goto s (g.target disp) else .next s)
/-- `JMP` (R91). -/
def execJmp (disp : BitVec 22) (s : State) : Host.Outcome State Fault Refusal :=
  runStem s (fun _ g s => .goto s (g.target disp))
/-- `CALL` (R91). -/
def execCall (disp : BitVec 22) (s : State) : Host.Outcome State Fault Refusal :=
  runStem s (fun gid g s => .goto (s.putGroup gid (g.setA 31 (pcPlus g.pc 4))) (g.target disp))
/-- `RET` (R91). -/
def execRet (x : BitVec 5) (s : State) : Host.Outcome State Fault Refusal :=
  runStem s (fun _ g s => .goto s (g.areg x.toNat))
/-- `LOOP` (R92). -/
def execLoop (c : BitVec 5) (disp : BitVec 21) (s : State) : Host.Outcome State Fault Refusal :=
  runStem s (fun gid g s =>
    let n := g.areg c.toNat - 1
    let s := s.putGroup gid (g.setA c.toNat n)
    if n != 0 then .goto s (g.target disp) else .next s)

/-! ## Leaf runs and lane state (R93-R97) -/

/-- The run that an `LRUN` makes: the copy of a0 to a31, the index settings in force, the lease (R93, R98, R107). -/
def Group.newRun (g : Group) (off : Nat) : Run := { off, a := g.a, x := g.x, lease := g.lease }
/-- The index settings once a run has taken them (R108). -/
def Group.usedX (g : Group) : Group := { g with x := g.x.map (fun e => (e.1, { e.2 with fresh := false })) }

/-- `LRUN` (R93). -/
def execLrun (off : BitVec 21) (s : State) : Host.Outcome State Fault Refusal :=
  runStem s (fun gid g s =>
    let r := g.newRun off.toNat
    if g.pend.isSome then .wait s
    else if g.run.isSome then .next (s.putGroup gid { g.usedX with pend := some r })
    else .next (s.putGroup gid (g.usedX.startRun r)))

/-- The first active thread (R80). -/
def Group.firstActive (g : Group) : Option Nat := firstThread g.active

/-- The fault of a stem word that reads a marked register n (R166, R365). -/
def Group.markedAt (g : Group) (n : Nat) : Mark → FaultInfo
  | .brk => g.fault .chainBreak
  | .graft c a => { g.fault ((Code.ofByte c.toNat).getD .graftRefused) (BitVec.ofNat 64 n) with addr := a }

/-- `RFAL` (R96). -/
def execRfal (d : BitVec 5) (v : BitVec 7) (s : State) : Host.Outcome State Fault Refusal :=
  runSynced s (fun gid g s =>
    if 8 * g.chunks ≤ v.toNat then .fault s (g.fault .indexRange (v.setWidth 64))
    else match g.firstActive with
      | none => .next (s.putGroup gid (g.setA d.toNat 0))
      | some t =>
        let x := g.lreg v.toNat t
        if x.fe != .full then .wait s
        else match x.mark with
          | some m => .fault s (g.markedAt v.toNat m)
          | none => .next (s.putGroup gid (g.setA d.toNat x.val)))

/-- A vote over the active threads: their mask and the predicate's (R97). -/
def stemVote (d : BitVec 5) (p : BitVec 3) (f : Mask → Mask → Bool) (s : State) : Host.Outcome State Fault Refusal :=
  runSynced s (fun gid g s => .next (s.putGroup gid (g.setA d.toNat (if f g.active (g.preg p.toNat) then 1 else 0))))

/-- `VOTE.any` (R97). -/
def execVoteAny (d : BitVec 5) (p : BitVec 3) (s : State) : Host.Outcome State Fault Refusal :=
  stemVote d p (fun m x => m &&& x != 0) s
/-- `VOTE.all` (R97). -/
def execVoteAll (d : BitVec 5) (p : BitVec 3) (s : State) : Host.Outcome State Fault Refusal :=
  stemVote d p (fun m x => m &&& ~~~x == 0) s
/-- `VOTE.uniform` (R97). -/
def execVoteUniform (d : BitVec 5) (p : BitVec 3) (s : State) : Host.Outcome State Fault Refusal :=
  stemVote d p (fun m x => m &&& x == 0 || m &&& ~~~x == 0) s

/-! ## Special registers (R79, R98) -/

/-- A special register that is read only once every earlier run has ended (R79). -/
def sregWaits : SReg → Bool
  | .srseed => true
  | .active => true
  | _ => false

/-- The value of a special register (R79). -/
def State.sregVal (s : State) (g : Group) (n : SReg) : Word :=
  let t := s.taskOf g
  let nat (x : Nat) : Word := BitVec.ofNat 64 x
  match n with
  | .group => nat g.idx
  | .wg => nat g.wg
  | .cluster => nat (((SMap.find? s.clusters g.cid).map (·.idx)).getD 0)
  | .ngroups => nat ((t.map (fun t => t.ngm1 + 1)).getD 0)
  | .nwg => nat ((t.map (fun t => shapeWgs t.shape)).getD 0)
  | .nclusters => nat ((t.map (·.ncl)).getD 0)
  | .task => (t.map (·.no)).getD 0
  | .core => nat (g.coreN % 4)
  | .grove => nat (coreGrove g.coreN % 24)
  | .die => nat (coreDie g.coreN)
  | .pkg => nat s.pkg
  | .pts => (s.pts g.coreN).setWidth 64
  | .cycle => nat s.cycle
  | .rcb => s.rcbOf g
  | .args => (t.map (·.args)).getD 0
  | .localp => localPtr g.frame
  | .srseed => g.srseed.setWidth 64
  | .faultCode => g.faultCode.setWidth 64
  | .faultAddr => g.faultAddr
  | .active => g.active.setWidth 64
  | .lease => g.lease.setWidth 64

/-- `SREAD` (R98). -/
def execSread (d : BitVec 5) (n : SReg) (s : State) : Host.Outcome State Fault Refusal :=
  (if sregWaits n then runSynced s else runStem s)
    (fun gid g s => .next (s.putGroup gid (g.setA d.toNat (s.sregVal g n))))

/-- `SWRITE FAULT_CODE` (R81). -/
def execSwriteFaultCode (x : BitVec 5) (s : State) : Host.Outcome State Fault Refusal :=
  stemSet s (fun g => { g with faultCode := (g.areg x.toNat).setWidth 32 })
/-- `SWRITE FAULT_ADDR` (R81). -/
def execSwriteFaultAddr (x : BitVec 5) (s : State) : Host.Outcome State Fault Refusal :=
  stemSet s (fun g => { g with faultAddr := g.areg x.toNat })
/-- The lease that a write of LEASE stores (R98). -/
def State.leaseOf (s : State) (g : Group) (x : Word) : BitVec 8 :=
  if x = 0 then BitVec.ofNat 8 (s.effOf g).lease else BitVec.ofNat 8 (Nat.min x.toNat 255)
/-- `SWRITE LEASE` (R98). -/
def execSwriteLease (x : BitVec 5) (s : State) : Host.Outcome State Fault Refusal :=
  runStem s (fun gid g s => .next (s.putGroup gid { g with lease := s.leaseOf g (g.areg x.toNat) }))

/-- `SRSD` (R100). -/
def execSrsd (x : BitVec 5) (s : State) : Host.Outcome State Fault Refusal :=
  runSynced s (fun gid g s =>
    let v : BitVec 32 := (g.areg x.toNat).setWidth 32
    .next (s.putGroup gid { g with srseed := if v = 0 then 0x6D2B79F5 else v }))

/-! ## Chunks and index registers (R103-R108) -/

/-- `GROW` (R103, R104). -/
def execGrow (n : BitVec 5) (s : State) : Host.Outcome State Fault Refusal :=
  runStem s (fun gid g s =>
    let k := n.toNat
    if !g.noRuns then .wait s
    else if g.wait != .grow k && 16 < g.chunks + k then .fault s (g.fault .growLimit)
    else if g.wait != .grow k && !s.groupFitsAlone g { lreg := k + s.clusterChunks g.cid } then
      .fault s (g.fault .growLimit)
    else if s.growFits gid g.coreN g.lane g k k then
      .next (((s.chargeBy g { lreg := k }).putGroup gid
        { g.clearFrom (8 * g.chunks) with chunks := g.chunks + k }).clearGrowStuck g.coreN)
    else .wait (s.putGroup gid { g with wait := .grow k }))

/-- `SHRINK` (R103, R166). -/
def execShrink (n : BitVec 5) (s : State) : Host.Outcome State Fault Refusal :=
  runStem s (fun gid g s =>
    let c := g.chunks - n.toNat
    if !g.noRuns then .wait s
    else if g.chunks < n.toNat + 1 then .fault s (g.fault .growLimit)
    else if g.fills.any (fun f => decide (8 * c ≤ f.reg)) then .wait s
    else .next (((s.reclaimBy g { lreg := n.toNat }).putGroup gid
      { g.clearFrom (8 * c) with chunks := c }).takeReads g (8 * c)))

/-- `XSET` (R108). -/
def execXset (x : BitVec 2) (limit : BitVec 8) (base : BitVec 7) (s : State) : Host.Outcome State Fault Refusal :=
  stemSet s (fun g => { g with x := SMap.put g.x x.toNat { base := base.toNat, limit := limit.toNat, fresh := true } })

end Sys2Proof.Machine
end

