-- ==== Sys2Proof/Machine/Context.lean ====
section
/-! DEFINITION. What a save of a group waits for, keeps and withdraws (R116, R167, R217, R293, R325, R353). -/
namespace Sys2Proof.Machine

/-- A fill that a save does not wait for: a graft return, a chain read, a pop that a bank has not served (R116). -/
def Fill.kept (f : Fill) : Bool :=
  match f.src with
  | .graft => true
  | .chainRead _ _ _ _ => true
  | .scanCarry _ => true
  | .chainGot _ => true
  | .fifo _ _ => true
  | _ => false

/-- A save of the group may be written: its fills have come, its non-temporal stores are performed, its stream
operations acknowledged (R116, R325, R353). -/
def State.saveReady (s : State) (gid : Nat) (g : Group) : Bool :=
  g.fills.all Fill.kept && s.stntsDone gid g && !s.streamPosted gid

/-- The group's requests at FIFO banks are withdrawn (R217). -/
def State.withdrawFifo (s : State) (gid : Nat) (g : Group) : State :=
  let bs := (s.grove (coreGrove g.coreN)).banks
  let rs := bs.flatMap (fun b => ((b.2.pushq ++ b.2.popq).filter (fun r => r.gid == gid)).map (fun r => (b.1, r)))
  (s.dropFifoReqs [gid]).modGroup gid (fun g => { g with fifoAgain := g.fifoAgain ++ rs })

/-- A group as it is saved: v16 and above are not kept, nor are fills into them, but for a parked group (R116,
R293). -/
def Group.savedForm (g : Group) : Group :=
  if g.park.isSome then g
  else
    let g := g.clearFrom 16
    { g with
      fills := g.fills.filter (fun f => decide (f.reg < 16))
      scans := g.scans.filter (fun q => decide (q.reg < 16))
      fifoAgain := (g.fifoAgain.map (fun x => (x.1, { x.2 with pop := x.2.pop.filter (fun p => decide (p.1 < 16)) }))).filter
        (fun x => !x.2.pop.isEmpty || !x.2.push.isEmpty) }

/-- A group saved: the implicit drain, its reservations lost, its requests withdrawn (R116, R217, R321, R325). -/
def State.saveGroup (s : State) (gid : Nat) : State :=
  match SMap.find? s.groups gid with
  | none => s
  | some g =>
    let s := (s.drainNow gid g).withdrawFifo gid g
    let s := { s with resvs := s.resvs.filter (fun r => r.2.2.1 != gid) }
    s.modGroup gid Group.savedForm

/-- A group is evicted, once its save may be written (R105 steps 1 to 3). -/
def State.evict (s : State) (gid : Nat) : State :=
  match SMap.find? s.groups gid with
  | none => s
  | some g =>
    if s.saveReady gid g then
      ((s.saveGroup gid).reclaimBy g { lreg := g.chunks - Nat.min g.chunks 2 }).modGroup gid (fun g =>
        { g with evicted := true, evicting := false, pendingSet := false })
    else s

/-- Withdrawn requests are sent again, a push with the data of the registers as they are now (R217). -/
def State.reissueFifo (s : State) (gid : Nat) : State :=
  match SMap.find? s.groups gid with
  | none => s
  | some g =>
    let gr := coreGrove g.coreN
    let s := s.modGroup gid (fun g => { g with fifoAgain := [] })
    g.fifoAgain.foldl (fun s (x : Nat × FifoReq) =>
      let bk := (s.grove gr).bank x.1
      if x.2.push.isEmpty then
        let s := s.modBank gr x.1 (fun y => { y with popq := y.popq ++ [x.2] })
        if bk.popq.isEmpty then s.servePop gr x.1 else s
      else
        let q := if x.2.regs.isEmpty then x.2 else { x.2 with push := x.2.regs.map (fun p => (g.lreg p.1 p.2).val) }
        let s := s.modBank gr x.1 (fun y => { y with pushq := y.pushq ++ [q] })
        if bk.pushq.isEmpty then s.servePush gr x.1 else s) s

end Sys2Proof.Machine
end

