-- ==== Sys2Proof/Machine/Barriers.lean ====
section
/-! DEFINITION. The workgroup barrier, the route tags and the transaction barriers (spec/12_barriers.md). -/
namespace Sys2Proof.Machine

/-- `WGBAR` (R225): it arrives once the accesses that precede it have taken their places (R90, R224). -/
def execWgbar (s : State) : Host.Outcome State Fault Refusal :=
  runStem s (fun gid g s => match g.wait with
    | .wgbarDone => .next s
    | .wgbar => .wait s
    | _ => if !s.afterRuns gid g then .wait s else .wait ((s.putGroup gid { g with wait := .wgbar }).wgbarCheck g.cid g.wg))

/-- `BAR` (R227): the release comes 96 cycles after the episode completes, and raises the pts of the group's core to the
latest arrival's (R424). It arrives once the accesses that precede it have taken their places (R90, R224). -/
def execBar (t : BitVec 3) (s : State) : Host.Outcome State Fault Refusal :=
  runStem s (fun gid g s => match g.wait with
    | .barDone _ c p => if c ≤ s.cycle then .next (s.raisePts g.coreN p) else .wait s
    | .bar _ _ => .wait s
    | _ =>
      if ((s.taskOf g).map (·.tags)).getD 0 ≤ t.toNat then .fault s (g.fault .barrierTag)
      else if !s.afterRuns gid g then .wait s
      else .wait ((s.putGroup gid { g with wait := .bar t.toNat (s.pts g.coreN) }).barCheck g.tid t.toNat))

/-- A release of a route tag reaches the groups whose 96 cycles are over (R227). -/
def execRouteTagRelease (tid tag : Nat) (s : State) : Host.Outcome State Fault Refusal :=
  .next { s with groups := s.groups.map (fun e => (e.1,
    match e.2.wait with
    | .barDone t c p => if e.2.tid = tid ∧ t = tag ∧ c ≤ s.cycle then { e.2 with wait := .barDone t 0 p } else e.2
    | _ => e.2)) }

/-- The fields of a transaction barrier, the reserved one last (R229). -/
structure Txb where
  phase : Nat
  expect : Nat
  remain : Nat
  pend : Nat
  rsv : Nat := 0
  deriving DecidableEq, Repr

/-- The fields in 16 bytes (R229). -/
def txbOf (x : Nat) : Txb :=
  { phase := bits x 72 1, expect := bits x 56 16, remain := bits x 40 16, pend := bits x 0 40, rsv := bits x 73 55 }
/-- The object in 16 bytes, unless it is malformed (R229). -/
def parseTxb (x : Nat) : Option Txb :=
  let b := txbOf x
  if b.rsv != 0 || b.expect == 0 || decide (b.expect < b.remain) then none else some b
/-- The 16 bytes of an object (R229). -/
def Txb.word (b : Txb) : Nat := b.pend + b.remain * 2 ^ 40 + b.expect * 2 ^ 56 + b.phase * 2 ^ 72 + b.rsv * 2 ^ 73

/-- The completion check (R230). -/
def Txb.check (b : Txb) : Txb :=
  if b.remain = 0 ∧ b.pend = 0 then { b with phase := 1 - b.phase, remain := b.expect } else b

/-- The object at an SRAM address: its fields, or the fault of reading it (R210, R230). -/
def State.txbAt (s : State) (a : Nat) : Except Code Txb :=
  if s.sramBad a 16 then .error .uePoison
  else match parseTxb (wordOf (s.sramBytes a 16)) with
    | some b => .ok b
    | none => .error .txbOverflow

/-- An engine's decrement by k bytes at an object (R230): the fault of a PEND too small, and then no change. -/
def State.txbDecrement (s : State) (t : Time) (a k : Nat) : Except Code (Time × State) :=
  if s.sramBad a 16 then .error .uePoison
  else
    let b := txbOf (wordOf (s.sramBytes a 16))
    if b.pend < k then .error .txbOverflow
    else
      let (t, s) := s.bankTimeOwn t a true
      .ok (t, s.sramWrite (addrBytes a (bytesOf 16 ({ b with pend := b.pend - k }.check).word)))

/-- The form of the three instructions: scratch checks with n = 16, then the object (R230), once the accesses that precede it
have taken their places (R90). -/
def txbOp (s : State) (x : BitVec 5) (f : Nat → Group → Nat → Txb → State → StemRes) :
    Host.Outcome State Fault Refusal :=
  runStem s (fun gid g s =>
    let e := g.areg x.toNat
    if !s.afterRuns gid g then .wait s
    else match s.checkScratch g e.toInt 16 16 with
    | .error c => .fault s (g.fault c e)
    | .ok a =>
      match s.txbAt a with
      | .error c => .fault s (g.fault c (if c = .uePoison then e else 0))
      | .ok b => f gid g a b s)

/-- `TXB.EXP` (R230). -/
def execTxbExp (x y : BitVec 5) (s : State) : Host.Outcome State Fault Refusal :=
  txbOp s x (fun _ g a b s =>
    let p := b.pend + (g.areg y.toNat).toNat
    if 2 ^ 40 ≤ p then .fault s (g.fault .txbOverflow)
    else .next (s.scratchWrite g.coreN a (bytesOf 16 ({ b with pend := p }.check).word)))

/-- `TXB.ARR` (R230). -/
def execTxbArr (x : BitVec 5) (s : State) : Host.Outcome State Fault Refusal :=
  txbOp s x (fun _ g a b s =>
    if b.remain = 0 then .fault s (g.fault .txbOverflow)
    else .next (s.scratchWrite g.coreN a (bytesOf 16 ({ b with remain := b.remain - 1 }.check).word)))

/-- The phase that a `TXB.WAIT` waits to leave is read: the word is done, or its group sleeps until the object is written
(R230). -/
def txbRead (gid : Nat) (g : Group) (a : Nat) (y : BitVec 5) (off : Nat) (s : State) : StemRes :=
  let (bs, s) := s.scratchRead g.coreN a 16
  let x := wordOf bs
  if (txbOf x).phase = (g.areg y.toNat).toNat % 2 then .wait (s.modGroup gid (fun g => { g with wait := .txbSleep off x }))
  else .next s

/-- `TXB.WAIT` (R230): the object is checked first; a group that has slept reads only its phase again. -/
def execTxbWait (x y : BitVec 5) (s : State) : Host.Outcome State Fault Refusal :=
  runStem s (fun gid g s =>
    let e := g.areg x.toNat
    match g.wait with
    | .txbSleep _ _ => .wait s
    | w =>
      if !s.afterRuns gid g then .wait s
      else match s.checkScratch g e.toInt 16 16 with
      | .error c => .fault s (g.fault c e)
      | .ok a =>
        match s.txbAt a, w with
        | .ok _, _ => txbRead gid g a y e.toNat s
        | .error .txbOverflow, .woken => txbRead gid g a y e.toNat s
        | .error c, _ => .fault s (g.fault c (if c = .uePoison then e else 0)))

/-- The device reads a transaction barrier again for a group asleep at `TXB.WAIT`, once it has been written (R230). -/
def execTxbWaitReread (gid : Nat) (s : State) : Host.Outcome State Fault Refusal :=
  .next (s.modGroup gid (fun g => match g.wait with
    | .txbSleep off x =>
      match s.scratchAddr g.cid g.wg off with
      | some a => if wordOf (s.sramBytes a 16) = x then g else { g with wait := .woken }
      | none => g
    | _ => g))

end Sys2Proof.Machine
end

