-- ==== Sys2Proof/Machine/Engines.lean ====
section
/-! DEFINITION. The engine queues (spec/14_engines.md R263-R275): posts and their checks, fences, and what an engine
operation does; and the reads and writes of an engine, which operand-buffer fills share (R240, R269). -/
namespace Sys2Proof.Machine

/-! ## Reads and writes of an engine (R269, R271) -/

/-- What an access without a group comes to: done, waiting for a page, or failed. -/
inductive ERes (α : Type) where
  | ok (x : α) (s : State)
  | miss (m : MissInfo) (s : State)
  | fail (c : Code) (s : State)

/-- The key pair of a handle, while it is installed (R268 step 6, R272, R397). -/
def installedKey (p : Part) (h : Nat) : Option Handle :=
  match SMap.find? p.handles h with
  | some k => if k.st = .installed then some k else none
  | none => none

/-- The place of an offset of an object as an engine finds it (R269, R272, R445); a write or a fill waits while the page
migrates (R300). -/
def State.engPlace (s : State) (p : Part) (die : Nat) (obj off n : Nat) (wr : Bool) (kind : MissKind) :
    ERes (Place × Desc) :=
  match s.walkDesc p obj with
  | .error c => .fail c s
  | .ok d =>
    if d.size < off + n then .fail .bounds s
    else match s.translate die p obj d off (wr || kind == .obFill) with
      | (.fault c, s) => .fail c s
      | (.miss m mal, s) => .miss { miss := m, mal, kind, first := off } s
      | (.place pl t, s) =>
        if t = 2 then .fail .objInvalid s
        else if s.placeLost pl then .fail .moduleLost s
        else if s.placeDown pl then
          .miss { miss := { obj, page := off / 65536, mig := false }, mal := false, kind, first := off, down := true } s
        else .ok (pl, d) s

/-- The layout key that an access removes or applies: none, for bytes as stored; that of the object, if it has one (R271);
or the one that a record names, if it names one (R240). -/
inductive KeyUse where
  | stored
  | object
  | fixed (h : Option Nat)
  deriving DecidableEq, Repr
/-- The use of keys that the KEY bit of an operation asks for (R271). -/
def keyUse (key : Bool) : KeyUse := if key then .object else .stored
/-- The key pair that an access uses at an object: none when bytes move as stored (R240, R271). -/
def transferKey (p : Part) (d : Desc) (key : KeyUse) : Except Code (Option Handle) :=
  match (match key with
    | .stored => none
    | .object => if d.lkey then some d.keyh else none
    | .fixed h => h) with
  | none => .ok none
  | some h => match installedKey p h with
    | some h => .ok (some h)
    | none => .error .keyInvalid

/-- How an engine reads: its die, its lease, what a missing page is asked for, the layout key, and the group whose stores of
smaller numbers come first, with that number (R269). -/
structure EngRd where
  die : Nat
  lease : BitVec 8
  kind : MissKind := .engRead
  key : KeyUse := .stored
  who : Option (Nat × Nat) := none
  deriving DecidableEq, Repr

/-- A place moved back by some bytes. -/
def Place.back (k : Nat) : Place → Place
  | .hbm a => .hbm (a - k)
  | .modul h m a => .modul h m (a - k)
  | .host a => .host (a - k)

/-- Up to 32 bytes of one sector of an object read by an engine at its own time (R269): the bytes, the new time. -/
def State.engRead (s : State) (p : Part) (rd : EngRd) (t : Time) (obj off n : Nat) : ERes (List Byte × Time) :=
  match s.engPlace p rd.die obj off n false rd.kind with
  | .miss m s => .miss m s
  | .fail c s => .fail c s
  | .ok (pl, d) s =>
    match transferKey p d rd.key with
    | .error c => .fail c s
    | .ok h =>
      if rd.who.any (fun x => s.ownStoresPend x.1 pl n (some x.2)) then
        .miss { miss := { obj, page := off / 65536, mig := false }, mal := false, kind := rd.kind, first := off, down := true } s
      else if s.placeBad pl n then .fail .uePoison s
      else
        let (t, s) := match pl with
          | .hbm a => (s.ownRead p.keyId t rd.lease a n).2
          | pl => (t, (s.podRead p pl n).2)
        match h with
        | none => .ok (s.placeBytes p pl n, t) s
        | some h =>
          let k := off % 32
          .ok (((layoutDec h obj (off - k) (s.placeBytes p (pl.back k) 32)).drop k).take n, t) s

/-- Bytes of an object read as an engine reads, sector by sector (R240, R349). -/
def State.engSpan (p : Part) (rd : EngRd) (obj : Nat) :
    (fuel off n : Nat) → List Byte → Time → State → ERes (List Byte × Time)
  | 0, _, _, acc, t, s => .ok (acc, t) s
  | f + 1, off, n, acc, t, s =>
    if n = 0 then .ok (acc, t) s
    else
      let k := Nat.min n (32 - off % 32)
      match s.engRead p rd t obj off k with
      | .ok (bs, t) s => State.engSpan p rd obj f (off + k) (n - k) (acc ++ bs) t s
      | x => x

/-- A sector as it lies in memory after some of its bytes, by their addresses, have been written under a layout key: it is
decrypted, changed and encrypted again (R271, R390). -/
def SealAt.write (x : SealAt) (old : List Byte) (ws : List (Nat × Byte)) : List Byte :=
  layoutEnc x.handle x.obj x.off
    (ws.foldl (fun (bs : List Byte) w => bs.set (w.1 % 32) w.2) (layoutDec x.handle x.obj x.off old))

/-- The first offset of some bytes, and the offset after their last. -/
def extent : List (Nat × Byte) → Nat × Nat
  | [] => (0, 0)
  | w :: r => r.foldl (fun x v => (Nat.min x.1 v.1, Nat.max x.2 (v.1 + 1))) (w.1, w.1 + 1)

/-- Bytes of one sector of an object, by their offsets, written by an engine in one access: the new time, and the write
that a pod tier needs, which a layout key encrypts at its commit (R269, R271). A part of a sector under a layout key is not
written where the rest cannot be read (R272, R303). -/
def State.engWrite (s : State) (p : Part) (die : Nat) (t : Time) (obj : Nat) (ws : List (Nat × Byte)) (key : Bool) :
    ERes (Time × Option EngPod) :=
  let (lo, hi) := extent ws
  match s.engPlace p die obj lo (hi - lo) true .engWrite with
  | .miss m s => .miss m s
  | .fail c s => .fail c s
  | .ok (pl, d) s =>
    match (if s.placeFailed pl then .error .uePoison else transferKey p d (keyUse key)) with
    | .error c => .fail c s
    | .ok h =>
      let x : Option SealAt := h.map (fun h => { handle := h, obj, off := lo / 32 * 32 })
      let at_ (a : Nat) : List (Nat × Byte) := ws.map (fun w => (a + (w.1 - lo), w.2))
      match pl with
      | .hbm a =>
        let l := a / 32 * 32
        let bs := match x with
          | none => at_ a
          | some x => addrBytes l (x.write (s.hbmBytes p.keyId l 32) (at_ a))
        if x.isSome && !covers (at_ a) (a / 32) && s.hbmBad l then .fail .uePoison s
        else
          let (t, s) := s.ownWrite p.keyId t bs
          .ok (t, none) s
      | .modul _ m a =>
        .ok (t, some { off := lo, dest := .modul m, bytes := at_ a, key := s.modKeyOf p m (a / 32 * 32) 32, layout := x }) s
      | .host a => .ok (t, some { off := lo, dest := .host, bytes := at_ a, key := none, layout := x }) s

/-! ## Posts (R265-R268) -/

/-- An address that a post names: space, value, what it needs, the rows of bytes that it touches (their number, their
size and their distance, from the address on), and the multiple its offset must be of (R268). -/
structure PostAddr where
  at_ : EAddr
  needR : Bool := false
  needW : Bool := false
  needE : Bool := true
  wr : Bool := false
  rows : Nat := 1
  rb : Nat
  pitch : Int := 0
  align : Nat := 1
  deriving DecidableEq, Repr

/-- Where an address starts: the offset of a pointer, or of the scratch window. -/
def EAddr.base (e : EAddr) : Nat := if e.sp then e.val.toNat else ptrOff e.val

/-- The bytes of n rows of some bytes at a pitch, from a base on: the first, and the one after the last. -/
def rowSpan (base rows rb : Nat) (pitch : Int) : Int × Int :=
  if rows * rb = 0 then (base, base)
  else
    let s : Int := ((rows : Int) - 1) * pitch
    ((base : Int) + min 0 s, (base : Int) + max 0 s + rb)
/-- The first byte of an address's rows, and the byte after their last. -/
def PostAddr.ends (a : PostAddr) : Int × Int := rowSpan a.at_.base a.rows a.rb a.pitch

/-- Some of the first `rows` rows of `n` bytes, `pitch` apart from `base` on, holds an offset. -/
def rowsHit (base pitch : Int) (rows n : Nat) (x : Int) : Bool :=
  let q := if pitch < 0 then -pitch else pitch
  let r : Int := if pitch < 0 then (if base ≤ x then 0 else (base - x + q - 1) / q)
    else if (rows : Int) - 1 < (x - base) / q then (rows : Int) - 1 else (x - base) / q
  decide (0 ≤ r) && decide (r < rows) && decide (base + r * pitch ≤ x) && decide (x < base + r * pitch + n)

/-- The descriptor of an address of a post; a scratch address has none. -/
def State.postDesc (s : State) (core : Nat) (p : Part) (e : EAddr) : Except Code (Option Desc) :=
  if e.sp then .ok none
  else match s.otlbDesc core p (ptrObj e.val) with
    | some x => x.map some
    | none => (s.walkDesc p (ptrObj e.val)).map some

/-- What translation finds at each page of an object that a row of the address touches (R445). -/
def State.postPages (s : State) (die : Nat) (p : Part) (a : PostAddr) (d : Desc) : List Xlat :=
  let lo := a.ends.1.toNat
  let hi := (min a.ends.2 d.size).toNat
  if hi ≤ lo then []
  else ((span (lo / 65536) ((hi - 1) / 65536 + 1 - lo / 65536)).filter (fun g =>
      rowsHit a.at_.base a.pitch a.rows (a.rb + 65535) ((65536 * g + 65535 : Nat) : Int))).map (fun g =>
    (s.translate die p (ptrObj a.at_.val) d (65536 * g) false).1)
/-- The tiers of the pages of an address's bytes that are present at posting (R445). -/
def State.postTiers (s : State) (die : Nat) (p : Part) (a : PostAddr) (d : Desc) : List Nat :=
  (s.postPages die p a d).filterMap (fun x => match x with
    | .place _ t => some t
    | _ => none)

/-- Step 1 for an address: its descriptor, unless its object is invalid or it has a page in a two-hop tier. -/
def State.postOne (s : State) (core : Nat) (p : Part) (a : PostAddr) : Except Code (Option Desc) :=
  match s.postDesc core p a.at_ with
  | .ok (some d) => if (s.postTiers (coreDie core) p a d).contains 2 then .error .objInvalid else .ok (some d)
  | x => x

/-- Steps 2 to 4 for an address (R268): `win` is the size of the scratch window. -/
def postRights (a : PostAddr) (d : Option Desc) : Bool :=
  match d with
  | none => true
  | some d => (!a.needR || d.r) && (!a.needW || d.w) && (!a.needE || d.e) && !ptrNE a.at_.val && (!a.wr || !ptrNW a.at_.val)
/-- The bytes lie inside the object or the window (R268 step 3). -/
def postBounds (win : Nat) (a : PostAddr) (d : Option Desc) : Bool :=
  let (lo, hi) := a.ends
  decide (hi ≤ lo) || (decide (0 ≤ lo) && decide (hi ≤ ((match d with
    | some d => d.size
    | none => win : Nat) : Int)))
/-- The class of an address's layout key; a scratch address has none (R271). -/
def postClass (p : Part) (d : Option Desc) : KeyClass := (d.map (keyClass p)).getD .none

/-- The sealing rule of a transfer (R271). -/
def sealRule (key : Bool) (src dst : KeyClass) (sh dh : Nat) : Option Code :=
  if dst = .mismatch ∨ src = .mismatch then some .sealKey
  else if src = .sealed_ ∧ dst = .sealed_ then
    if key then some .sealDenied else if sh = dh then none else some .sealKey
  else if src = .sealed_ ∨ dst = .sealed_ then some .sealDenied
  else none
/-- A completion word or an index list is moved as stored and must not be sealed (R271). -/
def plainRule : KeyClass → Option Code
  | .sealed_ => some .sealDenied
  | .mismatch => some .sealKey
  | _ => none

/-- What a post is checked with: the posting core, the partition, the window's size, whether its slot is bound, whether
its fields are in range, KEY, and its addresses: destination, source, then the index list and the completion word where
it has them, then the barrier (R268). -/
structure PostReq where
  core : Nat
  win : Nat
  bound : Bool
  fields : Bool
  key : Bool
  dst : PostAddr
  src : PostAddr
  idx : Option PostAddr
  cw : Option PostAddr
  txb : Option PostAddr
  deriving DecidableEq, Repr

/-- The addresses in the order of R268. -/
def PostReq.addrs (q : PostReq) : List PostAddr := [q.dst, q.src] ++ q.idx.toList ++ q.cw.toList ++ q.txb.toList

/-- The first failing check of a post, with the address that it is about; otherwise the handles whose key check it
passed (R268). -/
def State.postCheck (s : State) (p : Part) (q : PostReq) : Except (Code × Word) (List Nat) :=
  let ds := q.addrs.map (fun a => (a, s.postOne q.core p a))
  let desc (a : PostAddr) : Option Desc := match s.postOne q.core p a with
    | .ok d => d
    | .error _ => none
  match ds.findSome? (fun x => match x.2 with
    | .error c => some (c, x.1.at_.val)
    | .ok _ => none) with
  | some e => .error e
  | none =>
    match q.addrs.find? (fun a => !postRights a (desc a)) with
    | some a => .error (.rights, a.at_.val)
    | none =>
      if !q.fields then .error (.bounds, 0)
      else match q.addrs.find? (fun a => !postBounds q.win a (desc a)) with
        | some a => .error (.bounds, a.at_.val)
        | none =>
          match q.addrs.find? (fun a => a.at_.base % a.align != 0) with
          | some a => .error (.misalign, a.at_.val)
          | none =>
            let h (a : PostAddr) : Nat := ((desc a).map (·.keyh)).getD 0
            let bad := (sealRule q.key (postClass p (desc q.src)) (postClass p (desc q.dst)) (h q.src) (h q.dst)).or
              ((q.idx.toList ++ q.cw.toList).findSome? (fun a => plainRule (postClass p (desc a))))
            match bad with
            | some c => .error (c, q.dst.at_.val)
            | none =>
              let keyed (l : List PostAddr) : List PostAddr :=
                if q.key then l.filter (fun a => ((desc a).map (·.lkey)).getD false) else []
              if (keyed q.addrs).any (fun a => (installedKey p (h a)).isNone) then .error (.keyInvalid, 0)
              else if !q.bound && (q.dst :: q.cw.toList).any (fun a => match desc a with
                  | some d => (s.postTiers (coreDie q.core) p a d).any (fun t => t != 0)
                  | none => false) then .error (.streamSeq, q.dst.at_.val)
              else .ok ((keyed q.addrs).map h)

/-- The parameters of an operation, as its block gives them (R266). -/
structure EngBlock where
  dst : EAddr
  src : EAddr
  rows : Nat
  rowBytes : Nat
  dpitch : Int
  spitch : Int
  fields : Bool
  idx : Option EAddr
  cwAt : Word
  cwVal : Word
  txbOff : Nat
  deriving DecidableEq, Repr

/-- The block of `CP` from its registers (R266). -/
def cpBlock (m : EngMods) (r : Nat → Word) : EngBlock :=
  { dst := { sp := m.dsp, val := r 0 }, src := { sp := m.ssp, val := r 1 }
    rows := 1, rowBytes := bits (r 2).toNat 0 40, dpitch := 0, spitch := 0, fields := bits (r 2).toNat 40 24 == 0
    idx := none, cwAt := r 3, cwVal := r 4, txbOff := bits (r 5).toNat 0 22 }
/-- The block of `CP2` from its registers (R266). -/
def cp2Block (m : EngMods) (r : Nat → Word) : EngBlock :=
  let rb := bits (r 2).toNat 0 40
  let rows := bits (r 2).toNat 40 24
  { dst := { sp := m.dsp, val := r 0 }, src := { sp := m.ssp, val := r 1 }
    rows, rowBytes := rb, dpitch := (r 3).toInt, spitch := (r 4).toInt, fields := rb != 0 && rows != 0
    idx := none, cwAt := r 5, cwVal := r 6, txbOff := bits (r 7).toNat 0 22 }
/-- The block of `GTH` from its registers (R266). -/
def gthBlock (m : EngMods) (r : Nat → Word) : EngBlock :=
  let rb := bits (r 3).toNat 0 24
  { dst := { sp := m.dsp, val := r 0 }, src := { sp := m.ssp, val := r 1 }
    rows := bits (r 3).toNat 46 18, rowBytes := rb, dpitch := rb, spitch := 0, fields := rb != 0
    idx := some { sp := m.isp, val := r 2 }, cwAt := r 4, cwVal := r 5, txbOff := bits (r 3).toNat 24 22 }

/-- What a post of a block is checked with (R268). The source rows of a `GTH` are checked as each index is read. -/
def postReq (m : EngMods) (b : EngBlock) (core win : Nat) (bound : Bool) : PostReq :=
  let word (e : EAddr) (n al : Nat) : PostAddr := { at_ := e, rb := n, align := al }
  { core, win, bound, fields := b.fields, key := m.key
    dst := { at_ := b.dst, needW := true, wr := true, rows := b.rows, rb := b.rowBytes, pitch := b.dpitch }
    src := { at_ := b.src, needR := true, rows := if b.idx.isSome then 0 else b.rows, rb := b.rowBytes, pitch := b.spitch }
    idx := b.idx.map (fun e => { word e (b.rows * (if m.i64 then 8 else 4)) 1 with needR := true })
    cw := if m.cw then some { word { sp := m.cwsp, val := b.cwAt } 8 8 with needW := true, wr := true, needE := false }
      else none
    txb := if m.txb then some { word { sp := true, val := BitVec.ofNat 64 b.txbOff } 16 16 with needE := false }
      else none }

/-- The operation that a checked block becomes. -/
def engOp (m : EngMods) (b : EngBlock) (keys : List Nat) (gid cid wg part : Nat) (word : Word) (ts : Time)
    (lease : BitVec 8) (num : Nat) : EngOp :=
  { gid, cid, wg, part, word, rows := b.rows, rowBytes := b.rowBytes, dst := b.dst, src := b.src, dpitch := b.dpitch,
    spitch := b.spitch, idx := b.idx, i64 := m.i64
    cw := if m.cw then some ({ sp := m.cwsp, val := b.cwAt }, b.cwVal) else none
    txb := if m.txb then some b.txbOff else none
    key := m.key, slot := m.slot.toNat, ts, lease, keys, num }

/-- Entries of a queue (R263). -/
def queueDepth : Nat := 64
/-- An entry posted at the end of a queue. -/
def State.pushQueue (s : State) (gr q : Nat) (e : QEntry) : State := s.setQueue gr q ((s.grove gr).queue q ++ [e])

/-- A post (R263-R268): the checks, then a place in the queue, for which the word waits, as it does for the accesses that
those of the operation follow (R90, R269). -/
def postOp (s : State) (b : BitVec 5) (m : EngMods) (q : Nat) (blk : (Nat → Word) → EngBlock) :
    Host.Outcome State Fault Refusal :=
  runStem s (fun gid g s =>
    match SMap.find? s.parts g.part with
    | none => .wait s
    | some p =>
      let k := blk (fun i => g.areg (b.toNat + i))
      match s.postCheck p (postReq m k g.coreN (4096 * s.scrOf g) (s.slotStream g m.slot.toNat).isSome) with
      | .error (c, a) => .fault s (g.fault c a)
      | .ok keys =>
        let gr := coreGrove g.coreN
        if queueDepth ≤ ((s.grove gr).queue q).length || !s.afterRuns gid g then .wait s
        else
          let (n, s) := s.newId
          .next (s.pushQueue gr q (.op (engOp m k keys gid g.cid g.wg g.part g.pc (s.pts g.coreN) g.lease n))))

/-- `CP` (R266). -/
def execCp (b : BitVec 5) (m : EngMods) (s : State) : Host.Outcome State Fault Refusal := postOp s b m m.q.toNat (cpBlock m)
/-- `CP2` (R266). -/
def execCp2 (b : BitVec 5) (m : EngMods) (s : State) : Host.Outcome State Fault Refusal :=
  postOp s b m m.q.toNat (cp2Block m)
/-- `GTH` (R266). -/
def execGth (b : BitVec 5) (m : EngMods) (s : State) : Host.Outcome State Fault Refusal := postOp s b m 4 (gthBlock m)

/-- `QJOIN` (R270): one fence in each named queue. -/
def execQjoin (m : BitVec 5) (s : State) : Host.Outcome State Fault Refusal :=
  runStem s (fun gid g s =>
    let gr := coreGrove g.coreN
    let qs := (List.range 5).filter (fun i => m.getLsbD i)
    if qs.any (fun q => decide (queueDepth ≤ ((s.grove gr).queue q).length)) then .wait s
    else
      let (k, s) := s.newId
      .next (qs.foldl (fun s q => s.pushQueue gr q (.fence gid g.cid k m)) s))

/-! ## The order of the queues (R264, R270) -/

/-- The fence at the head of a queue, if there is one. -/
def Grove.headFence (g : Grove) (q : Nat) : Option Nat :=
  match (g.queue q).head? with
  | some (.fence _ _ k _) => some k
  | _ => none
/-- A queue holds a fence. -/
def Grove.hasFence (g : Grove) (k q : Nat) : Bool := (g.queue q).any (fun e => match e with
  | .fence _ _ x _ => x == k
  | .op _ => false)
/-- A fence that stands at the head of every queue it is in: everything ahead of it has been performed (R270). -/
def Grove.doneFence (g : Grove) : Option Nat :=
  ((List.range 5).filterMap g.headFence).find? (fun k =>
    (List.range 5).all (fun q => !g.hasFence k q || g.headFence q == some k))
/-- The performed entries of a queue have reached a logical time (R269). -/
def Grove.reach (g : Grove) (q : Nat) (t : Time) : Grove :=
  { g with qts := SMap.put g.qts q (match SMap.find? g.qts q with
      | some x => tmax x t
      | none => t) }
/-- A fence leaves its queues: the entries behind it follow every entry that was ahead of it in any of them (R269,
R270). -/
def Grove.dropFence (g : Grove) (k : Nat) : Grove :=
  let qs := (List.range 5).filter (g.hasFence k)
  let g := (qs.filterMap (SMap.find? g.qts)).foldl (fun (g : Grove) t => qs.foldl (fun (g : Grove) q => g.reach q t) g) g
  { g with queues := g.queues.map (fun q => (q.1, q.2.filter (fun e => match e with
      | .fence _ _ x _ => x != k
      | .op _ => true))) }
/-- Fences that are satisfied leave their queues, until none is. -/
def State.popFences (s : State) (gr : Nat) : Nat → State
  | 0 => s
  | n + 1 =>
    match (s.grove gr).doneFence with
    | none => s
    | some k => State.popFences (s.modGrove gr (fun g => g.dropFence k)) gr n

/-- The operation at the head of a queue. -/
def State.headOp (s : State) (gr q : Nat) : Option EngOp :=
  match ((s.grove gr).queue q).head? with
  | some (.op o) => some o
  | _ => none
/-- The head operation changed. -/
def State.setHead (s : State) (gr q : Nat) (o : EngOp) : State := s.setQueue gr q (.op o :: ((s.grove gr).queue q).drop 1)

/-- A queue starts its head entry (R264), which follows the entries performed before it (R269). -/
def execEngineOpStart (grove q : Nat) (s : State) : Host.Outcome State Fault Refusal :=
  let s := s.popFences grove 320
  .next (match s.headOp grove q with
    | some o =>
      if o.started then s
      else s.setHead grove q { o with started := true, ts := match SMap.find? (s.grove grove).qts q with
        | some t => tmax o.ts t
        | none => o.ts }
    | none => s)

/-! ## What an operation does (R266-R272) -/

/-- Who waits when an operation finds a page absent: its group, or its graph (R295). -/
def EngOp.waiter (o : EngOp) : Nat :=
  match o.node with
  | some (gn, _) => 2 * gn + 1
  | none => 2 * o.gid
/-- An operation that found a page absent: a page request, unless the page is migrating (R289, R300); one whose route
carries no traffic goes on later. -/
def EngOp.missed (o : EngOp) (s : State) (m : MissInfo) : EngOp × State :=
  if m.down then (o, s)
  else ({ o with miss := some (m.miss.obj, m.miss.page) },
   if m.miss.mig then s else s.request o.part m.miss.obj m.miss.page m.kind m.first m.mal o.waiter)

/-- Bytes that an operation moves. -/
def EngOp.total (o : EngOp) : Nat := o.rows * o.rowBytes

/-- Bytes from an offset of a sector on, as an operation reads them from its source or, with `list`, its index list. -/
def EngOp.fetch (o : EngOp) (s : State) (p : Part) (die : Nat) (e : EAddr) (off n : Nat) (list : Bool) :
    ERes (List Byte × Time) :=
  if e.sp then
    match s.scratchAddr o.cid o.wg off with
    | none => .fail .bounds s
    | some a =>
      if s.sramBad a n then .fail .uePoison s
      else
        let (t, s) := s.bankTimeOwn o.ts a false
        .ok (s.sramBytes a n, t) s
  else s.engRead p { die, lease := o.lease, key := keyUse (o.key && !list), who := some (o.gid, o.num) } o.ts
    (ptrObj e.val) off n
/-- Bytes of an object or window that one sector of it holds, at most 32. -/
def EAddr.sectorSize (e : EAddr) (s : State) (p : Part) (lo : Nat) : Nat :=
  if e.sp then 32
  else match s.walkDesc p (ptrObj e.val) with
    | .ok d => Nat.min 32 (d.size - lo)
    | .error _ => 32
/-- Bytes at an address of an operation, all within one sector. The operation reads each sector once, whole, and keeps it
(R269). -/
def EngOp.get (o : EngOp) (s : State) (p : Part) (die : Nat) (e : EAddr) (off : Int) (n : Nat) (list : Bool) :
    ERes (List Byte × EngOp) :=
  if off < 0 then .fail .bounds s
  else
    let sec := off.toNat / 32
    let key := 2 * sec + (if list then 1 else 0)
    let cut (bs : List Byte) : List Byte := (bs.drop (off.toNat % 32)).take n
    match SMap.find? o.buf key with
    | some bs => if (cut bs).length < n then .fail .bounds s else .ok (cut bs, o) s
    | none =>
      match o.fetch s p die e (32 * sec) (Nat.max (e.sectorSize s p (32 * sec)) (off.toNat % 32 + n)) list with
      | .ok (bs, t) s => .ok (cut bs, { o with ts := t, buf := SMap.put o.buf key bs }) s
      | .miss m s => .miss m s
      | .fail c s => .fail c s

/-- At most 32 bytes at an address of an operation, in one sector or in two. -/
def EngOp.getSpan (o : EngOp) (s : State) (p : Part) (die : Nat) (e : EAddr) (off : Int) (n : Nat) (list : Bool) :
    ERes (List Byte × EngOp) :=
  let k := Nat.min n (32 - off.toNat % 32)
  match o.get s p die e off k list with
  | .ok (bs, o) s =>
    if k = n then .ok (bs, o) s
    else match o.get s p die e (off + k) (n - k) list with
      | .ok (cs, o) s => .ok (bs ++ cs, o) s
      | x => x
  | x => x

/-- Bytes of one sector at an address of an operation, by their offsets, stored in one access. -/
def EngOp.put (o : EngOp) (s : State) (p : Part) (die : Nat) (t : Time) (e : EAddr) (ws : List (Nat × Byte)) (key : Bool) :
    ERes (Time × Option EngPod) :=
  if e.sp then
    let lo := (extent ws).1
    match s.scratchAddr o.cid o.wg lo with
    | none => .fail .bounds s
    | some a =>
      let (t, s) := s.bankTimeOwn t a true
      .ok (t, none) (s.sramWrite (ws.map (fun w => (a + (w.1 - lo), w.2))))
  else s.engWrite p die t (ptrObj e.val) ws key

/-- Size of the source of an operation: its object's or its window's. -/
def EngOp.srcSize (o : EngOp) (s : State) (p : Part) : Except Code Nat :=
  if o.src.sp then
    .ok (4096 * (((s.wg? o.cid o.wg).map (fun w => w.units.length)).getD 0))
  else (s.walkDesc p (ptrObj o.src.val)).map (·.size)

/-- Where byte j of row i of the source lies (R266); for a `GTH` its index is read first, and a row outside the source
fails (R272). -/
def EngOp.srcAt (o : EngOp) (s : State) (p : Part) (die i j : Nat) : ERes (Int × EngOp) :=
  match o.idx with
  | none => .ok ((o.src.base : Int) + i * o.spitch + j, o) s
  | some e =>
    let n := if o.i64 then 8 else 4
    match o.getSpan s p die e (e.base + i * n : Nat) n true with
    | .miss m s => .miss m s
    | .fail c s => .fail c s
    | .ok (bs, o) s =>
      let r := o.src.base + wordOf bs * o.rowBytes
      match o.srcSize s p with
      | .error c => .fail c s
      | .ok n => if n < r + o.rowBytes then .fail .bounds s else .ok ((r : Int) + j, o) s

/-- The pages of an address's object between two offsets, each with the place at which it begins. -/
def State.pagesOf (s : State) (p : Part) (die : Nat) (e : EAddr) (lo hi : Int) : List (Nat × Place) :=
  if e.sp then []
  else match s.walkDesc p (ptrObj e.val) with
    | .error _ => []
    | .ok d =>
      let last := (if hi < (d.size : Int) then hi else (d.size : Int) - 1).toNat / 65536
      (span (lo.toNat / 65536) (last + 1 - lo.toNat / 65536)).filterMap (fun k =>
        match (s.translate die p (ptrObj e.val) d (65536 * k) false).1 with
        | .place pl _ => some (k, pl)
        | _ => none)

/-- The indexes of a `GTH`, as its list holds them now (R266). -/
def EngOp.indexes (o : EngOp) (s : State) (p : Part) (die : Nat) : List Nat :=
  match o.idx with
  | none => []
  | some e =>
    let n : Nat := if o.i64 then 8 else 4
    let pages := s.pagesOf p die e e.base (e.base + n * o.rows : Nat)
    let byte (a : Nat) : Byte :=
      if e.sp then ((s.scratchAddr o.cid o.wg a).map s.sramByte).getD 0
      else match pages.find? (fun q => q.1 == a / 65536) with
        | some (_, .hbm b) => s.hbmByte p.keyId (b + a % 65536)
        | some (_, pl) => (s.placeBytes p (match pl with
          | .hbm b => .hbm (b + a % 65536)
          | .modul h m b => .modul h m (b + a % 65536)
          | .host b => .host (b + a % 65536)) 1).headD 0
        | none => 0
    (List.range o.rows).map (fun i => wordOf ((span (e.base + n * i) n).map byte))

/-- Of a destination byte of row i, at an offset: whether it also lies in the source, which leaves it unspecified, and
whether an earlier row writes it too, between which no order holds (R269). -/
def EngOp.overlaps (o : EngOp) (s : State) (p : Part) (die : Nat) : Nat → Int → Bool × Bool :=
  let ends (base pitch : Int) : Int × Int :=
    let far := base + ((o.rows : Int) - 1) * pitch
    if far < base then (far, base + o.rowBytes) else (base, far + o.rowBytes)
  let ks := o.indexes s p die
  let (slo, shi) := match o.idx with
    | none => ends o.src.base o.spitch
    | some _ => ((o.src.base : Int), (o.src.base : Int) + (ks.foldl Nat.max 0 + 1) * o.rowBytes)
  let (dlo, dhi) := ends o.dst.base o.dpitch
  let inSrc (x : Int) : Bool := match o.idx with
    | none => rowsHit o.src.base o.spitch o.rows o.rowBytes x
    | some _ => decide ((o.src.base : Int) ≤ x) && ks.contains ((x - o.src.base).toNat / o.rowBytes)
  let sp := s.pagesOf p die o.src slo shi
  let dp := s.pagesOf p die o.dst dlo dhi
  let onto (q : List (Nat × Place)) (d : Int) : List Int :=
    match dp.find? (fun y => y.1 == d.toNat / 65536) with
    | none => []
    | some (_, pl) => (q.filter (fun y => y.2 = pl)).map (fun y => ((65536 * y.1 + d.toNat % 65536 : Nat) : Int))
  fun i d =>
    (o.src.sp == o.dst.sp && (if o.dst.sp then inSrc d else (onto sp d).any inSrc),
     decide (0 < i) && (if o.dst.sp then rowsHit o.dst.base o.dpitch i o.rowBytes d
       else (onto dp d).any (rowsHit o.dst.base o.dpitch i o.rowBytes)))

/-- The destination's rows in ascending order: the first one's offset, and their distance. -/
def EngOp.lowRow (o : EngOp) : Int × Int :=
  if o.dpitch < 0 then (o.dst.base + ((o.rows : Int) - 1) * o.dpitch, -o.dpitch) else (o.dst.base, o.dpitch)
/-- The first of the ascending rows that ends above an offset. -/
def EngOp.rowAbove (o : EngOp) (x : Int) : Nat :=
  let (b, q) := o.lowRow
  if x < b + o.rowBytes then 0 else if q = 0 then o.rows else ((x - b - o.rowBytes) / q + 1).toNat
/-- The first byte of the destination at an offset or above it. -/
def EngOp.nextByte (o : EngOp) (x : Nat) : Option Nat :=
  let k := o.rowAbove x
  if o.rowBytes = 0 ∨ o.rows ≤ k then none else some (Nat.max x (o.lowRow.1 + k * o.lowRow.2).toNat)
/-- The rows that have bytes in the sector from an offset on, in ascending number. -/
def EngOp.rowsIn (o : EngOp) (l : Nat) : List Nat :=
  let (b, q) := o.lowRow
  let lo := o.rowAbove l
  let hi := if q = 0 then o.rows else Nat.min o.rows (((l : Int) + 31 - b) / q + 1).toNat
  if o.dpitch < 0 then (span (o.rows - hi) (hi - lo)) else span lo (hi - lo)

/-- The bytes of some rows for the sector at `l` of the destination, by their offsets, and how many bytes of rows they
are. `hit` says what else touches a destination byte: one that lies in the source gets a free value, and one that an
earlier row has written keeps that row's value or takes this one's, by a free value (R269). -/
def EngOp.gather (p : Part) (die : Nat) (hit : Nat → Int → Bool × Bool) (l : Nat) :
    List Nat → SMap Byte → Nat → EngOp → State → ERes (SMap Byte × Nat × EngOp)
  | [], ws, n, o, s => .ok (ws, n, o) s
  | i :: r, ws, done, o, s =>
    let b : Int := (o.dst.base : Int) + i * o.dpitch
    let d := if b < l then l else b.toNat
    let j := ((d : Int) - b).toNat
    let n := Nat.min (o.rowBytes - j) (l + 32 - d)
    match o.srcAt s p die i j with
    | .miss m s => .miss m s
    | .fail c s => .fail c s
    | .ok (x, o) s =>
      match o.getSpan s p die o.src x n false with
      | .miss m s => .miss m s
      | .fail c s => .fail c s
      | .ok (bs, o) s =>
        let hs := (span d n).map (fun (a : Nat) => hit i a)
        let f := s.fresh
        let keep := (Config.freeWord f).getLsbD 0
        let s : State := if hs.any (fun h => h.1 || h.2) then { s with fresh := f + 1 + n } else s
        let ws := ((List.range n).zip (bs.zip hs)).foldl (fun (ws : SMap Byte) x =>
          let (k, v, h) := x
          if h.1 then SMap.put ws (d + k) ((Config.freeWord (f + 1 + k)).setWidth 8)
          else if h.2 && keep then ws else SMap.put ws (d + k) v) ws
        EngOp.gather p die hit l r ws (done + n) o s

/-- The stream that takes the pod-tier writes of an operation: that of its group's slot; a graph's node has none. -/
def EngOp.route (o : EngOp) (s : State) : Option Nat :=
  if o.node.isSome then none else (SMap.find? s.groups o.gid).bind (fun g => s.slotStream g o.slot)

/-- The operation moves bytes, one sector of its destination after the other in ascending order (R269), until `target` of
them are done, it misses a page or it fails (R272); with `podOk` false it stops before a destination in a pod tier. -/
def EngOp.move (p : Part) (die : Nat) (podOk : Bool) (hit : Nat → Int → Bool × Bool) (target : Nat) :
    Nat → EngOp → State → EngOp × State
  | 0, o, s => (o, s)
  | f + 1, o, s =>
    match o.nextByte o.pos with
    | none => (o, s)
    | some d =>
      let l := d / 32 * 32
      if target ≤ o.done || o.failed.isSome then (o, s)
      else match EngOp.gather p die hit l (o.rowsIn l) [] 0 o s with
        | .miss m s => o.missed s m
        | .fail c s => ({ o with failed := some c }, s)
        | .ok (ws, n, o1) s1 =>
          match o.put s1 p die o1.ts o.dst ws o.key with
          | .miss m s => o.missed s m
          | .fail c s => ({ o with failed := some c }, s)
          | .ok (t, w) s2 =>
            let q := { o1 with done := o.done + n, pos := l + 32, ts := t, pods := o.pods ++ w.toList }
            if w.isSome && (o.route s2).isNone then ({ o with failed := some .streamSeq }, s2)
            else if w.isSome && !podOk then (o, s)
            else EngOp.move p die podOk hit target f q s2

/-- A part of the barrier decrement, of at most 4,096 bytes (R267); one that is too large fails the operation (R272). -/
def EngOp.decrement (o : EngOp) (s : State) (n : Nat) : EngOp × State :=
  match o.txb with
  | none => ({ o with dec := o.dec + n }, s)
  | some off =>
    match s.scratchAddr o.cid o.wg off with
    | none => ({ o with dec := o.dec + n }, s)
    | some a =>
      match s.txbDecrement o.ts a n with
      | .ok (t, s) => ({ o with dec := o.dec + n, ts := t }, s)
      | .error c => ({ o with dec := o.total, failed := some (o.failed.getD c) }, s)
/-- The rest of the decrement, in parts (R267). -/
def EngOp.decrementAll : Nat → EngOp → State → EngOp × State
  | 0, o, s => (o, s)
  | f + 1, o, s =>
    if o.total ≤ o.dec then (o, s)
    else
      let (o, s) := o.decrement s (Nat.min 4096 (o.total - o.dec))
      EngOp.decrementAll f o s

/-- The head operation of a queue has been performed: its entry goes, and a fault is held for the group or faults the
node (R264, R272-R274). -/
def State.endOp (s : State) (gr q : Nat) (o : EngOp) : State :=
  let s := (s.setQueue gr q (((s.grove gr).queue q).drop 1)).modGrove gr (fun g => g.reach q o.ts)
  let s := match SMap.find? s.clusters o.cid with
    | some c => if o.node.isNone then s.modTask c.tid (fun t => { t with pts := tmax t.pts o.ts }) else s
    | none => s
  match o.failed, o.node with
  | none, none => s
  | none, some (gn, i) => s.nodeDone gn i o.ts
  | some c, some (gn, i) => s.nodeFail gn i c
  | some c, none => s.modGroup o.gid (fun g => { g with held := g.held ++ [{ code := c, addr := o.word, num := o.num }] })

/-- A pod-tier write of an operation enters its slot's stream (R269, R337). -/
def EngOp.send (o : EngOp) (s : State) (w : EngPod) (hold : Bool) : Option (Nat × Nat) × State :=
  match SMap.find? s.groups o.gid, o.route s with
  | some g, some sid =>
    let (k, s) := s.streamPut o.gid o.slot sid o.part (s.rcbOf g) w.dest (.write w.bytes w.key) o.word 0 false (some o.num) hold w.layout
    (some (sid, k), s)
  | _, _ => (none, s)

/-- The completion word as a write (R267). -/
def EngOp.putCw (o : EngOp) (s : State) (p : Part) (die : Nat) (e : EAddr) (v : Word) : ERes (Time × Option EngPod) :=
  o.put s p die o.ts e (addrBytes e.base (bytesOf 8 v.toNat)) false
/-- The completion word of an operation that has pod-tier writes, if it lies in a pod tier too; a page that it waits
for. -/
def EngOp.podCw (o : EngOp) (s : State) (p : Part) (die : Nat) : ERes (Option EngPod) :=
  match o.cw with
  | none => .ok none s
  | some (e, v) =>
    match o.putCw s p die e v with
    | .ok (_, w) _ => .ok w s
    | .miss m s => .miss m s
    | .fail _ _ => .ok none s

/-- The pod-tier writes enter the stream of the operation's slot in ascending destination address, and a pod-tier
completion word behind them, where it is held (R269). -/
def EngOp.flush (o : EngOp) (s : State) (p : Part) (die : Nat) : EngOp × State :=
  if o.pods.isEmpty then ({ o with flushed := true }, s)
  else
    let cw : ERes (Option EngPod) := if o.failed.isSome then .ok none s else o.podCw s p die
    match cw with
    | .miss m s => o.missed s m
    | .fail _ s => (o, s)
    | .ok cw s =>
      if (o.route s).isNone then ({ o with flushed := true, pods := [], failed := some (o.failed.getD .streamSeq) }, s)
      else
        let (seqs, s) := o.pods.foldl (fun (x : List (Nat × Nat) × State) w =>
          let (k, s) := o.send x.2 w false
          (x.1 ++ k.toList, s)) (o.seqs, s)
        let (k, s) := match cw with
          | some w => o.send s w true
          | none => (none, s)
        ({ o with flushed := true, pods := [], seqs, cwSeq := k }, s)

/-- A stream operation is not acknowledged. -/
def State.opPending (s : State) (k : Nat × Nat) : Bool :=
  ((SMap.find? s.streams k.1).map (fun x => x.ops.any (fun y => y.seq == k.2))).getD false
/-- Some write of an engine operation waits for its stream or is not acknowledged. -/
def EngOp.unacked (o : EngOp) (s : State) : Bool := !o.pods.isEmpty || o.seqs.any s.opPending

/-- A completion word held in a stream is let go, or dropped where its operation has failed (R267, R272). -/
def State.freeCw (s : State) (k : Nat × Nat) (fail : Bool) : State :=
  s.modStream k.1 (fun x =>
    if fail then x.drop (fun o => o.seq == k.2 && o.hold)
    else { x with ops := x.ops.map (fun o => { o with hold := o.hold && o.seq != k.2 }) })

/-- The completion word is stored (R267): at once, or as an operation of the stream; none where the operation failed
(R272). -/
def EngOp.complete (o : EngOp) (s : State) (p : Part) (die : Nat) : EngOp × State :=
  match o.cwSeq, o.cw with
  | some k, _ =>
    if o.failed.isSome then ({ o with cwSeq := none }, s.freeCw k true)
    else if s.opPending k then (o, s.freeCw k false)
    else ({ o with cwDone := true }, s)
  | none, none => ({ o with cwDone := true }, s)
  | none, some (e, v) =>
    if o.failed.isSome then (o, s)
    else match o.putCw s p die e v with
      | .miss m s => o.missed s m
      | .fail c s => ({ o with failed := some c }, s)
      | .ok (t, none) s => ({ o with ts := t, cwDone := true }, s)
      | .ok (t, some w) s =>
        match o.send s w false with
        | (some k, s) => ({ o with ts := t, cwSeq := some k }, s)
        | (none, s) => ({ o with failed := some .streamSeq }, s)

/-- The end of a started operation as far as it can come (R267, R272): the rest of the bytes, the pod-tier writes and
their acknowledgements, the rest of the decrement, the completion word. -/
def State.finishOp (s : State) (gr q : Nat) (o : EngOp) (p : Part) : State :=
  let die := groveDie gr
  let (o, s) := if o.failed.isSome then (o, s) else EngOp.move p die true (o.overlaps s p die) o.total (o.total + 1) o s
  if o.failed.isNone && decide (o.done < o.total) then s.setHead gr q o
  else
    let (o, s) := if o.flushed then (o, s) else o.flush s p die
    if !o.flushed || o.unacked s then s.setHead gr q o
    else
      let (o, s) := o.decrementAll (o.total + 1) s
      let (o, s) := if o.cwDone then (o, s) else o.complete s p die
      if o.failed.isNone && !o.cwDone || o.cwSeq.any s.opPending then s.setHead gr q o else s.endOp gr q o

/-- An engine operation is performed (R267), as far as pages and streams allow: one that waits for a page goes on with the
answer (R272). -/
def execEngineOpPerformed (grove q : Nat) (s : State) : Host.Outcome State Fault Refusal :=
  .next (match s.headOp grove q with
    | none => s
    | some o =>
      match SMap.find? s.parts o.part with
      | none => s
      | some p => if o.started && o.miss.isNone then s.finishOp grove q o p else s)

/-- An engine has moved some more bytes, all of them written, and applies that part of the decrement (R267); `n` is the
device's choice. -/
def execTxbDecrement (grove q n : Nat) (s : State) : Host.Outcome State Fault Refusal :=
  .next (match s.headOp grove q with
    | none => s
    | some o =>
      match SMap.find? s.parts o.part with
      | none => s
      | some p =>
        if !o.started || o.miss.isSome || o.failed.isSome || o.unacked s || n = 0 || decide (4096 < n)
            || decide (o.total < o.dec + n) then s
        else
          let (o, s) := EngOp.move p (groveDie grove) false (o.overlaps s p (groveDie grove)) (o.dec + n) (o.total + 1) o s
          if o.failed.isSome || decide (o.done < o.dec + n) then s.setHead grove q o
          else
            let (o, s) := o.decrement s n
            s.setHead grove q o)

end Sys2Proof.Machine
end

