-- ==== Sys2Proof/Machine/LaneCtl.lean ====
section
/-! DEFINITION. Leaf control and lane state: branches, joins, ends, traps (spec/07_lane_arithmetic.md R138-R143),
full/empty marks (R113), index registers (R110), flags and thread identity (R154). -/
namespace Sys2Proof.Machine

/-! ## Control -/

/-- An offset of leaf code moved by a displacement, modulo 2^21 (R138). -/
def leafTarget (off : Nat) (d : BitVec 18) : Nat := (((off : Int) + d.toInt) % (2 ^ 21 : Int)).toNat

/-- What `BRA` does to the group; none for an overflow of the divergence stack (R139). -/
def Group.branch (g : Group) (c : LCtx) (t : Mask) (target reconv : Nat) : Option Group :=
  match g.slot c.slot with
  | none => some g
  | some p =>
    let n := p.mask &&& ~~~t
    if n = 0 then some (g.setSlot c.slot (some { p with off := target }))
    else if t = 0 then some (g.setSlot c.slot (some { p with off := c.next }))
    else
      let same := match p.jrec.bind g.findRec with
        | some r => r.reconv == reconv
        | none => false
      let other := 1 - c.slot
      let need := (if same then 0 else 1) + (if (g.slot other).isSome then 1 else 0)
      if 64 < g.stack.length + need then none
      else
        let (k, g) : Option Nat × Group :=
          if same then (p.jrec, g)
          else (some g.nextRec, { g with
            nextRec := g.nextRec + 1
            stack := .join { id := g.nextRec, reconv, expected := p.mask, arrived := 0, parent := p.jrec } :: g.stack })
        let g := g.setSlot c.slot (some { off := c.next, mask := n, jrec := k })
        let q : Path := { off := target, mask := t, jrec := k }
        some (match g.slot other with
          | none => g.setSlot other (some q)
          | some _ => { g with stack := .spill q :: g.stack })

/-- `BRA` (R138, R139). -/
def execBra (c : Ctl) (s1 : Opnd) (disp recdisp : BitVec 18) (s : State) : Host.Outcome State Fault Refusal :=
  runLeaf s c (fun c g _ s =>
    let t := c.takers &&& (match s1 with
      | .pred p => g.preg p.toNat
      | _ => 0xFFFFFFFF)
    match g.branch c t (leafTarget c.off disp) (leafTarget c.off recdisp) with
    | some g => .moved (s.putGroup c.gid g) []
    | none => .done s 1 ((threadsOf c.mask).map (fun t => { thread := t, code := .divergeOverflow })))

/-- The taking threads leave the path by some operation; the others go on (R141). -/
def leaveOp (s : State) (w : Leaf) (f : Group → LCtx → Group) : Host.Outcome State Fault Refusal :=
  runLeaf s w.ctl (fun c g _ s => .moved (s.putGroup c.gid (f (g.advance c.slot c.next) c)) [])

/-- `JOIN` (R141). -/
def execJoin (w : Leaf) (s : State) : Host.Outcome State Fault Refusal :=
  leaveOp s w (fun g c => if c.takers = 0 then g else g.arriveMask c.slot c.takers)
/-- `LEND` (R141). -/
def execLend (w : Leaf) (s : State) : Host.Outcome State Fault Refusal :=
  leaveOp s w (fun g c => g.endThreads c.slot c.takers true)
/-- `LEXIT` (R141). -/
def execLexit (w : Leaf) (s : State) : Host.Outcome State Fault Refusal :=
  leaveOp s w (fun g c => g.endThreads c.slot c.takers false)

/-- Every taking thread raises a fault at the instruction. -/
def trapOp (s : State) (w : Leaf) (code : Code) (sw : Nat) : Host.Outcome State Fault Refusal :=
  runLeaf s w.ctl (fun c _ _ s => .done s 1 ((threadsOf c.takers).map (fun t => { thread := t, code, sw })))
/-- `LTRAP` (R143). -/
def execLtrap (w : Leaf) (s : State) : Host.Outcome State Fault Refusal :=
  trapOp s w .trap (((w.imm.getD 0).toNat) % 2 ^ 16)
/-- `LBRK` (R141). -/
def execLbrk (w : Leaf) (s : State) : Host.Outcome State Fault Refusal := trapOp s w .brk 0

/-! ## Full/empty marks (R113) -/

/-- A lane instruction that changes its group thread by thread, once R112 lets it execute. -/
def eachOp (s : State) (w : Leaf) (ss : List Src) (ds : List Opnd) (f : Group → Run → Nat → Group → Group) :
    Host.Outcome State Fault Refusal :=
  runLeaf s w.ctl (fun c g r s =>
    match prepare g r c.takers ss ds with
    | .wait => .wait
    | .go ts fs => .done (s.putGroup c.gid (ts.foldl (fun g1 t => f g r t g1) g)) 1 fs)

/-- `FEMK.test` (R113): its register must resolve (R102, R109); it never waits and never traps. -/
def execFemkTest (w : Leaf) (s : State) : Host.Outcome State Fault Refusal :=
  runLeaf s w.ctl (fun c g r s =>
    let fs := (threadsOf c.takers).filterMap (fun t => rangeFault g r t [w.s1])
    let ts := (threadsOf c.takers).filter (fun t => (rangeFault g r t [w.s1]).isNone)
    .done (s.putGroup c.gid (ts.foldl (fun (g1 : Group) t =>
      g1.writeDest g r w.d t (if g.isEmpty (regOf g r t w.s1) t then 0 else 1)) g)) 1 fs)

/-- The fault of a thread that names registers from its operand on, some of them outside (R102, R404). -/
def spanFault (g : Group) (r : Run) (t : Nat) (x : Opnd) (n : Nat) : Option TFault :=
  match resolveReg g r t x with
  | .error k => some { thread := t, code := .indexRange, info := BitVec.ofNat 64 k }
  | .ok (some b) =>
    if 8 * g.chunks < b + n then some { thread := t, code := .indexRange, info := BitVec.ofNat 64 (Nat.max b (8 * g.chunks)) }
    else none
  | .ok none => none

/-- Registers named by a counted `FEMK` (R113): func[15:13] is the count less one. -/
def femkCount (w : Leaf) : Nat := w.opx.toNat / 4 + 1

/-- The counted forms (R113); `full` waits for the pending fills of the named registers. -/
def femkOp (s : State) (w : Leaf) (full : Bool) : Host.Outcome State Fault Refusal :=
  runLeaf s w.ctl (fun c g r s =>
    let n := femkCount w
    let fs := (threadsOf c.takers).filterMap (fun t => spanFault g r t w.d n)
    let ts := (threadsOf c.takers).filter (fun t => (spanFault g r t w.d n).isNone)
    let regs (t : Nat) : List Nat := span (regOf g r t w.d) n
    if full && ts.any (fun t => (regs t).any (fun k => (g.lreg k t).fe == .pending)) then .wait
    else
      .done (s.putGroup c.gid (ts.foldl (fun g1 t => (regs t).foldl (fun (g1 : Group) k =>
        let x := g1.lreg k t
        if full then g1.setLreg k t { x with fe := .full }
        else if x.fe = .pending then g1
        else g1.setLreg k t { x with fe := .empty }) g1) g)) 1 fs)

/-- `FEMK.empty` (R113). -/
def execFemkEmpty (w : Leaf) (s : State) : Host.Outcome State Fault Refusal := femkOp s w false
/-- `FEMK.full` (R113). -/
def execFemkFull (w : Leaf) (s : State) : Host.Outcome State Fault Refusal := femkOp s w true

/-! ## Index registers (R110) -/

/-- The index register that func[12:11] names (R110). -/
def xmovReg (w : Leaf) : Nat := w.opx.toNat % 4

/-- `XMOV` to an index register: from its old value and the source (R110). -/
def xmovOp (s : State) (o : LOp) (w : Leaf) (f : BitVec 16 → BitVec 16 → BitVec 16) : Host.Outcome State Fault Refusal :=
  eachOp s w (leafSrcs w) [] (fun g r t g1 =>
    g1.setXv (xmovReg w) t (f (g.xv (xmovReg w) t) ((argA o w g r t).setWidth 16)))

/-- `XMOV`, set (R110). -/
def execXmovSet (w : Leaf) (s : State) : Host.Outcome State Fault Refusal := xmovOp s .xmovSet w (fun _ x => x)
/-- `XMOV.add` (R110). -/
def execXmovAdd (w : Leaf) (s : State) : Host.Outcome State Fault Refusal := xmovOp s .xmovAdd w (fun v x => v + x)
/-- `XMOV`, read (R110). -/
def execXmovRead (w : Leaf) (s : State) : Host.Outcome State Fault Refusal :=
  eachOp s w [] [w.d] (fun g r t g1 => g1.writeDest g r w.d t ((g.xv (xmovReg w) t).setWidth 64))

/-! ## Thread identity and flags (R154) -/

/-- The thread and pair numbers that thread t reads: in a host group, of the thread at home (R154, R364). -/
def Group.threadId (g : Group) (t : Nat) : Nat × Nat :=
  match g.host with
  | some h => let u := ((h.buds[t]?).map (·.sthread)).getD 0
    (u, u)
  | none => (t, 32 * g.idx + t)
/-- `SREADL.thread` (R154). -/
def execSreadlThread (w : Leaf) (s : State) : Host.Outcome State Fault Refusal :=
  eachOp s w [] [w.d] (fun g r t g1 => g1.writeDest g r w.d t (BitVec.ofNat 64 (g.threadId t).1))
/-- `SREADL.pair` (R154). -/
def execSreadlPair (w : Leaf) (s : State) : Host.Outcome State Fault Refusal :=
  eachOp s w [] [w.d] (fun g r t g1 => g1.writeDest g r w.d t (BitVec.ofNat 64 (g.threadId t).2))
/-- `SREADL.flags` (R154). -/
def execSreadlFlags (w : Leaf) (s : State) : Host.Outcome State Fault Refusal :=
  eachOp s w [] [w.d] (fun g r t g1 => g1.writeDest g r w.d t (g.flags.setWidth 64))
/-- `SREADL.flagsclr` (R154): the flags are cleared after the read, when some thread takes part; where every taking thread
faults `INDEX_RANGE` none is left to execute it (R112), and they stay (DEDUCED, log entry 118). -/
def execSreadlFlagsclr (w : Leaf) (s : State) : Host.Outcome State Fault Refusal :=
  eachOp s w [] [w.d] (fun g r t g1 => { g1.writeDest g r w.d t (g.flags.setWidth 64) with flags := 0 })

end Sys2Proof.Machine
end

