-- ==== Sys2Proof/Machine/Matrix.lean ====
section
/-! DEFINITION. Operand buffers and the matrix arrays (spec/13_matrix.md R235-R262). -/
namespace Sys2Proof.Machine

/-! ## Ranges of an operand buffer (R235-R238) -/

/-- The formats of a matrix operand (R238). -/
def mxTy : Nat → Option Ty
  | 3 => some .b8
  | 6 => some .f16
  | 7 => some .bf16
  | 8 => some .e4m3
  | 9 => some .e5m2
  | 10 => some .pb8
  | 11 => some .pb6
  | 12 => some .pb4
  | _ => none

/-- Bytes of a line of the operand as it is packed (R238). -/
def lineBytes (ty : Ty) (depth : Nat) : Nat := (depth * Ty.width ty + 7) / 8
/-- Bytes of the scale array of an operand (R238). -/
def scaleBytes (ty : Ty) (lines depth blk : Nat) : Nat := if Ty.isPb ty then 2 * lines * depth / blk else 0
/-- Units of 4 KiB that an operand needs (R238). -/
def unitsNeeded (ty : Ty) (lines depth blk : Nat) : Nat :=
  (lines * lineBytes ty depth + scaleBytes ty lines depth blk + 4095) / 4096

/-- The multiples that a format asks of the depth (R238). -/
def depthOk (ty : Ty) (depth blk : Nat) : Bool :=
  match ty with
  | .pb8 => depth % blk == 0
  | .pb6 => depth % blk == 0 && depth % 8 == 0
  | .pb4 => depth % blk == 0 && depth % 2 == 0
  | _ => true

/-- The record that `OBRES` would write, from a[b], the shape word, a[b + 2], a[b + 3] and its units; none for
`OB_FORMAT` (R238, R239 step 3). -/
def parseShape (src : Word) (w so pitch units : Nat) : Option Range :=
  match mxTy (bits w 32 4) with
  | none => none
  | some ty =>
    let lines := bits w 0 16
    let depth := bits w 16 16
    let code := bits w 36 2
    let pb := Ty.isPb ty
    let blk := 8 * 2 ^ code
    if bits w 40 24 != 0 || bit w 38 || (bit w 39 && ty != .b8) || (if pb then code == 3 else code != 0)
        || depth == 0 || lines == 0 || decide (4096 < lines) || !depthOk ty depth blk
        || (!pb && so != 0) || (pitch != 0 && decide (pitch < lineBytes ty depth))
        || decide (units < unitsNeeded ty lines depth blk) then none
    else some { ty, sgn := bit w 39, blk := if pb then blk else 0, lines, depth, src, scale := so,
                pitch := if pitch = 0 then lineBytes ty depth else pitch, units, keyh := none, isSealed := false }

/-- The end of the bytes of a source from its pointer's offset on: lines and scale array (R238). -/
def Range.srcEnd (r : Range) : Nat :=
  Nat.max ((r.lines - 1) * r.pitch + lineBytes r.ty r.depth)
    (if Ty.isPb r.ty then r.scale + scaleBytes r.ty r.lines r.depth r.blk else 0)

/-- Steps 5 to 7 of R239: the source's descriptor or the fault. -/
def State.rangeSrc (s : State) (core : Nat) (p : Part) (r : Range) : Except Code Desc :=
  match s.postDesc core p { sp := false, val := r.src } with
  | .error c => .error c
  | .ok none => .error .objInvalid
  | .ok (some d) =>
    if !d.r || !d.e || ptrNE r.src then .error .rights
    else if d.size < ptrOff r.src + r.srcEnd then .error .bounds
    else .ok d

/-- The workgroup of a group holds the slice of its core (R235). -/
def State.holdsSlice (s : State) (g : Group) : Bool := g.host.isNone && ((s.wg? g.cid g.wg).map (·.slice)).getD false
/-- A range of a group's workgroup. -/
def State.rangeOf (s : State) (g : Group) (ob : Nat) : Option Range :=
  (s.wg? g.cid g.wg).bind (fun w => SMap.find? w.ranges ob)
/-- Operand-buffer units of a group's task (R23). -/
def State.obuOf (s : State) (g : Group) : Nat := ((s.taskOf g).map (·.obu)).getD 0

/-- `OBRES` (R239). -/
def execObres (b : BitVec 5) (units : BitVec 8) (ob : BitVec 4) (s : State) : Host.Outcome State Fault Refusal :=
  runStem s (fun _ g s =>
    let a (i : Nat) : Word := g.areg (b.toNat + i)
    if !s.holdsSlice g then .fault s (g.fault .budget)
    else if (s.rangeOf g ob.toNat).isSome then .fault s (g.fault .obBusy)
    else match parseShape (a 0) (a 1).toNat (a 2).toNat (a 3).toNat units.toNat, SMap.find? s.parts g.part with
      | none, _ => .fault s (g.fault .obFormat)
      | some r, some p =>
        let used := (((s.wg? g.cid g.wg).map (fun w => (w.ranges.map (fun e => e.2.units)).sum)).getD 0)
        if s.obuOf g < used + r.units then .fault s (g.fault .budget)
        else match s.rangeSrc g.coreN p r with
          | .error c => .fault s (g.fault c r.src)
          | .ok d =>
            let r := { r with keyh := if d.lkey then some d.keyh else none, isSealed := d.isSealed }
            .next (s.modWg g.cid g.wg (fun w => { w with ranges := SMap.put w.ranges ob.toNat r }))
      | some _, none => .fault s (g.fault .objInvalid))

/-- What a fill reads of its source: the lines and the scale array (R240). -/
def Range.touch (r : Range) : List PostAddr :=
  let sc := r.src + BitVec.ofNat 64 r.scale
  [{ at_ := { sp := false, val := r.src }, rows := r.lines, rb := lineBytes r.ty r.depth, pitch := r.pitch },
   { at_ := { sp := false, val := sc }, rb := scaleBytes r.ty r.lines r.depth r.blk }]

/-- The checks of `OBFILL` on its range and source, steps 2 to 5 of R240; a present page in a two-hop tier counts as an
invalid object, as for an engine read (R268, R445). -/
def State.fillCheck (s : State) (core : Nat) (p : Part) (r : Range) : Option Code :=
  if r.st = .stale then some .obStale
  else match s.rangeSrc core p r with
    | .error c => some c
    | .ok d =>
      if (r.touch.flatMap (fun a => s.postTiers (coreDie core) p a d)).contains 2 then some .objInvalid
      else if keyClass p d = .mismatch ∨ (if d.lkey then some d.keyh else none) ≠ r.keyh ∨ d.isSealed ≠ r.isSealed then
        some .sealKey
      else match r.keyh with
        | some h => if (installedKey p h).isSome then none else some .keyInvalid
        | none => none

/-- `OBFILL` (R240); its word waits for the accesses that those of the fill follow (R90, R305). -/
def execObfill (b : BitVec 5) (ob : BitVec 4) (s : State) : Host.Outcome State Fault Refusal :=
  runStem s (fun gid g s =>
    let x := g.areg b.toNat
    if !s.holdsSlice g then .fault s (g.fault .budget)
    else match s.rangeOf g ob.toNat, SMap.find? s.parts g.part with
      | some r, some p =>
        match s.fillCheck g.coreN p r with
        | some c => .fault s (g.fault c (if c = .obStale ∨ c = .keyInvalid then 0 else r.src))
        | none =>
          let go (txb : Option Nat) : StemRes :=
            let (n, s) := s.newId
            let f : ObFill := { gid, cid := g.cid, wg := g.wg, core := g.coreN, ob := ob.toNat, txb, word := g.pc,
                                ts := s.pts g.coreN, lease := g.lease, num := n }
            let s := s.modGrove (coreGrove g.coreN) (fun x => { x with obFills := x.obFills ++ [f] })
            .next (s.modWg g.cid g.wg (fun w => { w with
              ranges := SMap.put w.ranges ob.toNat { r with st := .filling } }))
          let go (txb : Option Nat) : StemRes := if s.afterRuns gid g then go txb else .wait s
          if x = BitVec.allOnes 64 then go none
          else match s.checkScratch g x.toInt 16 16 with
            | .error c => .fault s (g.fault c x)
            | .ok _ => go (some x.toNat)
      | _, _ => .fault s (g.fault .obStale))

/-- A pass takes an operand from a range of the slice (R242, R250). -/
def MxSrc.names (ob : Nat) : MxSrc → Bool
  | .range o _ _ => o == ob
  | _ => false
/-- A posted pass names a range of a slice. -/
def Pass.names (x : Pass) (core ob : Nat) : Bool := !x.dead && x.core == core && (x.a.names ob || x.b.names ob)

/-- `OBREL` (R242). -/
def execObrel (ob : BitVec 4) (s : State) : Host.Outcome State Fault Refusal :=
  runStem s (fun _ g s =>
    let gr := s.grove (coreGrove g.coreN)
    if !s.holdsSlice g then .fault s (g.fault .budget)
    else if gr.passes.any (fun x => x.names g.coreN ob.toNat)
        || gr.obFills.any (fun f => f.core == g.coreN && f.ob == ob.toNat) then .wait s
    else .next (s.modWg g.cid g.wg (fun w => { w with ranges := SMap.erase w.ranges ob.toNat })))

/-! ## Fills (R240, R241) -/

/-- The lines of a source from line i on. -/
def State.fillLines (p : Part) (rd : EngRd) (r : Range) : (fuel i : Nat) → List Byte → Time → State →
    ERes (List Byte × Time)
  | 0, _, acc, t, s => .ok (acc, t) s
  | f + 1, i, acc, t, s =>
    let n := lineBytes r.ty r.depth
    match State.engSpan p rd (ptrObj r.src) (n + 1) (ptrOff r.src + i * r.pitch) n acc t s with
    | .ok (acc, t) s => State.fillLines p rd r f (i + 1) acc t s
    | x => x

/-- The contents of a range from its source: lines and scales, decrypted with the record's key (R240); `who` as for an
engine's read. -/
def State.readRange (s : State) (p : Part) (die : Nat) (lease : BitVec 8) (t : Time) (r : Range)
    (who : Option (Nat × Nat) := none) : ERes (Range × Time) :=
  let rd : EngRd := { die, lease, kind := .obFill, key := .fixed r.keyh, who }
  match State.fillLines p rd r r.lines 0 [] t s with
  | .miss m s => .miss m s
  | .fail c s => .fail c s
  | .ok (data, t) s =>
    let n := scaleBytes r.ty r.lines r.depth r.blk
    match State.engSpan p rd (ptrObj r.src) (n + 1) (ptrOff r.src + r.scale) n [] t s with
    | .miss m s => .miss m s
    | .fail c s => .fail c s
    | .ok (scales, t) s => .ok ({ r with data, scales, bad := [], st := .filled }, t) s

/-- The decrement of a fill, after its reads: the range's units of 4 KiB (R240, R305); a PEND too small is a held
fault. -/
def State.fillDecrement (s : State) (f : ObFill) (t : Time) (units : Nat) : Option Code × State :=
  match f.txb with
  | none => (none, s)
  | some off =>
    match s.scratchAddr f.cid f.wg off with
    | none => (none, s)
    | some a => match s.txbDecrement t a (4096 * units) with
      | .ok (_, s) => (none, s)
      | .error c => (some c, s)

/-- A fill is over: its range, its decrement, a fault held for its group (R240, R241, R257). -/
def State.endFill (s : State) (f : ObFill) (t : Time) (r : Range) (c : Option Code) : State :=
  let gr := coreGrove f.core
  let s := s.modGrove gr (fun x => { x with obFills := x.obFills.filter (fun y => y.num != f.num) })
  let more := (s.grove gr).obFills.any (fun y => y.core == f.core && y.ob == f.ob)
  let r := if r.st = .filled ∧ more then { r with st := .filling } else r
  let s := s.modWg f.cid f.wg (fun w => { w with ranges := SMap.put w.ranges f.ob r })
  let (d, s) := s.fillDecrement f t r.units
  match c.or d with
  | none => s
  | some c => s.modGroup f.gid (fun g => { g with
      held := g.held ++ [{ code := c, addr := f.word, mx := some 64, num := f.num }] })

/-- The next fill of a range completes or fails, or finds a page absent (R240, R241). -/
def execObFillComplete (core ob : Nat) (s : State) : Host.Outcome State Fault Refusal :=
  .next (match (s.grove (coreGrove core)).obFills.find? (fun f => f.core == core && f.ob == ob) with
    | none => s
    | some f =>
      match (s.wg? f.cid f.wg).bind (fun w => SMap.find? w.ranges ob) with
      | none => s
      | some r =>
        let stale : Range := { r with st := .stale, data := [], scales := [], bad := [] }
        let part := ((SMap.find? s.groups f.gid).map (·.part)).getD 0
        match SMap.find? s.parts part, f.failed with
        | none, _ => s
        | _, some c => s.endFill f f.ts stale (some c)
        | some p, none =>
          if f.miss.isSome then s
          else if r.st = .stale then s.endFill f f.ts stale none
          else match s.readRange p (coreDie core) f.lease f.ts r (some (f.gid, f.num)) with
            | .ok (r, t) s => s.endFill f t r none
            | .fail c s => s.endFill f f.ts stale (some c)
            | .miss m s => if m.down then s else
              let s := s.modGrove (coreGrove core) (fun x => { x with obFills := x.obFills.map (fun y =>
                if y.num = f.num then { y with miss := some (m.miss.obj, m.miss.page) } else y) })
              if m.miss.mig then s else s.request part m.miss.obj m.miss.page m.kind m.first m.mal (2 * f.gid))

/-! ## MX (R243-R249) -/

/-- An operand of a pass as its two registers describe it (R244). -/
structure MxOpnd where
  kind : ASrc
  ty : Ty
  sgn : Bool
  blk : Nat := 0
  ob : Nat := 0
  line : Nat := 0
  k0 : Nat := 0
  base : Nat := 0
  rot : Nat := 0
  lp : Nat := 0
  tp : Nat := 0
  reg : Nat := 0
  deriving DecidableEq, Repr

/-- The operand that two registers describe; none where a field is reserved or a format not allowed (R244, R247 step
3). -/
def parseOpnd (kind : ASrc) (w0 w1 : Nat) (rng : Nat → Option Range) : Option MxOpnd :=
  match kind with
  | .ob =>
    let r := rng (bits w0 0 4)
    match mxTy (bits w0 4 4) with
    | none => none
    | some ty =>
      if bits w0 8 8 != 0 || bits w0 52 12 != 0 || w1 != 0 || (match r with
          | some r => r.ty != ty
          | none => false) then none
      else some { kind, ty, sgn := (r.map (·.sgn)).getD false, blk := (r.map (·.blk)).getD 0, ob := bits w0 0 4,
                  line := bits w0 16 16, k0 := bits w0 32 20 }
  | .sp =>
    match mxTy (bits w0 26 4) with
    | none => none
    | some ty =>
      if Ty.isPb ty || (bit w0 30 && ty != .b8) || bits w0 31 33 != 0 || bits w1 44 20 != 0
          || decide (8 < bits w0 22 4) then none
      else some { kind, ty, sgn := bit w0 30, base := bits w0 0 22, rot := bits w0 22 4, lp := bits w1 0 22,
                  tp := bits w1 22 22 }
  | .lr =>
    match mxTy (bits w0 7 4) with
    | none => none
    | some ty =>
      if Ty.isPb ty || (bit w0 11 && ty != .b8) || bits w0 12 52 != 0 || w1 != 0 then none
      else some { kind, ty, sgn := bit w0 11, reg := bits w0 0 7 }

/-- Chunk size of a format pair (R245). -/
def chunkOf (a b : Ty) : Nat :=
  if a = .f16 ∨ a = .bf16 ∨ b = .f16 ∨ b = .bf16 then 16 else if a = .pb4 ∧ b = .pb4 then 64 else 32
/-- Registers of a lane source (R244). -/
def laneRegs (x : MxOpnd) (k : Nat) : Nat := if x.kind = .lr then k * Ty.width x.ty / 64 else 0
/-- The format pair and K are allowed (R245, R247 step 3). -/
def pairOk (a b : MxOpnd) (k : Nat) : Bool :=
  (a.ty == .b8) == (b.ty == .b8) && k % chunkOf a.ty b.ty == 0 && decide (laneRegs a k ≤ 16)
    && [a, b].all (fun x => x.blk == 0 || (x.k0 % x.blk == 0 && k % x.blk == 0))

/-- Offset of an element of a scratch operand (R246). -/
def elemOff (base rot lp tp bytes i k : Nat) : Nat :=
  let n := 64 / bytes
  let o := base + i * lp + k / n * tp + k % n * bytes
  if rot = 0 then o else o ^^^ (i / 2 ^ (rot - 1) % 8 * 16)

/-- Step 6 of R247 for an operand: the fault, with the base offset. -/
def scratchOpnd (x : MxOpnd) (lines k win : Nat) : Option Code :=
  if x.kind != .sp then none
  else if x.base % 16 != 0 || x.lp % 16 != 0 || x.tp % 16 != 0 then some .misalign
  else
    let b := Ty.width x.ty / 8
    if (List.range lines).any (fun i => (List.range k).any (fun j =>
        decide (win < elemOff x.base x.rot x.lp x.tp b i j + b))) then some .bounds
    else none

/-- The first marked register of a lane source: the lowest register of the lowest thread (R248). -/
def firstMark (g : Group) (r n : Nat) : Option (Nat × Mark) :=
  allThreads.findSome? (fun t => (span r n).findSome? (fun k => ((g.lreg k t).mark).map (fun m => (k, m))))

/-- What a checked operand becomes in the pass (R248). -/
def MxOpnd.src (x : MxOpnd) (g : Group) (k : Nat) : MxSrc :=
  match x.kind with
  | .ob => .range x.ob x.line x.k0
  | .sp => .scratch x.base x.rot x.ty x.sgn x.lp x.tp
  | .lr => .regs x.ty x.sgn (allThreads.map (fun t => (span x.reg (laneRegs x k)).map (fun n => (g.lreg n t).val)))

/-- Step 2 of R247: a wide pass is led by group 0 of the holder on core 0 or 2, and the next core's slice is held in the
same cluster. -/
def State.wideOk (s : State) (g : Group) : Bool :=
  g.idx == 0 && g.coreN % 2 == 0 && (match SMap.find? s.clusters g.cid with
    | some c => c.wgs.any (fun w => w.core == some (g.coreN + 1) && w.slice)
    | none => false)

/-- The checks of R247 on the operands, steps 3 to 7; the fault and its INFO. DESIGN CHOICE (log entry 123): with both
operands from scratch, step 6 is made whole for A and then for B. -/
def mxChecks (a b : Option MxOpnd) (rng : Nat → Option Range) (k bl win chunks : Nat) : Option (Code × Nat) :=
  match a, b with
  | some a, some b =>
    if !pairOk a b k then some (.obFormat, 0)
    else
      let obs := [(a, 32), (b, bl)].filter (fun x => x.1.kind == .ob)
      if obs.any (fun x => match rng x.1.ob with
          | some r => r.st == .stale
          | none => true) then some (.obStale, 0)
      else if obs.any (fun x => match rng x.1.ob with
          | some r => decide (r.lines < x.1.line + x.2) || decide (r.depth < x.1.k0 + k)
          | none => false) then some (.bounds, 0)
      else match (scratchOpnd a 32 k win).map (fun c => (c, a.base)) with
        | some e => some e
        | none =>
          match (scratchOpnd b bl k win).map (fun c => (c, b.base)) with
          | some e => some e
          | none =>
            if a.kind = .lr ∧ 8 * chunks < a.reg + laneRegs a k then some (.indexRange, Nat.max a.reg (8 * chunks))
            else none
  | _, _ => some (.obFormat, 0)

/-- Entries of a reservation table (R249). -/
def tableDepth : Nat := 32

/-- `MX` (R243-R249). -/
def execMx (b : BitVec 5) (k : BitVec 10) (bsp : Bool) (asrc : ASrc) (acc wide : Bool) (tile : BitVec 6) (s : State) :
    Host.Outcome State Fault Refusal :=
  runStem s (fun gid g s =>
    let r (i : Nat) : Nat := (g.areg (b.toNat + i)).toNat
    let kk := 16 * k.toNat
    let rng := s.rangeOf g
    let oa := parseOpnd asrc (r 0) (r 1) rng
    let ob := parseOpnd (if bsp then .sp else .ob) (r 2) (r 3) rng
    if !s.holdsSlice g then .fault s (g.fault .budget)
    else if wide && !s.wideOk g then .fault s (g.fault .rights)
    else match mxChecks oa ob rng kk (if wide then 32 else 16) (4096 * s.scrOf g) g.chunks, oa, ob with
      | some (c, i), _, _ => .fault s (g.fault c (BitVec.ofNat 64 i))
      | none, some x, some y =>
        let n := laneRegs x kk
        let lane := x.kind == .lr
        if lane && !g.noRuns then .wait s
        else if lane && (span x.reg n).any (fun q => allThreads.any (g.isEmpty q)) then .wait s
        else match (if lane then firstMark g x.reg n else none) with
          | some (q, m) => .fault s { g.markedAt q m with addr := g.pc, info := BitVec.ofNat 64 q }
          | none =>
            let gr := coreGrove g.coreN
            if tableDepth ≤ (s.grove gr).passes.length || !s.afterRuns gid g then .wait s
            else
              let s := if lane then s.useSlots g n else s
              let (key, s) := s.newId
              let z := tile.toNat
              let p : Pass := { key, gid, cid := g.cid, core := g.coreN, wide, tile := z, acc, k := kk,
                                ch := chunkOf x.ty y.ty, a := x.src g kk, b := y.src g kk,
                                prio := (s.effOf g).prio, word := g.pc, ts := s.pts g.coreN,
                                postedAt := s.cycle }
              .next (s.modGrove gr (fun q => { q with
                passes := q.passes ++ [p]
                tileOps := q.tileOps ++ (g.coreN, z, .pass key) :: (if wide then [(g.coreN + 1, z, .pass key)] else []) }))
      | none, _, _ => .fault s (g.fault .obFormat))

/-! ## The order of a tile (R254, R258) -/

/-- Key of an entry of a tile: row m, column n. -/
def tileKey (z m n : Nat) : Nat := z * 512 + m * 16 + n
/-- The workgroup of a cluster that holds the slice of a core. -/
def State.holderOf (s : State) (cid core : Nat) : Option (Nat × Wg) :=
  match SMap.find? s.clusters cid with
  | none => none
  | some c =>
    ((List.range c.wgs.length).zip c.wgs).find? (fun x => x.2.core == some core && x.2.slice)
/-- A tile's entries of a slice changed. -/
def State.setTiles (s : State) (cid core : Nat) (es : List (Nat × BitVec 32)) : State :=
  match s.holderOf cid core with
  | none => s
  | some (w, _) => s.modWg cid w (fun w => { w with
      tiles := es.foldl (fun (m : SMap (BitVec 32)) e => SMap.set 0 m e.1 e.2) w.tiles })

/-- The first operation in a tile's order. -/
def Grove.tileHead (g : Grove) (core z : Nat) : Option TileOp :=
  (g.tileOps.find? (fun o => o.1 == core && o.2.1 == z)).map (·.2.2)
/-- The first operation of a tile's order taken out. -/
def dropTileHead (core z : Nat) : List (Nat × Nat × TileOp) → List (Nat × Nat × TileOp)
  | [] => []
  | o :: r => if o.1 == core && o.2.1 == z then r else o :: dropTileHead core z r

/-- Register j of row t of a tile (R258). -/
def rowWord (w : Wg) (z t j : Nat) : Word :=
  SMap.get 0 w.tiles (tileKey z t (2 * j + 1)) ++ SMap.get 0 w.tiles (tileKey z t (2 * j))

/-- A `ZMOV` takes effect (R258): its registers have their values, and its rows are cleared under `.clr`. -/
def State.zmovNow (s : State) (core z gid reg : Nat) (mask : Mask) (clr : Bool) : State :=
  match SMap.find? s.groups gid with
  | none => s
  | some g =>
    match s.holderOf g.cid core with
    | none => s
    | some (_, w) =>
      let s := s.putGroup gid ((threadsOf mask).foldl (fun (g : Group) t => (List.range 8).foldl (fun (g : Group) j =>
        g.pendLane (reg + j) t (.value (rowWord w z t j))) g) g)
      if clr then s.setTiles g.cid core ((threadsOf mask).flatMap (fun t => (List.range 16).map (fun n =>
        (tileKey z t n, 0)))) else s

/-- A `ZLD` takes effect (R258), on the slice while its cluster holds it, though its group may have ended. -/
def State.zldNow (s : State) (core z cid : Nat) (rows : List (Nat × List Word)) : State :=
  s.setTiles cid core (rows.flatMap (fun x => (List.range 8).flatMap (fun j =>
    let v : Word := x.2.getD j 0
    [(tileKey z x.1 (2 * j), v.setWidth 32), (tileKey z x.1 (2 * j + 1), (v >>> 32).setWidth 32)])))

/-- Every tile move at the head of its tile's order takes effect, until a pass stands there (R254). -/
def State.tileMoves (gr core z : Nat) : Nat → State → State
  | 0, s => s
  | f + 1, s =>
    let drop (s : State) : State := s.modGrove gr (fun g => { g with tileOps := dropTileHead core z g.tileOps })
    match (s.grove gr).tileHead core z with
    | some (.zmov _ gid reg mask clr) => State.tileMoves gr core z f ((drop s).zmovNow core z gid reg mask clr)
    | some (.zld _ cid rows) => State.tileMoves gr core z f ((drop s).zldNow core z cid rows)
    | _ => s
/-- The moves of one tile. -/
def State.advanceTile (s : State) (core z : Nat) : State :=
  State.tileMoves (coreGrove core) core z ((s.grove (coreGrove core)).tileOps.length + 1) s

/-! ## The arbiter (R250, R251) -/

/-- Slices of a pass. -/
def Pass.slices (p : Pass) : List Nat := if p.wide then [p.core, p.core + 1] else [p.core]
/-- A slice is free in a cycle (R250, R251). -/
def Grove.sliceIsFree (g : Grove) (cycle core : Nat) : Bool := decide (SMap.get 0 g.sliceFree core ≤ cycle)
/-- A pass meets the conditions of R250 step 1 other than free slices. -/
def State.passReady (s : State) (g : Grove) (p : Pass) : Bool :=
  p.granted.isNone && decide (p.postedAt < s.cycle)
    && p.slices.all (fun c => match g.tileHead c p.tile with
        | some (.pass k) => k == p.key
        | _ => false)
    && !g.obFills.any (fun f => p.names f.core f.ob)
/-- A pass of higher priority, or of the same and posted earlier. -/
def Pass.before (p q : Pass) : Bool := decide (q.prio < p.prio) || (p.prio == q.prio && decide (p.key < q.key))
/-- The first pass in the arbiter's order. -/
def firstPass : List Pass → Option Pass
  | [] => none
  | p :: r =>
    match firstPass r with
    | some q => if q.before p then some q else some p
    | none => some p
/-- Slices withheld for the oldest pass of the highest priority (R250 step 3). -/
def State.withheld (s : State) (g : Grove) : Option Pass :=
  match firstPass (g.passes.filter (fun p => p.granted.isNone)) with
  | none => none
  | some w => if w.wide && s.passReady g w && !w.slices.all (g.sliceIsFree s.cycle) then some w else none
/-- The pass that the arbiter grants next in this cycle (R250). -/
def State.nextGrant (s : State) (g : Grove) : Option Pass :=
  let w := s.withheld g
  firstPass (g.passes.filter (fun p =>
    s.passReady g p && p.slices.all (g.sliceIsFree s.cycle) && (match w with
      | some w => decide (w.prio < p.prio) || !p.slices.any w.slices.contains
      | none => true)))

/-- Cycles from a grant to the end of its occupancy (R251). -/
def Pass.occupancy (p : Pass) : Nat := 8 + p.k / p.ch
/-- The entry of a pass leaves the table, and its place in its tiles' orders; moves behind it follow (R251, R254). -/
def State.leaveTable (s : State) (gr : Nat) (p : Pass) : State :=
  let s := s.modGrove gr (fun g => { g with
    passes := g.passes.filter (fun x => x.key != p.key)
    tileOps := g.tileOps.filter (fun o => match o.2.2 with
      | .pass k => k != p.key
      | _ => true) })
  p.slices.foldl (fun s c => s.advanceTile c p.tile) s
/-- A pass faults: it retires at once, and the fault is held for its group (R257). -/
def State.faultPass (s : State) (gr : Nat) (p : Pass) (c : Code) : State :=
  (s.leaveTable gr p).modGroup p.gid (fun g => { g with
    held := g.held ++ [{ code := c, addr := p.word, mx := some p.tile, num := p.key }] })
/-- A range that a pass names is stale (R250, R257). -/
def State.staleFor (s : State) (p : Pass) : Bool :=
  match s.holderOf p.cid p.core with
  | none => false
  | some (_, w) => w.ranges.any (fun e => p.names p.core e.1 && e.2.st == .stale)

/-- Grants until no entry is eligible (R250, R251); one that faults at its grant has taken its slices' grant of the
cycle. -/
def State.grantAll (gr : Nat) : Nat → State → State
  | 0, s => s
  | f + 1, s =>
    match s.nextGrant (s.grove gr) with
    | none => s
    | some p =>
      State.grantAll gr f
        (if s.staleFor p then
          (s.modGrove gr (fun g => { g with sliceFree := p.slices.foldl (fun m c => SMap.set 0 m c (s.cycle + 1)) g.sliceFree })).faultPass
            gr p .obStale
        else s.modGrove gr (fun g => { g with
          passes := g.passes.map (fun x => if x.key = p.key then { x with granted := some s.cycle } else x)
          sliceFree := p.slices.foldl (fun m c =>
            SMap.set 0 m c (s.cycle + p.occupancy + (if p.wide then 24 else 0))) g.sliceFree }))

/-- The arbiter of a grove in one cycle (R250). -/
def execMatrixArbitration (grove : Nat) (s : State) : Host.Outcome State Fault Refusal :=
  .next (if s.issueHeld then s else State.grantAll grove 33 s)

/-! ## What a pass computes (R252, R253) -/

/-- The value of an element of a floating pass: pattern and exponent pair (R145, R148). -/
def mxVal (ty : Ty) (x e0 e1 : Nat) : FVal :=
  let w := Ty.width ty
  if Ty.isPb ty then
    if e0 = 255 ∨ e1 = 255 then .nan false
    else .fin (x / 2 ^ (w - 2) % 2 == 1) (x % 2 ^ (w - 2))
      ((if x / 2 ^ (w - 1) % 2 = 1 then (e1 : Int) else e0) - 127 - ((w : Int) - 3))
  else decodeF (fmtOf ty) x

/-- An operand as a pass reads it: its type and sign, and its lines of patterns with their exponent pairs. -/
structure MxData where
  ty : Ty
  sgn : Bool
  lines : List (List (Nat × Nat × Nat))

/-- The elements of a range (R238, R252). -/
def rangeData (r : Range) (line k0 n k : Nat) : MxData :=
  let lb := lineBytes r.ty r.depth
  let w := Ty.width r.ty
  let sc (j : Nat) : Nat := ((r.scales.getD j 0).toNat)
  { ty := r.ty, sgn := r.sgn
    lines := (span line n).map (fun i =>
      let v := wordOf ((r.data.drop (i * lb)).take lb)
      (span k0 k).map (fun d =>
        let j := 2 * (i * (r.depth / r.blk) + d / r.blk)
        (v / 2 ^ (w * d) % 2 ^ w, sc j, sc (j + 1)))) }

/-- A pass that reads some elements of a range reads an uncorrectable error: a sector, of the range's lines and then its
scales, that is bad (R257). -/
def Range.badAt (r : Range) (line k0 n k : Nat) : Bool :=
  let w := Ty.width r.ty
  let lb := lineBytes r.ty r.depth
  let inBad (a : Nat) : Bool := r.bad.contains (a / 32)
  !r.bad.isEmpty && (span line n).any (fun i =>
    (span (i * lb + w * k0 / 8) ((w * (k0 + k) + 7) / 8 - w * k0 / 8)).any inBad
      || (Ty.isPb r.ty && (span k0 k).any (fun d =>
        let j := r.lines * lb + 2 * (i * (r.depth / r.blk) + d / r.blk)
        inBad j || inBad (j + 1))))

/-- The elements of an operand, with what reading them does: the bytes of a scratch operand are loads (R255). A sector
with an uncorrectable error gives nothing (R257). -/
def State.mxData (s : State) (p : Pass) (wgi : Nat) (w : Wg) (src : MxSrc) (n : Nat) : Option MxData × State :=
  match src with
  | .range ob line k0 =>
    (((SMap.find? w.ranges ob).filter (fun r => !r.badAt line k0 n p.k)).map (fun r => rangeData r line k0 n p.k), s)
  | .regs ty sgn vals =>
    let b := Ty.width ty
    (some { ty, sgn, lines := vals.map (fun row => (List.range p.k).map (fun d =>
      (elemAt b (row.getD (d * b / 64) 0) (d % (64 / b)), 0, 0))) }, s)
  | .scratch base rot ty sgn lp tp =>
    let b := Ty.width ty / 8
    let at_ (i d : Nat) : Nat := (s.scratchAddr p.cid wgi (elemOff base rot lp tp b i d)).getD 0
    let as := (List.range n).flatMap (fun i => (List.range p.k).map (at_ i))
    if as.any (fun a => s.sramBad a b) then (none, s)
    else
      let s := ((as.map (· / 4096)).eraseDups).foldl (fun s u => s.bankTime p.core (4096 * u) false) s
      (some { ty, sgn, lines := (List.range n).map (fun i => (List.range p.k).map (fun d =>
        (wordOf (s.sramBytes (at_ i d) b), 0, 0))) }, s)

/-- One entry of a floating pass: chunks of exact sums, each rounded once (R252, R253). -/
def chunkSums (ch : Nat) : Nat → List FVal → Nat → Nat
  | 0, _, acc => acc
  | f + 1, ps, acc =>
    chunkSums ch f (ps.drop ch) (roundF (fmtOf .f32) .rne false 0 (sumF .rne (decodeF (fmtOf .f32) acc :: ps.take ch)).1).1
/-- One entry of a pass from a row of A and a line of B (R252, R253). -/
def passEntry (p : Pass) (a b : MxData) (m n : Nat) (acc : BitVec 32) : BitVec 32 :=
  let xs := (a.lines.getD m []).zip (b.lines.getD n [])
  if a.ty = .b8 then
    BitVec.ofInt 32 (xs.foldl (fun (t : Int) x => t + valueOf 8 a.sgn x.1.1 * valueOf 8 b.sgn x.2.1) acc.toInt)
  else
    BitVec.ofNat 32 (chunkSums p.ch (p.k / p.ch) (xs.map (fun x =>
      (mulF (mxVal a.ty x.1.1 x.1.2.1 x.1.2.2) (mxVal b.ty x.2.1 x.2.2.1 x.2.2.2)).1)) acc.toNat)

/-- The new entries of the tile of the pass in one of its slices (R252): `c0` is 0 or 16. -/
def sliceEntries (p : Pass) (w : Wg) (a b : MxData) (c0 : Nat) : List (Nat × BitVec 32) :=
  (List.range 32).flatMap (fun m => (List.range 16).map (fun n =>
    let k := tileKey p.tile m n
    (k, passEntry p a b m (c0 + n) (if p.acc then SMap.get 0 w.tiles k else 0))))

/-- Entries of no stated value (R257). -/
def State.freeTile (s : State) (cid core z : Nat) : State :=
  let s := s.setTiles cid core ((List.range 512).map (fun i => (512 * z + i, (Config.freeWord (s.fresh + i)).setWidth 32)))
  { s with fresh := s.fresh + 512 }

/-- A granted pass retires: its tiles take their new values (R251, R252), but for one of a killed workgroup (R261). -/
def State.retirePass (s : State) (gr : Nat) (p : Pass) : State :=
  if p.dead then s.leaveTable gr p
  else match s.holderOf p.cid p.core with
  | none => s.leaveTable gr p
  | some (wgi, w) =>
    let (a, s) := s.mxData p wgi w p.a 32
    let (b, s) := s.mxData p wgi w p.b (if p.wide then 32 else 16)
    match a, b with
    | some a, some b =>
      let s := (p.slices.zip [0, 16]).foldl (fun s x => match s.holderOf p.cid x.1 with
        | some (_, w) => s.setTiles p.cid x.1 (sliceEntries p w a b x.2)
        | none => s) s
      s.leaveTable gr p
    | _, _ => (p.slices.foldl (fun s c => s.freeTile p.cid c p.tile) s).faultPass gr p .uePoison

/-- A granted pass retires, once its cycles are over (R251). -/
def execPassRetire (grove pass : Nat) (s : State) : Host.Outcome State Fault Refusal :=
  .next (match (s.grove grove).passes.find? (fun p => p.key == pass) with
    | none => s
    | some p =>
      match p.granted with
      | none => s
      | some c => if s.cycle < c + p.occupancy + 24 then s else s.retirePass grove p)

/-! ## MXWAIT (R256, R257) -/

/-- A wait for matrix work of the group: what it waits for, and which held faults it raises, the first posted first
(R256, R257). -/
def mxwait (s : State) (pend : Nat → Grove → Bool) (cov : Nat → Bool) : Host.Outcome State Fault Refusal :=
  runStem s (fun gid g s =>
    if !s.holdsSlice g then .fault s (g.fault .budget)
    else if pend gid (s.grove (coreGrove g.coreN)) then .wait s
    else match firstPosted (g.held.filter (fun h => (h.mx.map cov).getD false)) with
      | some h => .wait (s.raiseHeld gid h)
      | none => .next s)
/-- `MXWAIT` (R256). -/
def execMxwait (tile : BitVec 6) (s : State) : Host.Outcome State Fault Refusal :=
  mxwait s (fun gid gr => gr.passes.any (fun p => p.gid == gid && p.tile == tile.toNat)) (fun z => z == tile.toNat)
/-- `MXWAIT.all` (R256). -/
def execMxwaitAll (s : State) : Host.Outcome State Fault Refusal :=
  mxwait s (fun gid gr => gr.passes.any (fun p => p.gid == gid) || gr.obFills.any (fun f => f.gid == gid)) (fun _ => true)

/-! ## ZMOV and ZLD (R258) -/

/-- The threads that a tile move goes on for once its registers resolve and its tile operand is read, with the faults of
the others; none while it does not issue (R112, R235). -/
def moveThreads (g : Group) (r : Run) (w : Leaf) (takers : Mask) (reg : Opnd) : Option (List Nat × List TFault) :=
  let bad (t : Nat) : Option TFault := spanFault g r t reg 8
  let all := threadsOf takers
  (readable g r (maskOf (all.filter (fun t => (bad t).isNone))) ([(w.s2, w.em.getLsbD 1)].filter (fun x => x.1 != .none)) []).map
    (fun x => (x.1, all.filterMap bad ++ x.2))

/-- The threads of a tile move whose registers resolve (R112 step 1). -/
def moveResolved (g : Group) (r : Run) (w : Leaf) (takers : Mask) (reg : Opnd) : List Nat :=
  (threadsOf takers).filter (fun t => (spanFault g r t reg 8).isNone && (rangeFault g r t [w.s2]).isNone)

/-- A tile move of the group's slice: who may use it, its threads, the registers that it waits for, its tile (R112, R235,
R258). With `src` the registers are sources, for which R112 waits before it looks at what is empty. -/
def moveOp (s : State) (o : LOp) (w : Leaf) (reg : Opnd) (src : Bool) (busy : Group → Nat → Nat → Bool)
    (f : LCtx → Group → Nat → Nat → List Nat → List TFault → State → LRes) : Host.Outcome State Fault Refusal :=
  runLeaf s w.ctl (fun c g r s =>
    let all := threadsOf c.takers
    if g.host.isSome then .done s 1 (allFault all .rights)
    else if !s.holdsSlice g then .done s 1 (allFault all .budget)
    else match moveThreads g r w c.takers reg with
      | none => .wait
      | some (ts, fs) =>
        let z (t : Nat) : Nat := (argB o w g r t).toNat % 64
        if (if src then moveResolved g r w c.takers reg else ts).any (fun t =>
            (span (regOf g r t reg) 8).any (fun k => busy g k t)) then .wait
        else if !uniform ts z then .done s 1 (fs ++ allFault ts .nonuniform)
        else match ts with
          | [] => .done s 1 fs
          | t :: _ => f c g (regOf g r t reg) (z t) ts fs s)

/-- A tile move enters its tile's order (R254). -/
def State.pushMove (s : State) (core z : Nat) (o : TileOp) : State :=
  (s.modGrove (coreGrove core) (fun g => { g with tileOps := g.tileOps ++ [(core, z, o)] })).advanceTile core z

/-- `ZMOV` (R258). -/
def execZmov (w : Leaf) (s : State) : Host.Outcome State Fault Refusal :=
  moveOp s .zmov w w.d false (fun g k t => (g.lreg k t).fe == .pending) (fun c g n z ts fs s =>
    let regs := span n 8
    let (key, s) := s.newId
    let s := s.putGroup c.gid (ts.foldl (fun (g1 : Group) t => regs.foldl (fun (g1 : Group) k =>
      g1.pendLane k t (.tile key)) g1) g)
    .done (s.pushMove g.coreN z (.zmov key c.gid n (maskOf ts) (w.opx.getLsbD 0))) 1 fs)

/-- `ZLD` (R258): eight source registers under s1's empty mode. -/
def execZld (w : Leaf) (s : State) : Host.Outcome State Fault Refusal :=
  moveOp s .zld w w.s1 true (fun g k t => !w.em.getLsbD 0 && g.isEmpty k t) (fun c g n z ts fs s =>
    let regs := span n 8
    let bad (t : Nat) : Option TFault := regs.findSome? (fun k =>
      if g.isEmpty k t then some { thread := t, code := .feEmpty } else (g.lreg k t).mark.map (markFault t k))
    let go := ts.filter (fun t => (bad t).isNone)
    let s := if go.isEmpty then s
      else s.pushMove g.coreN z (.zld c.gid g.cid (go.map (fun t => (t, regs.map (fun k => (g.lreg k t).val)))))
    .done s 1 (fs ++ ts.filterMap bad))

/-! ## Debug reads (R262) -/

/-- The bytes of a range's lines and scales: zero while it is only reserved (R236); of no stated value where no fill has
left them. -/
def State.rangeBytes (s : State) (r : Range) : List Byte × State :=
  let n := r.lines * lineBytes r.ty r.depth + scaleBytes r.ty r.lines r.depth r.blk
  if r.st = .reserved then (List.replicate n 0, s)
  else if r.data.isEmpty then
    ((List.range n).map (fun i => (Config.freeWord (s.fresh + i)).setWidth 8), { s with fresh := s.fresh + n })
  else (r.data ++ r.scales, s)

/-- A debug read through the crown controller (R262): a sealed range is never read. -/
def execDebugRead (privileged : Bool) (w : DebugWhat) (s : State) : Host.Outcome State Fault Refusal :=
  let holder (core : Nat) : Option Wg := s.clusters.findSome? (fun c =>
    c.2.wgs.find? (fun w => w.core == some core && w.slice))
  .next (match w with
    | .tile core z =>
      if !privileged then s.refuse .priv
      else match holder core with
        | none => s.refuse
        | some w => s.answer ((List.range 512).map (fun i => (SMap.get 0 w.tiles (512 * z + i)).toNat))
    | .range core ob =>
      match (holder core).bind (fun w => SMap.find? w.ranges ob) with
      | none => if privileged then s.refuse else s.refuse .priv
      | some r =>
        if r.isSealed then s.refuse .sealDenied
        else if !privileged then s.refuse .priv
        else (s.rangeBytes r).2.answer ((s.rangeBytes r).1.map (·.toNat)))

end Sys2Proof.Machine
end

