-- ==== Sys2Proof/Machine/Attach.lean ====
section
/-! DEFINITION. Work that is attached: `TASK`, `TGRAPH`, the host's writes, the scheduler's take of a task, and the
validity of RCBs, task descriptors and graphs (R21, R23-R25, R196-R201). -/
namespace Sys2Proof.Machine

/-! ## Pointers of TASK and TGRAPH (R200, R201) -/

/-- The waits of `TASK` (R200): earlier leaf runs have ended, and their accesses have taken their places; and the waits of
`DRAIN`. -/
def State.postReady (s : State) (gid : Nat) (g : Group) : Bool :=
  g.noRuns && s.stntsDone gid g && s.afterRuns gid (g.synced s.cycle)
/-- A post that waits for the leaf runs and drains (R200): `f` is given the group that has waited, stored in the state. -/
def runPost (s : State) (f : Nat → Group → State → StemRes) : Host.Outcome State Fault Refusal :=
  runStem s (fun gid g s =>
    if !s.postReady gid g then .wait s
    else f gid (g.synced s.cycle) ((s.putGroup gid (g.synced s.cycle)).drainNow gid g))

/-- A pointer that must name n bytes of a TIER 0 object at a multiple of `align` (R17, R200). -/
def structReq (p : Word) (n align : Nat) (w : Bool) : AccReq :=
  { ptr := p, e := ptrOff p, n, align, needR := true, needW := w, wr := w, badTiers := [1, 2, 3],
    kind := if w then .write else .read }

/-- The RCB that a post names, checked (R200): 0 names the group's own. -/
def State.postRcb (s : State) (g : Group) (x : Word) (k : Word → State → StemRes) : StemRes :=
  let own := s.rcbOf g
  let r := if x = 0 then own else x
  match s.checkAccess g.coreN g (structReq r 256 256 true) with
  | (.fault c, s) => .fault s (g.fault c r)
  | (.miss m, s) => .miss s m
  | (.ok _ _ _, s) =>
    if (s.chain g.part r).any (fun y => samePtr y own) then k r s
    else .fault s (g.fault .rights r)

/-- The last descriptor of a list, from one of its members on, and the time that reading it took the reader to; or a
member whose NEXT is poisoned (R303). -/
def State.lastDesc (part : Nat) : Nat → Word → Time → State → Except Word (Word × Time) × State
  | 0, d, t, s => (.ok (d, t), s)
  | f + 1, d, t, s =>
    if s.devBad part d 8 then (.error d, s)
    else match s.devFetch part d t with
      | (some (n, t), s) => if n = 0 then (.ok (d, t), s) else State.lastDesc part f n t s
      | (none, s) => (.ok (d, t), s)

/-- Where `TASK` links a descriptor (R200): TLHEAD of an RCB without a list, or the NEXT of the list's last descriptor. -/
def State.linkAt (s : State) (part : Nat) (rcb : Word) (t : Time) : Except Word (Word × Time) × State :=
  match s.devFetch part (rcb + 0x28) t with
  | (some (head, t), s) => if head = 0 then (.ok (rcb + 0x28, t), s) else State.lastDesc part (2 ^ 32) head t s
  | (none, s) => (.ok (rcb + 0x28, t), s)

/-- A descriptor linked at the end of an RCB's list, and then WORK raised: WORK's value before, and the logical time of the
last of the two stores (R200, R305); or the descriptor whose NEXT is poisoned. -/
def State.linkTask (s : State) (part : Nat) (rcb desc : Word) (t : Time) : Except Word (Word × Time) × State :=
  match s.linkAt part rcb t with
  | (.error d, s) => (.error d, s)
  | (.ok (at_, t), s) =>
    let s := s.devWrite part at_ t desc
    let t := tmax t (s.wordTime part at_)
    let old : Word := BitVec.ofNat 64 (s.rcbWord part rcb 0)
    let s := s.devWrite part rcb t (old + 1)
    (.ok (old, tmax t (s.wordTime part rcb)), s)

/-- `TASK` (R200). -/
def execTask (b : BitVec 5) (s : State) : Host.Outcome State Fault Refusal :=
  runPost s (fun gid g s =>
    let d := g.areg (b.toNat + 1)
    s.postRcb g (g.areg b.toNat) (fun r s =>
      match s.checkAccess g.coreN g (structReq d 256 256 false) with
      | (.fault c, s) => .fault s (g.fault c d)
      | (.miss m, s) => .miss s m
      | (.ok _ _ _, s) =>
        match s.linkTask g.part r d (s.pts g.coreN) with
        | (.error at_, s) => .fault s (g.fault .uePoison at_)
        | (.ok (old, t), s) => .next ((s.raisePts g.coreN t).modGroup gid (fun g => g.setA b.toNat old))))

/-! ## Graphs (R196-R201) -/

/-- A graph as its object holds it: node count, and for each node its words 0x00, 0x08 and the edge entries of its
successors. -/
structure GraphImage where
  nodes : Nat
  word8 : List Nat
  succs : List (List Nat)
  preds : List Nat
  deriving DecidableEq, Repr

/-- Reserved words of a node are zero and its KIND is legal (R196, R197). -/
def nodeClean (w : Nat → Nat) : Bool :=
  bits (w 1) 8 8 == 0 && decide (bits (w 1) 0 8 ≤ 3)
    && bits (w 2) 32 32 == 0 && bits (w 2) 8 8 == 0 && [3, 4, 5, 6, 7].all (fun i => w i == 0)
/-- Reserved fields of the header are zero and its node count legal (R196). DESIGN CHOICE (log entry 117): R197 does not
name the count; a graph of none or of more than 1,024 nodes is no valid graph. -/
def headClean (w : Nat → Nat) : Bool :=
  bits (w 0) 16 48 == 0 && decide (1 ≤ w 0) && decide (w 0 ≤ 1024) && bits (w 3) 8 56 == 0
    && [5, 6, 7].all (fun i => w i == 0)

/-- Nodes whose predecessors are all among `done`, added to it, `fuel` times. -/
def settleNodes (succs : List (List Nat)) : Nat → List Nat → List Nat
  | 0, done => done
  | f + 1, done =>
    let ns := List.range succs.length
    let next := ns.filter (fun i => ns.all (fun j => done.contains j || !(succs.getD j []).contains i))
    if next.length = done.length then done else settleNodes succs f next
/-- Nodes and edges form no cycle (R197). -/
def acyclic (succs : List (List Nat)) : Bool := (settleNodes succs (succs.length + 1) []).length == succs.length

/-- The bytes of a graph that its header and its nodes name: header and nodes, then the edges (R196). -/
def State.graphSize (s : State) (g : Graph) : Nat :=
  let ends := (List.range g.nodes).map (fun i =>
    let w := s.graphWord g (nodeOff i + 8)
    if bits w 48 16 = 0 then 0 else bits w 32 16 + bits w 48 16)
  nodeOff g.nodes + 2 * ends.foldl Nat.max 0

/-- A graph is valid (R197); `room` is what its object holds from its start on. DESIGN CHOICE (log entry 73): NPRED is
compared with the entries of every node's own successor list, so an edge entry in two lists counts twice and one in no
list not at all. -/
def State.graphValid (s : State) (g : Graph) (room : Nat) : Bool :=
  let word (o i : Nat) : Nat := s.graphWord g (o + 8 * i)
  let ns := List.range g.nodes
  headClean (word 0) && decide (nodeOff g.nodes ≤ room) && ns.all (fun i => nodeClean (word (nodeOff i)))
    && decide (s.graphSize g ≤ room)
    && (let succs := ns.map (s.nodeSucc g)
        succs.all (fun l => l.all (fun j => decide (j < g.nodes)))
        && ns.all (fun i => bits (word (nodeOff i) 1) 16 16 == (succs.map (fun l => l.count i)).sum)
        && acyclic succs)

/-- The first page among some bytes of an object that a group's access does not find (R289). -/
def State.missIn (s : State) (g : Group) (p : Part) (obj : Nat) (d : Desc) (off n : Nat) : Option (Except Code MissInfo) :=
  let pages := if n = 0 then [] else span (off / 65536) ((off + n - 1) / 65536 + 1 - off / 65536)
  pages.findSome? (fun k =>
    let o := Nat.max off (65536 * k)
    match (s.findPage (coreDie g.coreN) g p obj d o true).1 with
    | .miss m mal => some (.ok { miss := m, mal, kind := .write, first := o })
    | .fault c => some (.error c)
    | .place (.hbm a) _ => if s.hbmBadSecs a (Nat.min (off + n) (65536 * (k + 1)) - o) then some (.error .uePoison) else none
    | .place _ _ => some (.error .objInvalid))

/-- A launch: every node as the table of R201 leaves it; a compute node's descriptor that waits on graph edges has STATE 1
(R23). -/
def State.startGraph (s : State) (g : Graph) (again : Bool) : State :=
  let ns := List.range g.nodes
  let done (i : Nat) : Bool := again && s.nodeState g i == 3
  let keep := ns.filter done
  let preds (i : Nat) : Nat := (ns.filter (fun j => !keep.contains j)).foldl (fun n j => n + (s.nodeSucc g j).count i) 0
  let s := (ns.filter (fun i => !keep.contains i)).foldl (fun s i =>
    s.graphMod g (nodeOff i + 0x10) (fun _ => preds i * 2 ^ 16)) s
  let s := (ns.filter (fun i => !keep.contains i && s.nodeKind g i == 0 && preds i != 0)).foldl (fun s i =>
    s.setTaskState g.part (BitVec.ofNat 64 (s.graphWord g (nodeOff i))) 1) s
  let s := if again then s else s.graphMod g 0x20 (fun _ => 0)
  s.graphMod g 0x18 (fun _ => 1)

/-- `TGRAPH` and `TGRAPH.resume` (R201). -/
def tgraph (s : State) (b : BitVec 5) (resume : Bool) : Host.Outcome State Fault Refusal :=
  runPost s (fun _ g s =>
    let x := g.areg b.toNat
    match s.checkAccess g.coreN g (structReq x 64 64 true) with
    | (.fault c, s) => .fault s (g.fault c x)
    | (.miss m, s) => .miss s m
    | (.ok _ _ d, s) =>
      s.postRcb g (g.areg (b.toNat + 1)) (fun r s =>
        match SMap.find? s.parts g.part with
        | none => .fault s (g.fault .objInvalid x)
        | some p =>
          let gr : Graph := { part := g.part, rcb := r, ptr := x, nodes := 0, ts := s.pts g.coreN, order := 0 }
          let gr := { gr with nodes := Nat.min 1024 (bits (s.graphWord gr 0) 0 16) }
          let room := d.size - ptrOff x
          let look (n : Nat) : Option (Except Code MissInfo) := s.missIn g p (ptrObj x) d (ptrOff x) (Nat.min room n)
          match (look (nodeOff gr.nodes)).or (look (s.graphSize gr)) with
          | some (.ok m) => .miss s m
          | some (.error c) => .fault s (g.fault c x)
          | none =>
            let s := s.devTouchSpan g.part x (Nat.min room (s.graphSize gr))
            let st := bits (s.graphWord gr 0x18) 0 8
            if st = 1 ∨ 3 < st ∨ !s.graphValid gr room then .fault s (g.fault .objInvalid x)
            else
              let (n, s) := s.newId
              let s := s.startGraph gr (resume && st == 3)
              let s := s.raisePts g.coreN (s.wordTime g.part (x + 0x18))
              .next { s with graphs := SMap.put s.graphs n { gr with order := n, ts := s.pts g.coreN } }))

/-- `TGRAPH` (R201). -/
def execTgraph (b : BitVec 5) (s : State) : Host.Outcome State Fault Refusal := tgraph s b false
/-- `TGRAPH.resume` (R201). -/
def execTgraphResume (b : BitVec 5) (s : State) : Host.Outcome State Fault Refusal := tgraph s b true

/-! ## The host's window (R199) -/

/-- An access of the host through its partition's window, at a package physical address (R199): a write of the bytes that
lie in HBM, sector by sector, in the order in which they arrive; or, marked by 2^64 beside the address, a PCIe FetchAdd
AtomicOp, which adds its 4 or 8 bytes to those at an aligned address in one access. -/
def execBarWrite (part : Nat) (addr : Nat) (bytes : List Byte) (s : State) : Host.Outcome State Fault Refusal :=
  .next (match SMap.find? s.parts part with
    | none => s
    | some p =>
      let n := bytes.length
      if 2 ^ 64 ≤ addr then
        let a := addr - 2 ^ 64
        if (n = 4 ∨ n = 8) ∧ a % n = 0 ∧ a < 2 ^ 39 then
          s.windowWrite p.keyId (addrBytes a (bytesOf n (wordOf (s.hbmBytes p.keyId a n) + wordOf bytes)))
        else s
      else (List.range (bytes.length / 32 + 2)).foldl (fun s i =>
      let lo := addr / 32 * 32 + 32 * i
      let from_ := Nat.max lo addr
      let bs := (bytes.drop (from_ - addr)).take (lo + 32 - from_)
      if bs.isEmpty || decide (2 ^ 39 ≤ lo) then s else s.windowWrite p.keyId (addrBytes from_ bs)) s)

/-! ## Taking a task (R21-R25) -/

/-- The RCB that links another in its CHILD list; the root is linked by none. -/
def State.linker (s : State) (part : Nat) (root r : Word) : Option Word :=
  ((s.links part root).find? (fun x => samePtr x.1 r)).map (·.2)

/-- An RCB's PRIO is no reserved value and its reserved fields are zero (R21). -/
def State.rcbClean (s : State) (part : Nat) (r : Word) : Bool :=
  let w (o : Nat) : Nat := s.rcbWord part r o
  let prio := bits (w 0x38) 8 5
  (decide (prio < 16) || prio == 31)
    && bits (w 0x38) 13 3 == 0 && bits (w 0x38) 1 7 == 0 && bits (w 0x38) 26 1 == 0 && bits (w 0x48) 0 28 == 0
    && bits (w 0x50) 0 36 == 0 && bits (w 0x60) 32 32 == 0 && (List.range 13).all (fun i => w (0x98 + 8 * i) == 0)

/-- An RCB below the root, linked by `parent`, is valid (R21). DESIGN CHOICE (log entry 68): a pool of no identifiers is
judged by its POOLBASE all the same, which must lie in the parent's pool or at its end. -/
def State.rcbValid (s : State) (p : Part) (parent r : Word) : Bool :=
  let w (o : Nat) : Nat := s.rcbWord p.num r o
  let ten := bits (w 0x38) 32 32
  let pool := s.effPool p.num parent
  let base := bits (w 0x50) 48 16
  let cnt := bits (w 0x50) 36 12
  (ten == 0xFFFFFFFF || ten == p.tenant.toNat) && s.rcbClean p.num r
    && (cnt == 0xFFF || (decide (pool.1 ≤ base) && decide (base + cnt ≤ pool.1 + pool.2)))
    && samePtr (BitVec.ofNat 64 (w 0x10)) parent

/-- A range of a descriptor (R23): base and length words at an offset. -/
def parseRange (w : Nat → Nat) (o : Nat) (wr : Bool) : TRange :=
  { base := BitVec.ofNat 64 (w o), len := bits (w (o + 8)) 0 40, wr }
/-- Offsets of the range fields of a descriptor (R23). -/
def rangeFields : List (Nat × Bool) :=
  [(0x50, false), (0x60, false), (0x70, false), (0x80, false), (0x90, true), (0xA0, true), (0xB0, true), (0xC0, true)]

/-- A descriptor's fields as a task (R23). -/
def parseTask (w : Nat → Nat) (part : Nat) (rcb desc no : Word) (order : Nat) (priv : Bool) : Task :=
  let a := w 0x20
  let b := w 0x28
  { part, rcb, desc, no, order, privileged := priv
    stemEntry := BitVec.ofNat 64 (w 0x08), leafBase := BitVec.ofNat 64 (w 0x10), args := BitVec.ofNat 64 (w 0x18)
    ncl := bits a 32 32, shape := bits a 29 3, chain := bit a 28, coop := bit a 27, idem := bit a 26, podw0 := bit a 25
    ngm1 := bits a 20 5, chm1 := bits a 16 4, scr := bits a 0 16
    obu := bits b 56 8, tags := bits b 52 4, argLen := bits b 0 16
    cwPtr := BitVec.ofNat 64 (w 0x38), cwVal := BitVec.ofNat 64 (w 0x40)
    ranges := rangeFields.map (fun f => parseRange w f.1 f.2) }

/-- A used range names bytes of a valid object (R25). -/
def State.rangeOk (s : State) (p : Part) (r : TRange) : Bool :=
  r.len == 0 || (match s.walkDesc p (ptrObj r.base) with
    | .ok d => decide (ptrOff r.base + r.len ≤ d.size)
    | .error _ => false)

/-- A descriptor is valid (R25); a graph node's ranges are ignored (R198). -/
def State.taskValid (s : State) (p : Part) (w : Nat → Nat) (t : Task) (node : Bool) : Bool :=
  bits (w 0x28) 16 36 == 0 && bits (w 0x30) 0 24 == 0 && w 0x48 == 0 && (List.range 6).all (fun i => w (0xD0 + 8 * i) == 0)
    && rangeFields.all (fun f => bits (w (f.1 + 8)) 40 24 == 0)
    && t.ncl != 0 && decide (t.shape ≤ 4) && decide (t.scr ≤ 1024) && decide (t.obu ≤ 128) && decide (t.tags ≤ 8)
    && (node || t.ranges.all (s.rangeOk p))

/-- The scheduler takes no work of a task's subtree: it is pre-empted (R411). -/
def State.closed (s : State) (t : Task) : Bool :=
  match SMap.find? s.parts t.part with
  | none => true
  | some p => p.preempted.any (s.underRcb t)

/-- A partition may run work: it has a root, and its interface is in RUN (R19, R399). -/
def Part.working (p : Part) : Bool := p.root.isSome && p.tdi == .run

/-- A task enters the device: STATE 0, or 1 while it waits on ranges (R24, R195, R198). An invalid descriptor is
recorded, with STATE 4 (R25); so is a poisoned one, with `UE_POISON` (R303, log entry 107). -/
def State.enterTask (s : State) (p : Part) (rcb desc no : Word) (node : Option (Nat × Nat)) (ts : Time) : State :=
  let s := (s.touchChain p.num rcb).devTouchSpan p.num desc 256
  let w (o : Nat) : Nat := ((s.devRead p.num (desc + BitVec.ofNat 64 o)).map (·.toNat)).getD 0
  let (n, s1) := s.newId
  let sick := s.devBad p.num desc 256
  let t := { parseTask w p.num rcb desc no n p.system with node, pts := ts, eff := s.resolve p.num rcb }
  if !sick && s.taskValid p w t node.isSome then
    let wt := s.rangeWaits t
    let s := s1.setTaskState p.num desc (if wt then 1 else 0)
    { s with tasks := SMap.put s.tasks n { t with waiting := wt } }
  else
    let s := (s1.setTaskState p.num desc 4).taskRecord t
      { origin := 4, action := 4, f := { code := if sick then .uePoison else .objInvalid }, tdesc := desc, taskNo := no.toNat,
        node := (node.map (·.2)).getD 0xFFFF } ts
    match node with
    | some (gn, i) => s.nodeFault gn i
    | none => s

/-- The next descriptor of an RCB's list (R24). -/
def State.nextDesc (s : State) (part : Nat) (rcb : Word) : Word :=
  let cur := s.rcbWord part rcb 0x30
  if cur = 0 then BitVec.ofNat 64 (s.rcbWord part rcb 0x28)
  else BitVec.ofNat 64 (((s.devRead part (BitVec.ofNat 64 cur)).map (·.toNat)).getD 0)

/-- The RCB is one that the scheduler serves: VALID, linked from the root, open, with tasks posted and not taken (R22,
R24, R411). -/
def State.takes (s : State) (p : Part) (root rcb : Word) : Bool :=
  let diff := (s.rcbWord p.num rcb 0 + 2 ^ 64 - s.rcbWord p.num rcb 8) % 2 ^ 64
  p.working && !s.crown.sapling && (samePtr rcb root || (s.linker p.num root rcb).isSome)
    && bit (s.rcbWord p.num rcb 0x38) 0
    && !p.preempted.any (fun r => r == 0 || (s.chain p.num rcb).any (fun y => samePtr y r))
    && diff != 0 && decide (diff < 2 ^ 63)

/-- The list's end was found, and since then WORK has not been written, nor have 65,536 cycles passed (R24). DEDUCED (log
entry 69): a WORK that lies elsewhere since counts as written. -/
def State.listRests (s : State) (p : Part) (rcb : Word) : Bool :=
  p.ended.any (fun e => samePtr e.1 rcb && decide (s.cycle < e.2 + 65536))
    && (match s.devAddr p.num rcb with
      | some a => s.idleWork.contains a
      | none => false)
/-- The end of an RCB's list is found: it is read again after a write of WORK (R24). -/
def State.restList (s : State) (part : Nat) (rcb : Word) : State :=
  let s := s.modPart part (fun p => { p with ended := p.ended.filter (fun e => !samePtr e.1 rcb) ++ [(rcb, s.cycle)] })
  match s.devAddr part rcb with
  | some a => { s with idleWork := a :: s.idleWork.erase a }
  | none => s
/-- What of the scheduler's reads is poisoned (R303): the RCB, or the descriptor that the cursor names. -/
def State.sickList (s : State) (part : Nat) (rcb : Word) : Option Word :=
  let cur : Word := BitVec.ofNat 64 (s.rcbWord part rcb 0x30)
  if s.devBad part rcb 256 then some rcb else if cur ≠ 0 && s.devBad part cur 8 then some cur else none

/-- The scheduler reads an RCB's list and takes the next task, if there is one (R21, R24). DESIGN CHOICE (log entries 70,
107): where the next descriptor cannot be read, it takes nothing and records nothing, as at the list's end; where the RCB or
the descriptor before is poisoned, it records `UE_POISON`, and so rests. -/
def State.take (s : State) (part : Nat) (rcb : Word) : State :=
  match SMap.find? s.parts part with
  | none => s
  | some p =>
    match p.root with
    | none => s
    | some root =>
      let s := s.touchChain part rcb
      let up := if samePtr rcb root then none else s.linker part root rcb
      if !s.takes p root rcb || s.listRests p rcb then s
      else match s.sickList part rcb with
      | some x => (s.restList part rcb).schedRecord part (if x = rcb then up.getD rcb else rcb) .uePoison x 0 0
          (s.wordTime part rcb)
      | none =>
      if !(match up with
          | some parent => s.rcbValid p parent rcb
          | none => s.rcbClean part rcb) then
        (s.schedRecord part (up.getD rcb) .objInvalid rcb 0 0 (s.wordTime part rcb)).devMod part (rcb + 0x38)
          (fun w => w &&& ~~~1#64)
      else
        let s := s.devTouch part (BitVec.ofNat 64 (s.rcbWord part rcb 0x30))
        let d := s.nextDesc part rcb
        if d = 0 ∨ (s.devRead part d).isNone then s.restList part rcb
        else
          let ts := s.wordTime part rcb
          let s := s.modPart part (fun p => { p with ended := p.ended.filter (fun e => !samePtr e.1 rcb) })
          let no := s.rcbWord part rcb 8
          let s := s.devMod part (rcb + 0x30) (fun _ => d)
          let s := s.devMod part (rcb + 0x38) (fun w =>
            BitVec.ofNat 64 (w.toNat / 2 ^ 32 * 2 ^ 32 + part % 16 * 2 ^ 28 + w.toNat % 2 ^ 28))
          let s := s.enterTask p rcb d (BitVec.ofNat 64 no) none ts
          s.devMod part (rcb + 8) (fun w => w + 1)

/-- The scheduler takes a task (R24). -/
def execTaskTake (part : Nat) (rcb : Word) (s : State) : Host.Outcome State Fault Refusal := .next (s.take part rcb)
/-- The scheduler reads a list again whose end it had found (R24). -/
def execTaskListReread (part : Nat) (rcb : Word) (s : State) : Host.Outcome State Fault Refusal := .next (s.take part rcb)

end Sys2Proof.Machine
end

