-- ==== Sys2Proof/Machine/Graft.lean ====
section
/-! DEFINITION. Grafting (spec/18_graft.md R355-R372): `GRFT` and `GRET`, buds on their way, receivers and host groups,
returns, refusals and fallbacks. -/
namespace Sys2Proof.Machine

/-! ## GRFT (R355-R360) -/

/-- What a taking thread of a `GRFT` finds at its address (R358): a fault, a page to wait for, or its home. -/
inductive Home where
  | fault (c : Code)
  | miss (m : MissInfo)
  | at_ (pkg die : Nat)
  deriving DecidableEq, Repr

/-- The home of a thread's address (R358, R282). -/
def State.graftHome (s : State) (g : Group) (ptr : Word) : Home × State :=
  match SMap.find? s.parts g.part with
  | none => (.fault .objInvalid, s)
  | some p =>
    match s.coreDesc g.coreN g.part (ptrObj ptr) with
    | (.error c, s) => (.fault c, s)
    | (.ok d, s) =>
      let failed := !d.hset && g.retry.contains (ptrObj ptr, ptrOff ptr / 65536)
      let inside := decide (ptrOff ptr < d.size)
      let (home, s) := if inside && !failed then s.homeOf (coreDie g.coreN) p (ptrObj ptr) d (ptrOff ptr)
        else (.error (.fault .pageFail), s)
      let bad := match home with
        | .error (.fault .uePoison) => true
        | _ => false
      if bad then (.fault .uePoison, s)
      else if !d.g || ptrNE ptr then (.fault .rights, s)
      else if !inside then (.fault .bounds, s)
      else
        match home, s with
        | .ok (k, e), s => (.at_ k e, s)
        | .error (.fault c), s => (.fault c, s)
        | .error (.miss m mal), s => (.miss { miss := m, mal, kind := .read, first := ptrOff ptr }, s)
        | .error (.place _ _), s => (.fault .objInvalid, s)

/-- The homes of some threads' addresses, in thread order. -/
def State.graftHomes (s : State) (g : Group) : List (Nat × Word) → List (Nat × Word × Home) × State
  | [] => ([], s)
  | (t, ptr) :: r =>
    let (h, s) := s.graftHome g ptr
    let (l, s) := s.graftHomes g r
    ((t, ptr, h) :: l, s)

/-- The path splits at a `GRFT` (R359): a graft record, the inline threads at the region's entry; none for an overflow
of the divergence stack. -/
def Group.graftSplit (g : Group) (slot next region : Nat) (t : Mask) : Option Group :=
  match g.slot slot with
  | none => some g
  | some p =>
    if t = 0 then some (g.setSlot slot (some { p with off := next }))
    else
      let left := p.mask &&& ~~~t
      let other := 1 - slot
      let need := 1 + (if left != 0 && (g.slot other).isSome then 1 else 0)
      if 64 < g.stack.length + need then none
      else
        let k := g.nextRec
        let r : JoinRec := { id := k, reconv := next, expected := p.mask, arrived := 0, parent := p.jrec, graft := true }
        let g := { g with nextRec := k + 1, stack := .join r :: g.stack }
        let q : Path := { off := region, mask := t, jrec := some k }
        if left = 0 then some (g.setSlot slot (some q))
        else
          let g := g.setSlot slot (some { off := next, mask := left, jrec := some k })
          some (match g.slot other with
            | none => g.setSlot other (some q)
            | some _ => { g with stack := .spill q :: g.stack })

/-- Transfers that a thread has made (R358): none at home, the bud's in a host group. -/
def Group.hopsOf (g : Group) (t : Nat) : Nat :=
  match g.host with
  | some h => ((h.buds[t]?).map (·.hops)).getD 0
  | none => 0

/-- The region control block that a thread's buds are charged to (R371): its task's; a host thread's task is that of
the bud it serves, whose RCB only its own package has. -/
def State.budRcb (s : State) (g : Group) (t : Nat) : Option Word :=
  match g.host with
  | none => (s.taskOf g).map (·.rcb)
  | some h => ((h.buds[t]?).bind (fun b =>
      if b.spkg = s.pkg then s.budsOut.find? (fun o => o.bud.ref == b.ref) else none)).bind (·.rcb)

/-- LEAFBASE and ARGS of a group (R23, R364). -/
def State.codeOf (s : State) (g : Group) : Word × Word :=
  match g.host with
  | some h => ((h.buds.head?).map (fun b => (b.leafbase, b.args))).getD (0, 0)
  | none => ((s.taskOf g).map (fun t => (t.leafBase, t.args))).getD (0, 0)

/-- What a `GRFT` carries: registers, region entry, slot, fallback. -/
structure GraftArg where
  regs : List Nat
  mask : BitVec 16
  region : Nat
  slot : Nat
  fb : Bool
  deriving DecidableEq, Repr

/-- The bud of one thread enters its core's send queue (R358, R360): its subset registers become pending. -/
def State.queueBud (s : State) (c : LCtx) (g0 : Group) (r : Run) (a : GraftArg) (t : Nat) (ptr : Word) (pkg die : Nat) :
    State :=
  let k := g0.coreN
  let sid := s.slotStream g0 a.slot
  let (lb, ar) := s.codeOf g0
  let (n, s) := s.newId
  let bud : Bud := {
    spkg := s.pkg, sdie := coreDie k, sgrove := coreGrove k % 24, score := k % 4, slane := g0.lane, sgpos := g0.pos,
    sthread := t, hops := g0.hopsOf t + 1, kind := .bud, fcode := 0, region := a.region, mask := a.mask,
    strmid := sid.getD 0, strmv := sid.isSome, dpart := g0.part, pts := s.pts k, leafbase := lb, args := ar,
    snap := [0, 1, 2, 3].map (SMap.get 0 r.a), subset := a.regs.map (fun x => (g0.lreg x t).val), ref := n,
    obj := ptrObj ptr, tenant := ((SMap.find? s.parts g0.part).map (·.tenant)).getD 0 }
  let out : OutBud := { gid := c.gid, part := g0.part, rcb := s.budRcb g0 t, fb := a.fb, dest := (pkg, die), off := c.off,
                        bud := budWire bud }
  let s := { s with resvs := s.resvs.filter (fun r => !(r.2.2.1 == c.gid && r.2.2.2.1 == t)) }
  let s := s.modGroup c.gid (fun g => a.regs.foldl (fun (g : Group) x => g.pendLane x t .graft) { g with buds := g.buds + 1 })
  s.modCore k (fun x => { x with budq := x.budq ++ [{ after := sid.map (fun i => (i, s.nextId)), out }] })

/-- `GRFT` (R357-R360). -/
def execGrft (ctl : Ctl) (s1 : Opnd) (mask : BitVec 16) (region : BitVec 21) (slot : BitVec 3) (fb : Bool) (s : State) :
    Host.Outcome State Fault Refusal :=
  runLeaf s ctl (fun c g r s =>
    let regs := (List.range 16).filter (fun n => mask.getLsbD n)
    match regs.find? (fun n => decide (8 * g.chunks ≤ n)) with
    | some n => .done s 1 ((threadsOf c.takers).map (fun t =>
        { thread := t, code := .indexRange, info := BitVec.ofNat 64 n }))
    | none =>
      match readable g r c.takers ((s1, false) :: regs.map (fun n => (.lane (BitVec.ofNat 7 n), false))) [] with
      | none => .wait
      | some (ts, fs) =>
        let (hs, s) := s.graftHomes g (ts.map (fun t => (t, opndVal g r (some .b64) t s1)))
        let ms := hs.filterMap (fun h => match h.2.2 with
          | .miss m => some m
          | _ => none)
        if !ms.isEmpty then .park s ms c.takers []
        else
          let here (h : Nat × Word × Home) : Bool := h.2.2 == .at_ s.pkg (coreDie g.coreN)
          match g.graftSplit c.slot c.next region.toNat (maskOf ((hs.filter here).map (·.1))) with
          | none => .done s 1 ((threadsOf c.mask).map (fun t => { thread := t, code := .divergeOverflow }))
          | some g' =>
            let fs := fs ++ hs.filterMap (fun h =>
              let f (k : Code) : TFault := { thread := h.1, code := k, info := h.2.1 }
              match h.2.2 with
              | .fault k => some (f k)
              | _ => if !here h && g.hopsOf h.1 == 3 then some (f .graftHops) else none)
            let a : GraftArg := { regs, mask, region := region.toNat, slot := slot.toNat, fb }
            .moved (hs.foldl (fun s h => match h.2.2 with
              | .at_ k e => if here h || g.hopsOf h.1 == 3 then s else s.queueBud c g r a h.1 h.2.1 k e
              | _ => s) (s.putGroup c.gid g')) fs)

/-! ## GRET (R361) -/

/-- `GRET` (R361): an arrival at a graft record, a host thread's wait for its return, or `ILLEGAL`. -/
def execGret (ctl : Ctl) (s : State) : Host.Outcome State Fault Refusal :=
  runLeaf s ctl (fun c g _ s =>
    let jrec := (g.slot c.slot).bind (·.jrec)
    let inRegion := (jrec.bind g.findRec).any (·.graft)
    if inRegion then .moved (s.putGroup c.gid ((g.advance c.slot c.next).arriveMask c.slot c.takers)) []
    else match (if g.underGraft g.stack.length jrec then none else g.host) with
      | none => .done s 1 (allFault (threadsOf c.mask) .illegal)
      | some h =>
        let es : List Ending := (threadsOf c.takers).map (fun t => { thread := t, code := 0, off := c.off })
        .moved (s.putGroup c.gid { (g.advance c.slot c.next).endThreads c.slot c.takers false with
          host := some { h with ending := h.ending ++ es } }) [])

/-! ## Buds on their way (R355, R360, R368, R371) -/

/-- The receiver that a bud goes to (R355). -/
def budReceiver (b : Bud) : Nat := (b.sgrove + b.score) % 4

/-- A refusal notice sets out for home (R368). -/
def State.refuseBud (s : State) (b : Bud) : State :=
  { s with returns := s.returns ++ [budWire { b with kind := .refusal, subset := [], snap := [] }] }

/-- A bud's charge goes back (R371). -/
def State.reclaimBud (s : State) (o : OutBud) : State :=
  match o.rcb with
  | some _ => if o.charged then s.reclaimAt o.part o.path { bud := 1 } else s
  | none => s
/-- The levels and budgets that a bud is charged to: those of its group's cluster (R13, R371). -/
def State.budLimits (s : State) (o : OutBud) : List (Word × List (Option Nat)) :=
  match o.rcb with
  | none => []
  | some r => match (SMap.find? s.groups o.gid).filter (fun g => g.host.isNone) with
    | some g => s.limitsOf g
    | none => (s.resolve o.part r).limits

/-- A bud for another package stands in a bud queue (R354, R355) until the other package's relay engine takes it. -/
def State.queuedBuds (s : State) (m : Nat) : Nat :=
  (s.budsOut.filter (fun o => o.via.head? == some m && (o.leaves.map (fun c => decide (s.cycle < c))).getD false)).length
/-- A bud of this package waits at its sender for room in its bud queue (R354, R363). -/
def OutBud.waits (o : OutBud) (s : State) : Bool := o.dest.1 != s.pkg && !o.arrived && o.leaves.isNone
/-- A bud enters the bud queue of its route, in the transport region of the first module there, if there is room (R335,
R355): how long it stands in it is another package's doing, a value of no stated meaning (log entry 125). -/
def State.enterBudQueue (s : State) (o : OutBud) : Option State :=
  match (s.budRoute o.dest.1).getD [] with
  | [] => none
  | m :: r =>
    if s.linkUp m && ((s.modulePort m).bind (fun h => (s.podPort h).region)).isSome
        && decide (s.queuedBuds m < relayDepth) then
      let (w, s) := s.freeWord
      some { s with budsOut := s.budsOut.map (fun x =>
        if x.bud.ref = o.bud.ref then { x with via := m :: r, leaves := some (s.cycle + w.toNat), since := s.cycle } else x) }
    else none

/-- The first bud of a core's send queue is sent, or refused before it is (R360, R368). One that waits for room in its bud
queue goes first. -/
def execBudSend (core : Nat) (s : State) : Host.Outcome State Fault Refusal :=
  let mine (o : OutBud) : Bool := o.waits s && decide (4 * (24 * o.bud.sdie + o.bud.sgrove) + o.bud.score = core)
  .next (match (s.budsOut.filter mine).findSome? s.enterBudQueue, (s.core core).budq with
    | some s, _ => s
    | none, [] => s
    | none, q :: rest =>
      let acked := match q.after with
        | none => true
        | some (sid, n) => match SMap.find? s.streams sid with
          | some x => x.ops.all (fun o => decide (n ≤ o.num))
          | none => true
      if !acked then s
      else
        let s := s.modCore core (fun x => { x with budq := rest })
        let o := { q.out with since := s.cycle }
        let far := o.dest.1 != s.pkg
        let dpart := if far then ((SMap.find? s.parts o.part).bind (fun p => SMap.find? p.graftMap o.dest.1)) else some o.part
        let broke := match o.rcb with
          | some _ => !s.fitsIn o.part (s.budLimits q.out) { bud := 1 }
          | none => false
        match dpart with
        | none => ({ s with budsOut := s.budsOut ++ [o] }).refuseBud o.bud
        | some d =>
          if broke then ({ s with budsOut := s.budsOut ++ [o] }).refuseBud o.bud
          else
            let path : List Word := (s.budLimits q.out).map (·.1)
            let o := { o with charged := o.rcb.isSome, path, bud := { o.bud with dpart := d } }
            let s := match o.rcb with
              | some _ => s.chargeAt o.part o.path { bud := 1 }
              | none => s
            let s := { s with budsOut := s.budsOut ++ [o] }
            if o.waits s then (s.enterBudQueue o).getD s else s)

/-- A bud of this package that is out. -/
def State.outBud (s : State) (b : Bud) : Option OutBud := s.budsOut.find? (fun o => o.bud.ref == b.ref)
/-- A bud that is out changed. -/
def State.modOut (s : State) (n : Nat) (f : OutBud → OutBud) : State :=
  { s with budsOut := s.budsOut.map (fun o => if o.bud.ref = n then f o else o) }
/-- A refusal of a bud is already on its way home. -/
def State.refused (s : State) (b : Bud) : Bool := s.returns.any (fun r => r.ref == b.ref && r.kind == .refusal)

/-- The partition holds work on a die: a resident group of its own. -/
def State.worksOn (s : State) (part : Nat) (on : Nat → Bool) : Bool :=
  s.groups.any (fun e => e.2.part == part && e.2.host.isNone && (match e.2.core with
    | some c => on c
    | none => false))
/-- A receiver. -/
def Die.recv (d : Die) (k : Nat) : Receiver := (SMap.find? d.recvs k).getD {}
/-- A receiver changed. -/
def State.modRecv (s : State) (die k : Nat) (f : Receiver → Receiver) : State :=
  s.modDie die (fun d => { d with recvs := SMap.put d.recvs k (f (d.recv k)) })

/-- A bud is refused at its receiver (R368): another tenant, no work on the die, or a sealed object. -/
def State.refuses (s : State) (die : Nat) (b : Bud) : Bool :=
  match SMap.find? s.parts b.dpart with
  | none => true
  | some p =>
    p.tenant != b.tenant || !s.worksOn b.dpart (fun c => coreDie c == die) ||
      (match s.walkDesc p b.obj with
       | .ok d => (match keyClass p d with
         | .sealed_ => true
         | .mismatch => true
         | _ => false)
       | .error _ => false)

/-- Transport from another package: over a port that is up, from a transport region there (R335, R355). -/
def State.transportFrom (s : State) (q : Nat) : Bool :=
  (((s.budRoute q).bind List.head?).bind s.modulePort).any (fun h => (s.podPort h).up && (s.podPort h).region.isSome)

/-- A bud arrives at a receiver of this package (R363, R368): a full queue makes it wait. -/
def execBudArrival (die recv : Nat) (b : Bud) (s : State) : Host.Outcome State Fault Refusal :=
  .next (
    let full := decide (1024 ≤ ((s.die die).recv recv).queue.length)
    if full || b.kind != .bud || budReceiver b != recv then s
    else if b.spkg = s.pkg then
      match s.outBud b with
      | none => s
      | some o =>
        if o.bud != b || o.arrived || o.dest != (s.pkg, die) || s.refused b then s
        else
          let s := s.modOut b.ref (fun o => { o with arrived := true })
          if !o.fallback && s.refuses die b then s.refuseBud b
          else s.modRecv die recv (fun r => { r with queue := r.queue ++ [b] })
    else if s.refuses die b || !s.transportFrom b.spkg then s
    else s.modRecv die recv (fun r => { r with queue := r.queue ++ [budWire b] }))

/-- A bud that waited 4,096 cycles without entering its next queue is refused (R368). -/
def execBudQueueTimeout (b : Bud) (s : State) : Host.Outcome State Fault Refusal :=
  .next (match s.outBud b with
    | none => s
    | some o =>
      if o.arrived || o.fallback || s.refused b || decide (s.cycle < o.since + 4096) then s
      else (s.modOut b.ref (fun o => { o with arrived := true })).refuseBud o.bud)

/-! ## Receivers (R363, R364) -/

/-- Task key, REGION and A0 to A3 agree (R363, R356). -/
def sameWork (a b : Bud) : Bool :=
  a.spkg == b.spkg && a.dpart == b.dpart && a.leafbase == b.leafbase && a.args == b.args && a.region == b.region
    && a.snap == b.snap

/-- The positions in a receiver's queue of the buds of its next host group (R363). -/
def assembled (q : List Bud) : List Nat :=
  match q with
  | [] => []
  | b :: _ => ((List.range (Nat.min q.length 256)).filter (fun i => (q[i]?).any (sameWork b))).take 32

/-- Host groups of a receiver. -/
def State.hostsOf (s : State) (die recv : Nat) : Nat :=
  (s.groupsOf (fun g => match g.host with
    | some h => h.die == die && h.recv == recv
    | none => false)).length

/-- The state a host group starts with (R364). -/
def hostGroup (s : State) (n die recv core lane : Nat) (p : Part) (bs : List Bud) (b : Bud) : Group :=
  let m := maskOf (List.range bs.length)
  let a : SMap Word := ((List.range 4).zip b.snap).foldl (fun (x : SMap Word) y => SMap.set 0 x y.1 y.2) []
  let run : Run := { off := b.region, a, x := [], lease := BitVec.ofNat 8 p.lease }
  let g : Group := {
    part := b.dpart, tid := n, cid := n, wg := 0, idx := 0, core := some core, lane, pos := (s.freePos core lane).getD 0,
    pc := 0, a, chunks := 2, run := some run, slot0 := some { off := b.region, mask := m, jrec := none }, active := m,
    lease := BitVec.ofNat 8 p.lease, order := n, pendingSet := s.laneFull core lane,
    host := some { die, recv, buds := bs, heldSince := if s.dieHeld b.dpart die then some s.cycle else none } }
  ((List.range bs.length).zip bs).foldl (fun (g : Group) x =>
    ((budRegs x.2).zip x.2.subset).foldl (fun (g : Group) y => g.writeLane y.1 x.1 y.2) g) g

/-- The buds that a receiver takes next, and its queue after that (R363 steps 1 and 2): none while those taken before wait
to start. -/
def Receiver.assemble (r : Receiver) : Receiver :=
  if r.taken.isEmpty then
    let is := assembled r.queue
    { queue := ((List.range r.queue.length).zip r.queue).filterMap (fun x => if is.contains x.1 then none else some x.2)
      taken := is.filterMap (fun i => r.queue[i]?) }
  else r

/-- A receiver assembles and starts a host group (R363, R364): on the core that the device chooses, on the lane of
R190; without a free host group and place the buds that it has taken wait. -/
def execHostGroupStart (die recv core lane : Nat) (s : State) : Host.Outcome State Fault Refusal :=
  .next (
    let r := ((s.die die).recv recv).assemble
    let bs := r.taken
    match bs.head? with
    | none => s
    | some b =>
      let s := s.modRecv die recv (fun _ => r)
      match SMap.find? s.parts b.dpart with
      | none => s.modRecv die recv (fun r => { r with taken := [] })
      | some p =>
        if decide (64 ≤ s.hostsOf die recv) || coreDie core != die || (s.die die).held
            || !s.worksOn b.dpart (fun c => coreGrove c == coreGrove core) || s.pickLane core 2 [] != some lane then s
        else
          let (n, s) := s.newId
          let g := hostGroup s n die recv core lane p bs b
          let s := s.modRecv die recv (fun r => { r with taken := [] })
          ((bs.foldl (fun s b => s.raisePts core b.pts) s).clearGrowStuck core).putGroup n g)

/-! ## Returns, refusals, overruns (R362, R365, R371, R372) -/

/-- An outcome reaches the thread that sent a bud (R365, R371): its subset registers are filled or marked, its count
and the charge fall; a group that is gone drops it. -/
def State.closeBud (s : State) (o : OutBud) (x : Except (BitVec 8 × Nat) (List Word)) (pts : Option Time) : State :=
  let s := { s.reclaimBud o with budsOut := s.budsOut.filter (fun y => y.bud.ref != o.bud.ref) }
  match SMap.find? s.groups o.gid with
  | none => s
  | some g =>
    let s := match pts, g.core with
      | some t, some c => s.raisePts c t
      | some t, none => s.modWg g.cid g.wg (fun w => { w with savedPts := tmax w.savedPts t })
      | none, _ => s
    let t := o.bud.sthread
    let mine (g : Group) (n : Nat) : Bool := g.fills.any (fun f => f.reg == n && f.thread == t && f.src == .graft)
    let g := match x with
      | .ok vs => ((budRegs o.bud).zip vs).foldl (fun (g : Group) (y : Nat × Word) => if mine g y.1 then g.fillLane y.1 t (.ok y.2) else g) g
      | .error (k, a) => (budRegs o.bud).foldl (fun (g : Group) n =>
          if mine g n then g.fillLane n t (.error (.graft k (BitVec.ofNat 64 a))) else g) g
    (s.putGroup o.gid { g with buds := g.buds - 1 }).reapHost o.gid

/-- A return is applied at home (R365). One from another package, or the loss of a module on its route (R372), comes
from outside. -/
def execReturnApply (b : Bud) (s : State) : Host.Outcome State Fault Refusal :=
  .next (match s.outBud b with
    | none => s
    | some o =>
      let far := o.dest.1 != s.pkg
      let here := s.returns.contains b
      let lostNow := b.fcode.toNat == Code.moduleLost.byte && o.via.any s.modLost
      if b.kind != .ret || !(here || (far && o.leaves.isSome)) || s.refused b then s
      else
        let s := { s with returns := s.returns.erase b }
        let s := if b.fcode = 0 then s else s.modPart o.part (fun p => { p with markedReturns := p.markedReturns + 1 })
        if b.fcode = 0 then s.closeBud o (.ok b.subset) (some b.pts)
        else s.closeBud o (.error (b.fcode, if lostNow then o.off else b.region)) (some b.pts))

/-- A refusal notice is applied at home (R365, R368): marks, or the fallback on the sending die. -/
def execRefusalNotice (b : Bud) (s : State) : Host.Outcome State Fault Refusal :=
  .next (match s.outBud b with
    | none => s
    | some o =>
      let far := o.dest.1 != s.pkg
      if b.kind != .refusal || !(s.returns.contains b || (far && !s.refused b)) || o.fallback then s
      else
        let s := { s with returns := s.returns.erase b }
        if o.fb && (SMap.find? s.parts o.part).isSome then
          (s.reclaimBud o).modOut b.ref (fun o => { o with
            charged := false, fallback := true, arrived := false, leaves := none, dest := (s.pkg, o.bud.sdie), via := [], since := s.cycle,
            bud := { o.bud with dpart := o.part } })
        else s.closeBud o (.error (BitVec.ofNat 8 Code.graftRefused.byte, o.off)) none)

/-- Every path of a group: in its slots and spilled. -/
def Group.paths (g : Group) : List Path :=
  g.slot0.toList ++ g.slot1.toList ++ g.stack.filterMap (fun e => match e with
    | .spill p => some p
    | .join _ => none)
/-- Every thread on some path of a group. -/
def Group.alive (g : Group) : Mask := g.paths.foldl (fun m p => m ||| p.mask) 0

/-- A host group that outlasts its pre-empted die by 2^20 cycles: its threads return `SAFEPOINT_OVERRUN` (R372). -/
def execHostGroupOverrun (gid : Nat) (s : State) : Host.Outcome State Fault Refusal :=
  .next (match SMap.find? s.groups gid with
    | none => s
    | some g =>
      match g.host with
      | none => s
      | some h =>
        if (h.heldSince.map (fun c => decide (c + 2 ^ 20 ≤ s.cycle))).getD false then
          let off (t : Nat) : Nat := ((g.paths.find? (fun p => p.mask.getLsbD t)).map (·.off)).getD 0
          let es : List Ending := (threadsOf g.alive).map (fun t =>
            { thread := t, code := BitVec.ofNat 8 Code.safepointOverrun.byte, off := off t })
          ((s.cancelWaiter g.part (2 * gid)).putGroup gid { g with
            slot0 := none, slot1 := none, stack := [], run := none, park := none, redo := none,
            host := some { h with ending := h.ending ++ es } }).reapHost gid
        else s)

end Sys2Proof.Machine
end

