-- ==== Sys2Proof/Machine/Pod.lean ====
section
/-! DEFINITION. The pod (spec/17_pod.md R327-R354): streams and their instructions, what a module head does with the
operations of streams, module queues and reductions, and the loss of modules. -/
namespace Sys2Proof.Machine

/-! ## Binding and joining streams (R340, R341) -/

/-- The slot's stream is closed: its close message goes to its last module, and the slot is unbound (R338, R340). -/
def State.closeSlot (s : State) (gid slot sid : Nat) : State :=
  let s := match (SMap.find? s.streams sid).bind (·.sent) with
    | some (.modul m) => { s with closes := s.closes ++ [(m, sid)] }
    | _ => s
  ({ s with streams := SMap.erase s.streams sid }).modGroup gid (fun g => { g with wslots := SMap.erase g.wslots slot })

/-- The checks of a new identifier (R340). -/
def State.bindFault (s : State) (g : Group) (x : Nat) : Option Code :=
  let pool := (s.effOf g).pool
  if 65536 ≤ x then some .streamSeq
  else if x < pool.1 ∨ pool.1 + pool.2 ≤ x then some .rights
  else if (SMap.find? s.streams x).isSome then some .streamSeq
  else if !s.groupFits g { strm := 1 } then some .budget
  else none

/-- `STRM.BIND` (R340). -/
def execStrmBind (w : BitVec 3) (r : BitVec 5) (s : State) : Host.Outcome State Fault Refusal :=
  runStem s (fun gid g s =>
    let slot := w.toNat
    let x := (g.areg r.toNat).toNat
    let old := SMap.find? g.wslots slot
    if old = some x then .next s
    else if (old.bind (SMap.find? s.streams)).any (fun y => !y.ops.isEmpty) then .wait s
    else
      let s1 := match old with
        | some sid => s.closeSlot gid slot sid
        | none => s
      let s2 := if old.isSome then s1.reclaimAt g.part (((old.bind (SMap.find? s.streams)).map (·.path)).getD []) { strm := 1 } else s1
      if x = 2 ^ 64 - 1 then .next s2
      else match s1.bindFault g x with
        | some c => .fault s2 (g.fault c)
        | none =>
          let s := (s2.chargeBy g { strm := 1 }).modGroup gid (fun g => { g with
            wslots := SMap.put g.wslots slot x })
          .next { s with streams := SMap.put s.streams x { gid, slot, part := g.part, rcb := s.rcbOf g, path := s.pathOf g } })

/-- `STRM.JOIN` (R341): the operations of wb that exist now are those of smaller numbers. -/
def execStrmJoin (wa wb : BitVec 3) (s : State) : Host.Outcome State Fault Refusal :=
  runStem s (fun _ g s =>
    match SMap.find? g.wslots wa.toNat, SMap.find? g.wslots wb.toNat with
    | some a, some b =>
      if wa = wb then .next s
      else .next (s.modStream a (fun x => { x with join := x.join ++ [(b, s.nextId)] }))
    | _, _ => .next s)

/-! ## What a module performs (R320, R347, R349) -/

/-- A 64-bit word of a clear window. -/
def State.modWord (s : State) (m a : Nat) : Nat := wordOf (s.modBytes none m a 8)
/-- A value stored in a clear window. -/
def State.modPut (s : State) (m a n x : Nat) : State := s.modWrite m none (addrBytes a (bytesOf n x))

/-- One element update of a reduction (R349). -/
def redElem (op : RedOp) (y x : Nat) : Nat :=
  let f := fmtOf .f32
  let add (x : Nat) : Nat := (roundF f .rne false 0 (sumF .rne [decodeF f y, decodeF f x]).1).1
  match op with
  | .fadd => add x
  | .bfadd => add (x * 2 ^ 16)
  | .iadd => (y + x) % 2 ^ 32
  | .fmax => canonNan .f32 (minMaxF f true y x).1
  | .fmin => canonNan .f32 (minMaxF f false y x).1

/-- The result of an operation at a module. -/
structure ModRes where
  s : State
  result : List Word := []
  ok : Bool := true
  code : Option Code := none

/-- Bytes that an operation reads before it writes: address and count (R333, R347, R349). -/
def opReads : ModOp → List (Nat × Nat)
  | .write bs (some _) => ((sectors bs).filter (fun c => !covers bs c)).map (fun c => (32 * c, 32))
  | .write _ none => []
  | .atom xs => xs.map (fun x => (x.addr, x.n))
  | .push a _ _ => [(a.headD 0, 32)]
  | .pop a _ _ => [(a.headD 0, 32)]
  | .redu _ d xs => [(d, 4 * xs.length)]
/-- What an operation that is performed on values at the module addresses there: it must lie in the clear window
(R333, R345). -/
def needsWindow : ModOp → List (Nat × Nat)
  | .write _ _ => []
  | .atom xs => xs.map (fun x => (x.addr, x.n))
  | .push a c _ => queueSpans a (64 + 8 * c)
  | .pop a c _ => queueSpans a (64 + 8 * c)
  | .redu _ d xs => [(d, 4 * xs.length)]

/-- The entry that a pop would take (R347). -/
def State.popped (s : State) (m : Nat) : ModOp → List (Nat × Nat)
  | .pop q cap _ =>
    let h := s.modWord m (q.headD 0)
    if s.modWord m (q.headD 0 + 8) = h then [] else [(entryAddr q cap h, 8)]
  | _ => []

/-- An operation performed at a module, as one indivisible step (R320, R344, R347, R349). -/
def State.modPerform (s : State) (m : Nat) (op : ModOp) : ModRes :=
  if (opReads op ++ s.popped m op).any (fun x => (span x.1 x.2).any (fun a => SMap.get false s.modPoison (modKey m a / 32))) then
    { s, code := some .uePoison }
  else match op with
    | .write bs k => { s := s.modWrite m k bs }
    | .atom xs =>
      let r := xs.foldl (fun (r : State × List Word) x =>
        let old := wordOf (r.1.modBytes none m x.addr x.n)
        ((fnNew x.fn x.n old).elim r.1 (r.1.modPut m x.addr x.n), r.2 ++ [BitVec.ofNat 64 old])) (s, [])
      { s := r.1, result := r.2 }
    | .push q cap x =>
      let a := q.headD 0
      let h := s.modWord m a
      let t := s.modWord m (a + 8)
      if (t + 2 ^ 64 - h) % 2 ^ 64 = cap then
        { s := s.modPut m (a + 16) 8 (s.modWord m (a + 16) + 1), result := [BitVec.allOnes 64] }
      else { s := (s.modPut m (entryAddr q cap t) 8 x.toNat).modPut m (a + 8) 8 (t + 1), result := [BitVec.ofNat 64 t] }
    | .pop q cap wait =>
      let a := q.headD 0
      let h := s.modWord m a
      let t := s.modWord m (a + 8)
      if t = h then { s := if wait then s else s.modPut m (a + 24) 8 (s.modWord m (a + 24) + 1), ok := false }
      else
        { s := s.modPut m a 8 (h + 1), result := [BitVec.ofNat 64 (s.modWord m (entryAddr q cap h))] }
    | .redu op d xs =>
      { s := ((List.range xs.length).zip xs).foldl (fun s x =>
          s.modPut m (d + 4 * x.1) 4 (redElem op (wordOf (s.modBytes none m (d + 4 * x.1) 4)) x.2.toNat)) s }

/-- Lines that an operation may write. -/
def opLines : ModOp → List Nat
  | .push q _ _ => [q.headD 0 / 128]
  | .pop q _ _ => [q.headD 0 / 128]
  | op => ((opSpans op).map (fun x => x.1 / 128)).eraseDups
/-- The package keeps a copy of a line of a module (R332). -/
def State.hasPodCopy (s : State) (m line : Nat) : Bool := SMap.get 0 s.podCopies (modKey m (128 * line) / 128) != 0
/-- A back-invalidation of a line reaches the package: groups asleep at an `MQPOP` of that queue may retry (R347). -/
def State.wakePops (s : State) (m line : Nat) : State :=
  { s with groups := s.groups.map (fun e => (e.1, match e.2.wait with
    | .mqSleep _ k l => if k = m ∧ l = line then { e.2 with wait := .mqSleep 0 k l } else e.2
    | _ => e.2)) }

/-! ## Heads of modules (R338, R339) -/

/-- The package's own operation of a stream. -/
def State.ownOp (s : State) (sid seq : Nat) : Option SOp :=
  (SMap.find? s.streams sid).bind (fun x => x.ops.find? (fun o => o.seq == seq))
/-- An own operation changed. -/
def State.modOp (s : State) (sid seq : Nat) (f : SOp → SOp) : State :=
  s.modStream sid (fun x => { x with ops := x.ops.map (fun o => if o.seq = seq then f o else o) })
/-- An own operation is answered with a code, or as committed: the answer is on its way (R337, R348). -/
def State.answerOp (s : State) (sid seq : Nat) (c : Option Code) : State :=
  s.modOp sid seq (fun o => if o.state = 1 then { o with state := 2, code := c } else o)

/-- A key of another package's: kept apart from this package's keys. -/
def foreignKey : ModOp → ModOp
  | .write bs k => .write bs (k.map (· + 2 ^ 32))
  | op => op

/-- An own operation as it is committed: a sector under a layout key is decrypted, changed and encrypted again, unless the
rest of it cannot be read (R271, R272, R303). -/
def SOp.atCommit (o : SOp) (s : State) (m : Nat) : Except Code ModOp :=
  match o.layout, o.op with
  | some x, .write ws k =>
    let l := (ws.head?.map (·.1)).getD 0 / 32 * 32
    if !covers ws (l / 32) && SMap.get false s.modPoison (modKey m l / 32) then .error .uePoison
    else .ok (.write (addrBytes l (x.write (s.modBytes k m l 32) ws)) k)
  | _, op => .ok op

/-- An operation is committed at a module (R338, R344): an own one that has no answer yet is answered; another package's
reaches this one by the back-invalidation of a line that it keeps (R332, R347). -/
def State.commit (s : State) (m : Nat) (msg : ModMsg) (own : Bool) : State :=
  if own then
    match (s.ownOp msg.sid msg.seq).filter (fun o => o.state == 1) with
    | none => s
    | some o =>
      let outside := match SMap.find? s.parts o.part with
        | some p => (needsWindow o.op).any (fun x => !s.inWindow p m x.1 x.2)
        | none => false
      if outside then s.answerOp msg.sid msg.seq (some .rights)
      else match o.atCommit s m with
      | .error c => s.answerOp msg.sid msg.seq (some c)
      | .ok op =>
        let r := s.modPerform m op
        r.s.modOp msg.sid msg.seq (fun o => { o with state := 2, code := r.code, result := r.result, ok := r.ok })
  else
    let op := foreignKey msg.op
    let t := (s.modPerform m op).s
    ((opLines op).filter (fun l => s.hasPodCopy m l && !t.hasPodCopy m l)).foldl (fun t l => t.wakePops m l) t

/-- A context of a head. -/
def Head.ctx (h : Head) (sid : Nat) : Option ModCtx := h.ctxs.find? (fun c => c.sid == sid)
/-- The head of a module that holds a stream's context, else the head that an operation arrives at: after a change of
route a stream's operations come to another head and find the context that the module keeps of them (R352 and its
worked example; DEDUCED, log entry 106). -/
def State.ctxHead (s : State) (m hd sid : Nat) : Nat :=
  ((List.range 8).find? (fun k => ((s.head m k).ctx sid).isSome)).getD hd
/-- A context stored in a head. -/
def Head.putCtx (h : Head) (c : ModCtx) : Head := { h with ctxs := h.ctxs.filter (fun x => x.sid != c.sid) ++ [c] }
/-- Contexts of a head (R338). -/
def headContexts : Nat := 4096

/-- Held operations that are now in order are committed (R338). -/
def State.drainWindow (m hd sid : Nat) : Nat → State → State
  | 0, s => s
  | f + 1, s =>
    let h := s.head m hd
    match h.ctx sid with
    | none => s
    | some c =>
      match c.window.find? (fun w => w.1.seq == c.next) with
      | none => s
      | some (msg, own) =>
        let c := { c with next := (c.next + 1) % 2 ^ 32, window := c.window.filter (fun w => w.1.seq != msg.seq) }
        State.drainWindow m hd sid f ((s.putHead m hd (h.putCtx c)).commit m msg own)

/-- A stream's operation that waits for a context at some head of a module waits there no more: the stream is served at
another (R352). -/
def State.clearWaits (s : State) (m sid : Nat) : State :=
  (List.range 8).foldl (fun s k =>
    let h := s.head m k
    if h.waits.any (fun w => w.msg.sid == sid) then
      s.putHead m k { h with waits := h.waits.filter (fun w => w.msg.sid != sid) }
    else s) s

/-- An operation arrives at a head (R338, R339). -/
def State.headArrive (s : State) (m hd : Nat) (msg : ModMsg) (own : Bool) : State :=
  let hd := s.ctxHead m hd msg.sid
  let h := s.head m hd
  let q := msg.seq
  let drop (s : State) : State := if own then s.answerOp msg.sid q none else s
  let reject (s : State) : State := if own then s.answerOp msg.sid q (some .streamSeq) else s
  let n := (q + 1) % 2 ^ 32
  match h.ctx msg.sid with
  | none =>
    let s := if msg.resync then s.clearWaits m msg.sid else s
    let h := s.head m hd
    if !msg.resync then reject s
    else if h.ctxs.length < headContexts then
      (s.putHead m hd (h.putCtx { sid := msg.sid, next := n, resync := q })).commit m msg own
    else s.putHead m hd { h with waits := h.waits ++ [{ msg, own, since := s.cycle }] }
  | some c =>
    let d := (q + 2 ^ 32 - c.next) % 2 ^ 32
    if msg.resync then
      if q = c.resync ∧ c.next ≠ q then drop s
      else (s.putHead m hd (h.putCtx { c with next := n, resync := q })).commit m msg own
    else if d = 0 then
      State.drainWindow m hd msg.sid 64 ((s.putHead m hd (h.putCtx { c with next := n })).commit m msg own)
    else if d ≤ 63 then
      if c.window.any (fun w => w.1.seq == q) then s
      else s.putHead m hd (h.putCtx { c with window := c.window ++ [(msg, own)] })
    else if 2 ^ 31 ≤ d then drop s
    else reject s

/-- The head through which this package's operations reach a module: its own, or its relay's (R327, R330); none while the
module is lost or the route carries no traffic (R328). -/
def State.headFor (s : State) (m : Nat) : Option Nat :=
  if s.modLost m || !s.linkUp m then none
  else match s.modulePort m with
  | some h => some h
  | none => (s.relay m).bind (fun r => (List.range 6).find? (fun h => s.headPkg m h == some r))

/-- An own operation that is on its way, as a message. -/
def SOp.msg (o : SOp) (sid : Nat) : ModMsg := { sid, seq := o.seq, resync := o.resync, op := o.op }

/-- The operations of this package that are on their way through a transport queue (R331). -/
def State.relayed (s : State) (m : Nat) : Nat :=
  if (s.modulePort m).isSome then 0
  else (s.streams.flatMap (fun e => e.2.ops.filter (fun o => o.state == 1 && (match o.dest with
    | .modul k => (s.modulePort k).isNone && s.relay k == s.relay m
    | .host => false)))).length

/-- Close messages of a stream that are on their way to a module arrive: its context there is free (R338). -/
def State.closeNow (s : State) (m hd sid : Nat) : State :=
  let hd := s.ctxHead m hd sid
  let h := s.head m hd
  { s.putHead m hd { h with ctxs := h.ctxs.filter (fun c => c.sid != sid) } with closes := s.closes.filter (· != (m, sid)) }

/-- A stream operation arrives at a module head (R338): through a relay, a stream's operations in their order (R331);
before a resync, the close messages that its stream has sent there. -/
def execStreamOpArrival (m head : Nat) (src : MsgSrc) (s : State) : Host.Outcome State Fault Refusal :=
  .next (if s.modLost m then s
    else match src with
      | .foreign msg => if msg.sid / 2048 = s.pkg then s else s.headArrive m head msg false
      | .own sid seq =>
        match s.ownOp sid seq with
        | none => s
        | some o =>
          let waiting := (s.head m head).waits.any (fun w => w.own && w.msg.sid == sid && w.msg.seq == seq)
          let first := (s.modulePort m).isSome
            || (((SMap.find? s.streams sid).bind (fun x => x.ops.find? (fun y => y.state == 1))).map (·.seq)) == some seq
          if o.state = 1 ∧ o.dest = .modul m ∧ s.headFor m = some head ∧ !waiting ∧ first then
            (if o.resync && s.closes.contains (m, sid) then s.closeNow m head sid else s).headArrive m head (o.msg sid) true
          else s)

/-- A context is free again: the oldest resync that waits at the head, for no longer than 65,536 cycles, takes it
(R339). -/
def State.admitWait (s : State) (m hd : Nat) : State :=
  let h := s.head m hd
  match h.waits.find? (fun w => decide (s.cycle < w.since + 65536)) with
  | none => s
  | some w =>
    if h.ctxs.length < headContexts then
      let s := s.putHead m hd { h.putCtx { sid := w.msg.sid, next := (w.msg.seq + 1) % 2 ^ 32, resync := w.msg.seq } with
        waits := h.waits.erase w }
      s.commit m w.msg w.own
    else s
/-- A close message is committed: the stream's context is freed (R338). Another package's close names its own stream. -/
def execStreamClose (m head sid : Nat) (s : State) : Host.Outcome State Fault Refusal :=
  .next (
    if if s.closes.contains (m, sid) then s.headFor m != some head else sid / 2048 == s.pkg then s
    else (s.closeNow m head sid).admitWait m (s.ctxHead m head sid))

/-- Values of no stated meaning for the results of an operation that failed: its registers are filled (R348). -/
def State.freeFills (s : State) (gid sid seq : Nat) : State :=
  match SMap.find? s.groups gid with
  | none => s
  | some g =>
    let n := g.fills.length
    let g := { g with fills := ((List.range n).zip g.fills).map (fun x => match x.2.src with
      | .stream i q _ _ => if i = sid ∧ q = seq then { x.2 with src := .value (Config.freeWord (s.fresh + x.1)) } else x.2
      | _ => x.2) }
    { s.putGroup gid g with fresh := s.fresh + n }
/-- An `MQPUSH` or `MQPOP` that waits for an operation has its result (R347). -/
def State.mqResult (s : State) (gid sid seq : Nat) (ok : Bool) (x : Word) : State :=
  s.modGroup gid (fun g => if g.wait = .mq sid seq then { g with wait := .mqDone ok x } else g)
/-- A failed operation's waiters go on with values of no stated meaning (R348). -/
def State.releaseOp (s : State) (sid : Nat) (o : SOp) : State :=
  let s := s.freeFills o.gid sid o.seq
  let (x, s) := s.freeWord
  s.mqResult o.gid sid o.seq true x

/-- A write of an engine operation has failed: the operation fails, and a fault is held as for any other failure of it
(R272, R273). -/
def State.failEngine (s : State) (num : Nat) (c : Code) : State :=
  { s with groves := s.groves.map (fun e => (e.1, { e.2 with queues := e.2.queues.map (fun q => (q.1, q.2.map (fun x =>
      match x with
      | .op o => if o.num = num then .op { o with failed := some (o.failed.getD c) } else x
      | .fence _ _ _ _ => x))) })) }

/-- A resync held at a head is rejected after 65,536 cycles without a free context (R339): what is queued behind it is
discarded. -/
def execStreamCtxTimeout (m head sid : Nat) (s : State) : Host.Outcome State Fault Refusal :=
  .next (
    let h := s.head m head
    match h.waits.find? (fun w => w.msg.sid == sid && decide (w.since + 65536 ≤ s.cycle)) with
    | none => s
    | some w =>
      let s := s.putHead m head { h with waits := h.waits.erase w }
      if !w.own then s
      else
        let s := s.answerOp sid w.msg.seq (some .streamCtxFull)
        match SMap.find? s.streams sid with
        | none => s
        | some x =>
          let s := (x.ops.filter (fun o => o.state == 0)).foldl (fun s o => match o.eng with
            | some n => s.failEngine n .streamCtxFull
            | none => s.releaseOp sid o) s
          (s.modStream sid (fun y => { y with ops := y.ops.filter (fun o => o.state != 0), fresh := true })).answerInvs x.part)

/-! ## Sending and acknowledgement (R337, R341-R343, R348) -/

/-- Every operation that a join names has been acknowledged (R341). -/
def State.joinsDone (s : State) (o : SOp) : Bool :=
  o.after.all (fun j => match SMap.find? s.streams j.1 with
    | some x => x.ops.all (fun y => decide (j.2 ≤ y.num))
    | none => true)

/-- The first operation at the port may be sent (R337, R341); an engine's completion word is held there first (R269). -/
def State.mayBeSent (s : State) (x : Stream) (o : SOp) : Bool :=
  let sent := x.ops.filter (fun y => y.state != 0)
  !o.hold && (match o.dest with
    | .modul m => s.linkUp m && decide (s.relayed m < relayDepth)
    | .host => true) && decide (sent.length < 64) && sent.all (fun y => !y.resync) && (!o.resync || sent.isEmpty) && s.joinsDone o

/-- Operations dropped before they were sent, with a held fault for the first (R272, R348). -/
def State.dropUnsent (s : State) (sid : Nat) (o : SOp) (c : Code) : State :=
  let s := s.modStream sid (fun x => x.drop (fun y => y.num == o.num && y.state == 0))
  (s.modGroup o.gid (fun g => { g with held := g.held ++ [{ code := c, addr := o.addr, num := o.num }] })).answerInvs o.part

/-- Source elements of a reduction as words. -/
def elemsOf (size : Nat) : Nat → List Byte → List Word
  | 0, _ => []
  | n + 1, bs => BitVec.ofNat 64 (wordOf (bs.take size)) :: elemsOf size n (bs.drop size)

/-- Some present page at the offsets of an object does not lie in HBM. -/
def State.awayFrom0 (s : State) (p : Part) (obj : Nat) (offs : List Nat) : Bool :=
  match s.walkDesc p obj with
  | .error _ => false
  | .ok d => offs.any (fun o => match (s.translate 0 p obj d o false).1 with
    | .place (.hbm _) _ => false
    | .place _ _ => true
    | _ => false)

/-- The source of a reduction is read as an engine reads, before its operation is sent (R349). -/
def State.readSource (s : State) (sid : Nat) (o : SOp) : Option State :=
  match o.src, SMap.find? s.parts o.part with
  | some q, some p =>
    let n := q.count * q.size
    if q.miss.isSome then some s
    else if q.failed then some (s.dropUnsent sid o .pageFail)
    else if s.awayFrom0 p q.obj [q.off, q.off + n - 1] then some (s.dropUnsent sid o .objInvalid)
    else
      match State.engSpan p { die := 0, lease := q.lease } q.obj (n + 1) q.off n [] q.ts s with
      | .ok (bs, _) s =>
        some (s.modOp sid o.seq (fun o => { o with
          src := none
          op := match o.op with
            | .redu op d _ => .redu op d (elemsOf q.size q.count bs)
            | op => op }))
      | .fail c s => some (s.dropUnsent sid o c)
      | .miss m s => if m.down then some s else
        let s := s.modOp sid o.seq (fun o => { o with src := some { q with miss := some (m.miss.obj, m.miss.page) } })
        some (if m.miss.mig then s else s.request o.part m.miss.obj m.miss.page m.kind m.first m.mal (2 * o.gid))
  | _, _ => none

/-- The line of a module that a write goes to loses this package's copy (R332). -/
def State.dropOwnCopies (s : State) (d : Dest) (op : ModOp) : State :=
  match d with
  | .modul m => { s with podCopies := (opLines op).foldl (fun (x : SMap Nat) l =>
      SMap.set 0 x (modKey m (128 * l) / 128) 0) s.podCopies }
  | .host => s

/-- A stream operation is sent (R337): to a module, or as a posted write of the host link (R342). -/
def execStreamOpSend (sid : Nat) (s : State) : Host.Outcome State Fault Refusal :=
  .next (match SMap.find? s.streams sid with
    | none => s
    | some x =>
      match x.ops.find? (fun o => o.state == 0) with
      | none => s
      | some o =>
        if !s.mayBeSent x o then s
        else match s.readSource sid o with
          | some s => s
          | none =>
            let s := match x.sent with
              | some (.modul m) => if some o.dest = x.sent then s else { s with closes := s.closes ++ [(m, sid)] }
              | _ => s
            let s := s.modStream sid (fun x => { x with sent := some o.dest })
            let s := s.dropOwnCopies o.dest o.op
            match o.dest, o.op with
            | .host, .write bs _ => (s.hostWrite (match o.layout with
                | none => bs
                | some x =>
                  let l := (bs.head?.map (·.1)).getD 0 / 32 * 32
                  addrBytes l (x.write (s.hostBytes l 32) bs))).modOp sid o.seq (fun o => { o with state := 2 })
            | _, _ => s.modOp sid o.seq (fun o => { o with state := 1 }))

/-- Threads fault at a leaf instruction that they have left behind: wherever their path stands (R142, R351). -/
def State.lateFault (s : State) (gid off : Nat) (fs : List TFault) : State :=
  (s.takeThreadFaults gid off fs Group.endAnywhere).settleGroup gid

/-- The result of an operation for a thread (R320). -/
def SOp.resultOf (o : SOp) (t : Nat) : Word :=
  match o.op with
  | .atom xs => (((xs.zip o.result).find? (fun x => x.1.thr == t)).map (·.2)).getD 0
  | _ => o.result.headD 0

/-- The answer of an operation reaches its group, or the engine operation that it is a write of (R273, R337, R343, R347,
R348, R351). -/
def State.deliver (s : State) (sid : Nat) (o : SOp) : State :=
  match o.code with
  | none =>
    let s := s.modGroup o.gid (fun g => { g with
      fills := g.fills.map (fun f => match f.src with
        | .stream i q _ _ => if i = sid ∧ q = o.seq then { f with src := .value (o.resultOf f.thread) } else f
        | _ => f)
      stuck := [] })
    s.mqResult o.gid sid o.seq o.ok (o.result.headD 0)
  | some c =>
    let fs := ((SMap.find? s.groups o.gid).map (fun g => g.fills.filterMap (fun f => match f.src with
      | .stream i q _ off => if i = sid ∧ q = o.seq then some (f.thread, off) else none
      | _ => none))).getD []
    match c, fs, o.eng with
    | _, _, some n => s.failEngine n c
    | .moduleLost, (_, off) :: _, none =>
      let s := s.modGroup o.gid (fun g => g.fills.foldl (fun (h : Group) f => match f.src with
        | .stream i q _ _ => if i = sid ∧ q = o.seq then h.failLane f.reg f.thread else h
        | _ => h) g)
      s.lateFault o.gid off (fs.map (fun x => { thread := x.1, code := c, info := o.addr }))
    | _, _, none => (s.releaseOp sid o).modGroup o.gid (fun g => { g with
        stuck := [], held := g.held ++ [{ code := c, addr := o.addr, num := o.num }] })

/-- An acknowledgement or a rejection arrives at the sender (R337, R348). -/
def execStreamAck (sid seq : Nat) (s : State) : Host.Outcome State Fault Refusal :=
  .next (match s.ownOp sid seq with
    | none => s
    | some o =>
      if o.state != 2 then s
      else
        let s := s.modStream sid (fun x => { x with ops := x.ops.filter (fun y => y.seq != seq) })
        (((s.deliver sid o).reapStream sid).reapHost o.gid).answerInvs o.part)

/-! ## Queues (R345-R347) -/

/-- Steps 2 to 6 of R346. -/
def mqLate (d : Desc) (k : KeyClass) (ptr : Word) (push bound : Bool) : Option Code :=
  if !(d.w && d.a && (push || d.r)) || ptrNA ptr || ptrNW ptr || k == .open_ then some .rights
  else if ptrOff ptr != 0 then some .misalign
  else if d.size < 72 ∨ (d.size - 64) % 8 ≠ 0 then some .bounds
  else match sealFault k with
    | some c => some c
    | none => if bound then none else some .streamSeq

/-- A byte of a queue or of a reduction's destination: its module and address there, or a fault, or a miss. -/
def State.redPlace (s : State) (g : Group) (p : Part) (ptr : Word) (d : Desc) (off : Nat) : Except Code (Except MissInfo (Nat × Nat)) :=
  match (s.findPage (coreDie g.coreN) g p (ptrObj ptr) d off true).1 with
  | .fault c => .error c
  | .miss m mal => .ok (.error { miss := m, mal, kind := .write, first := off })
  | .place pl _ =>
    match pl with
    | .modul _ m a => if s.placeLost pl then .error .moduleLost else .ok (.ok (m, a))
    | _ => .error .objInvalid

/-- The places of several bytes of an object, if every page is there. -/
def State.redPlaces (s : State) (g : Group) (p : Part) (x : Word) (d : Desc) :
    List Nat → Except Code (Except MissInfo (List (Nat × Nat)))
  | [] => .ok (.ok [])
  | o :: r =>
    match s.redPlace g p x d o with
    | .error c => .error c
    | .ok (.error m) => .ok (.error m)
    | .ok (.ok a) =>
      match s.redPlaces g p x d r with
      | .ok (.ok l) => .ok (.ok (a :: l))
      | e => e

/-- The checks of a queue instruction (R346): the module, the addresses there of the queue's pages, its capacity. Each
page of the queue is looked up, and all lie on one module (DESIGN CHOICE, log entry 105). -/
def State.mqCheck (s : State) (g : Group) (ptr : Word) (slot : Nat) (push : Bool) :
    Except Code (Except MissInfo (Nat × List Nat × Nat)) × State :=
  match SMap.find? s.parts g.part with
  | none => (.error .objInvalid, s)
  | some p =>
    match s.coreDesc g.coreN g.part (ptrObj ptr) with
    | (.error c, s) => (.error c, s)
    | (.ok d, s) =>
      let (x, s) := s.findPage (coreDie g.coreN) g p (ptrObj ptr) d (if ptrOff ptr < d.size then ptrOff ptr else 0) true
      match stepOne { ptr, e := 0, n := 8, align := 8, badTiers := [0, 3] } x with
      | some c => (.error c, s)
      | none => match mqLate d (keyClass p d) ptr push (s.slotStream g slot).isSome with
        | some c => (.error c, s)
        | none =>
          match x with
          | .fault c => (.error c, s)
          | .miss m mal => (.ok (.error { miss := m, mal, kind := .write, first := ptrOff ptr }), s)
          | .place pl _ =>
            match pl with
            | .modul _ m _ =>
              (match s.redPlaces g p ptr d ((List.range ((d.size + 65535) / 65536)).map (65536 * ·)) with
              | .error c => .error c
              | .ok (.error m) => .ok (.error m)
              | .ok (.ok l) => if l.all (fun x => x.1 == m) then .ok (.ok (m, l.map (·.2), (d.size - 64) / 8))
                else .error .objInvalid, s)
            | _ => (.error .objInvalid, s)

/-- A queue instruction (R346, R347): its operation enters the stream; `after` says what the group then does. -/
def mqOp (s : State) (b : BitVec 5) (slot : BitVec 3) (push : Bool) (op : Group → List Nat → Nat → ModOp)
    (done : Nat → Group → Bool → Word → State → StemRes) (waits : Bool) : Host.Outcome State Fault Refusal :=
  runStem s (fun gid g s =>
    match g.wait with
    | .mqDone ok x => done gid g ok x s
    | .mq _ _ => .wait s
    | .mqSleep _ _ _ => .wait s
    | _ =>
      let ptr := g.areg b.toNat
      match s.mqCheck g ptr slot.toNat push with
      | (.error c, s) => .fault s (g.fault c ptr)
      | (.ok (.error m), s) => .miss s m
      | (.ok (.ok (m, a, cap)), s) =>
        if s.podBlocked gid || !s.afterRuns gid g then .wait s
        else
          let sid := (s.slotStream g slot.toNat).getD 0
          let (q, s) := s.streamPut gid slot.toNat sid g.part (s.rcbOf g) (.modul m) (op g a cap) (if push then g.pc else ptr) 0
          if waits then .wait (s.modGroup gid (fun g => { g with wait := .mq sid q })) else .next s)

/-- `MQPUSH` (R347). -/
def execMqpush (b : BitVec 5) (slot : BitVec 3) (wait : Bool) (s : State) : Host.Outcome State Fault Refusal :=
  mqOp s b slot true (fun g a cap => .push a cap (g.areg (b.toNat + 1)))
    (fun gid g _ x s => .next (s.putGroup gid (g.setA (b.toNat + 2) x))) wait
/-- `MQPOP` (R347). -/
def execMqpop (b : BitVec 5) (slot : BitVec 3) (wait : Bool) (s : State) : Host.Outcome State Fault Refusal :=
  mqOp s b slot false (fun _ a cap => .pop a cap wait)
    (fun gid g ok x s =>
      if ok then .next (s.putGroup gid ((g.setA b.toNat 1).setA (b.toNat + 1) x))
      else if wait then
        let (m, l) := match (s.mqCheck g (g.areg b.toNat) slot.toNat false).1 with
          | .ok (.ok (m, a, _)) => (m, a.headD 0 / 128)
          | _ => (0, 0)
        .wait (s.putGroup gid { g with wait := .mqSleep s.cycle m l })
      else .next (s.putGroup gid ((g.setA b.toNat 0).setA (b.toNat + 1) 0))) true

/-- A sleeping `MQPOP` retries: after a back-invalidation of its header line, or 1,024 cycles (R347). -/
def execMqpopRetry (gid : Nat) (s : State) : Host.Outcome State Fault Refusal :=
  .next (s.modGroup gid (fun g => match g.wait with
    | .mqSleep c _ _ => if c = 0 ∨ c + 1024 ≤ s.cycle then { g with wait := .woken } else g
    | _ => g))

/-! ## Reductions (R349) -/

/-- Bytes of a source element (R349). -/
def redSize : RedOp → Nat
  | .bfadd => 2
  | _ => 4

/-- The pieces of a destination vector: offset in elements and count, each within one sector. -/
def redPieces (off : Nat) : Nat → Nat → Nat → List (Nat × Nat)
  | 0, _, _ => []
  | f + 1, i, n =>
    if n = 0 then []
    else
      let k := Nat.min n (8 - (off + 4 * i) % 32 / 4)
      (i, k) :: redPieces off f (i + k) (n - k)

/-- Steps 1 to 5 and 7 of R268 as R349 changes them; the descriptors of the destination and the counter. -/
def State.redCheck (s : State) (g : Group) (p : Part) (dst src ctr n : Word) (esz : Nat) (bound : Bool) :
    Except (Code × Word) (Desc × Desc) :=
  let one (x : Word) : Except Code Desc := match s.postDesc g.coreN p { sp := false, val := x } with
    | .ok (some d) => .ok d
    | .ok none => .error .objInvalid
    | .error c => .error c
  let addr (x : Word) (k : Nat) : PostAddr := { at_ := { sp := false, val := x }, rb := k }
  let cnt := bits n.toNat 0 25
  let tiers (x : Word) (k : Nat) (d : Desc) : List Nat := s.postTiers (coreDie g.coreN) p (addr x k) d
  let unread (x : Word) (k : Nat) (d : Desc) : Bool := (s.postPages (coreDie g.coreN) p (addr x k) d).contains (.fault .uePoison)
  match one dst, one src, one ctr with
  | .error c, _, _ => .error (c, dst)
  | _, .error c, _ => .error (c, src)
  | _, _, .error c => .error (c, ctr)
  | .ok dd, .ok ds, .ok dc =>
    let modOf (x : Word) (d : Desc) (off : Nat) : Option Nat := match s.redPlace g p x d off with
      | .ok (.ok (m, _)) => some m
      | _ => none
    let pages := (redPieces (ptrOff dst) (cnt + 1) 0 cnt).map (fun q => ptrOff dst + 4 * q.1)
    let mods := (pages.filter (fun o => decide (o < dd.size))).filterMap (modOf dst dd) ++
      (if ptrOff ctr < dc.size then (modOf ctr dc (ptrOff ctr)).toList else [])
    if (tiers dst (4 * cnt) dd).any (fun t => t == 0 || t == 3) then .error (.objInvalid, dst)
    else if (tiers src (esz * cnt) ds).any (fun t => t != 0) then .error (.objInvalid, src)
    else if (tiers ctr 8 dc).any (fun t => t == 0 || t == 3) || decide (1 < mods.eraseDups.length) then
      .error (.objInvalid, ctr)
    else if unread dst (4 * cnt) dd then .error (.uePoison, dst)
    else if unread ctr 8 dc then .error (.uePoison, ctr)
    else if !(dd.w && dd.a) || ptrNW dst || ptrNA dst || ptrNE dst || keyClass p dd == .open_ then .error (.rights, dst)
    else if !(ds.r && ds.e) || ptrNE src || keyClass p ds == .open_ then .error (.rights, src)
    else if !(dc.w && dc.a) || ptrNW ctr || ptrNA ctr || ptrNE ctr || keyClass p dc == .open_ then .error (.rights, ctr)
    else if bits n.toNat 25 39 != 0 || decide (2 ^ 24 < cnt) then .error (.bounds, 0)
    else if cnt != 0 && decide (dd.size < ptrOff dst + 4 * cnt) then .error (.bounds, dst)
    else if cnt != 0 && decide (ds.size < ptrOff src + esz * cnt) then .error (.bounds, src)
    else if dc.size < ptrOff ctr + 8 then .error (.bounds, ctr)
    else if ptrOff dst % 4 != 0 then .error (.misalign, dst)
    else if ptrOff src % esz != 0 then .error (.misalign, src)
    else if ptrOff ctr % 8 != 0 then .error (.misalign, ctr)
    else match sealFault (keyClass p dd), sealFault (keyClass p ds), sealFault (keyClass p dc) with
      | some c, _, _ => .error (c, dst)
      | _, some c, _ => .error (c, src)
      | _, _, some c => .error (c, ctr)
      | none, none, none => if bound then .ok (dd, dc) else .error (.streamSeq, dst)

/-- `MRED` (R349): one operation for each sector of the destination, then the increment of the counter. -/
def mredOf (s : State) (b : BitVec 5) (slot : BitVec 3) (op : RedOp) : Host.Outcome State Fault Refusal :=
  runStem s (fun gid g s =>
    let a (i : Nat) : Word := g.areg (b.toNat + i)
    let esz := redSize op
    match SMap.find? s.parts g.part with
    | none => .fault s (g.fault .objInvalid (a 0))
    | some p =>
      match s.redCheck g p (a 0) (a 1) (a 3) (a 2) esz (s.slotStream g slot.toNat).isSome with
      | .error (c, x) => .fault s (g.fault c x)
      | .ok (dd, dc) =>
        let n := bits (a 2).toNat 0 25
        let ps := redPieces (ptrOff (a 0)) (n + 1) 0 n
        match s.redPlaces g p (a 0) dd (ps.map (fun q => ptrOff (a 0) + 4 * q.1)), s.redPlaces g p (a 3) dc [ptrOff (a 3)] with
        | .error c, _ => .fault s (g.fault c (a 0))
        | _, .error c => .fault s (g.fault c (a 3))
        | .ok (.error m), _ => .miss s m
        | _, .ok (.error m) => .miss s m
        | .ok (.ok ds), .ok (.ok cs) =>
          if s.podBlocked gid || !s.afterRuns gid g then .wait s
          else
            let sid := (s.slotStream g slot.toNat).getD 0
            let num := s.nextId
            let put (s : State) (m : Nat) (o : ModOp) (src : Option SSrc) : State :=
              let (q, s) := s.streamPut gid slot.toNat sid g.part (s.rcbOf g) (.modul m) o g.pc 0
              s.modOp sid q (fun y => { y with num, src })
            let s := (ps.zip ds).foldl (fun s x => put s x.2.1 (.redu op x.2.2 (List.replicate x.1.2 0))
              (some { obj := ptrObj (a 1), off := ptrOff (a 1) + esz * x.1.1, count := x.1.2, size := esz,
                      ts := s.pts g.coreN, lease := g.lease })) s
            .next (cs.foldl (fun s c => put s c.1 (.atom [{ thr := 0, addr := c.2, n := 8, fn := .op .add 1 false }]) none) s))

/-- `MRED.fadd` (R349). -/
def execMredFadd (b : BitVec 5) (slot : BitVec 3) (s : State) : Host.Outcome State Fault Refusal := mredOf s b slot .fadd
/-- `MRED.bfadd` (R349). -/
def execMredBfadd (b : BitVec 5) (slot : BitVec 3) (s : State) : Host.Outcome State Fault Refusal := mredOf s b slot .bfadd
/-- `MRED.iadd` (R349). -/
def execMredIadd (b : BitVec 5) (slot : BitVec 3) (s : State) : Host.Outcome State Fault Refusal := mredOf s b slot .iadd
/-- `MRED.fmax` (R349). -/
def execMredFmax (b : BitVec 5) (slot : BitVec 3) (s : State) : Host.Outcome State Fault Refusal := mredOf s b slot .fmax
/-- `MRED.fmin` (R349). -/
def execMredFmin (b : BitVec 5) (slot : BitVec 3) (s : State) : Host.Outcome State Fault Refusal := mredOf s b slot .fmin

/-! ## Ports, relays, back-invalidation and loss (R328, R330-R332, R350-R352, R402) -/

/-- A port of the package changed. -/
def State.modPort (s : State) (h : Nat) (f : Port → Port) : State :=
  s.modCrown (fun c => { c with ports := SMap.put c.ports h (f (s.podPort h)) })

/-- A back-invalidate arrives: the canopy drops its copy (R332). -/
def execBackInvalidate (port line : Nat) (s : State) : Host.Outcome State Fault Refusal :=
  .next (match s.portModule port with
    | none => s
    | some m => ({ s with podCopies := SMap.set 0 s.podCopies (modKey m (128 * line) / 128) 0 }).wakePops m line)

/-- A request enters a relay queue (R345, R354). -/
def TQueue.push (q : TQueue) (x : Nat × ModMsg) : TQueue :=
  if relayDepth ≤ q.entries.length then { q with ovf := q.ovf + 1 }
  else { q with tail := q.tail + 1, entries := q.entries ++ [x] }
/-- A relay queue's first request is taken (R345, R354). -/
def TQueue.pop (q : TQueue) : TQueue :=
  match q.entries with
  | [] => q
  | _ :: r => { q with head := q.head + 1, entries := r }

/-- A request of another package for a module of one of this package's ports (R331): it enters the transport queue of its
source, in the region of the module that the two packages share, or once that is lost of the one that links this package to
the source's pair (R351); when it stands at the head of its queue, the relay engine pops it and issues it on the port to
its module. A full queue takes nothing and counts the refusal (R345, R354). -/
def execRelayForward (m : Nat) (msg : ModMsg) (s : State) : Host.Outcome State Fault Refusal :=
  let src := msg.sid / 2048
  let q := (SMap.find? s.crown.relayq src).getD {}
  let put (q : TQueue) : State := s.modCrown (fun c => { c with relayq := SMap.put c.relayq src q })
  .next (match s.modulePort m, ((s.budRoute src).bind List.head?).bind s.modulePort with
    | some h, some k =>
      if src = s.pkg ∨ (s.podPort k).region = none ∨ !(s.podPort k).up then s
      else match q.entries with
        | [] => put (q.push (m, msg))
        | x :: _ =>
          if x = (m, msg) then
            if s.modLost m then put q.pop
            else if (s.podPort h).up then (put q.pop).headArrive m h msg false
            else s
          else if q.entries.contains (m, msg) then s
          else put (q.push (m, msg))
    | _, _ => s)

/-- A port's link goes down; the moment is kept (R350). -/
def Port.fall (p : Port) (c : Nat) : Port :=
  { p with up := false, downSince := if p.up then some c else p.downSince }

/-- A pod port trains and reports its module and head (R328), unless too few of its lanes are good (R439). -/
def execPortTraining (port m head : Nat) (s : State) : Host.Outcome State Fault Refusal :=
  .next (match s.portModule port with
    | none => s
    | some k =>
      if (s.podPort port).width = 0 then s
      else if k = m ∧ head = port then s.modPort port (fun p => { p with up := true, wrong := false, downSince := none })
      else (s.modPort port (fun p => { p.fall s.cycle with wrong := true })).post (.wiring port))

/-- A module is lost (R350, R351): operations for it that are not acknowledged fail, an answer on its way among them, and its
copies go. -/
def State.loseModule (s : State) (m : Nat) : State :=
  let s := s.modCrown (fun c => { c with
    lostMods := if c.lostMods.contains m then c.lostMods else c.lostMods ++ [m]
    relayq := c.relayq.filter (fun e => s.common s.pkg e.1 != some m) })
  { s with
    podCopies := s.podCopies.filter (fun e => e.1 / 2 ^ 41 != m)
    closes := s.closes.filter (fun c => c.1 != m)
    streams := s.streams.map (fun e => (e.1, { e.2 with
      sent := if e.2.sent = some (.modul m) then none else e.2.sent
      fresh := e.2.fresh || e.2.dest == some (.modul m)
      ops := e.2.ops.map (fun o => if o.dest = .modul m then
        { o with state := 2, code := some .moduleLost, result := [] } else o) })) }

/-- A module reports a fatal error (R350). -/
def execModuleFatalError (m : Nat) (s : State) : Host.Outcome State Fault Refusal :=
  .next (if s.modLost m then s else (s.loseModule m).post (.moduleLost m))
/-- Cycles of 1 ms (R350, R5). -/
def retrainCycles : Nat := 2000000
/-- A port's link that has gone down fails retraining for 1 ms (R350). -/
def execModuleLinkTimeout (port : Nat) (s : State) : Host.Outcome State Fault Refusal :=
  .next (match s.portModule port with
    | none => s
    | some m =>
      let down := ((s.podPort port).downSince.map (fun c => decide (c + retrainCycles ≤ s.cycle))).getD false
      if s.modLost m || (s.podPort port).up || !down then s else (s.loseModule m).post (.moduleLost m))
/-- The package learns of a loss through a surviving module (R350). -/
def execModuleLossNotice (m : Nat) (s : State) : Host.Outcome State Fault Refusal :=
  .next (if s.modLost m then s else s.loseModule m)

/-- What a module keeps of a head that is lost (R354): the contexts of that head's own package are freed; of the streams
relayed through it, which come by another head from now on (R330, R352), the contexts stay, without what they held behind a
gap (DEDUCED, log entry 106). -/
def State.headGone (s : State) (m head : Nat) : Head :=
  { s.head m head with
    waits := []
    ctxs := ((s.head m head).ctxs.filter (fun c => s.headPkg m head != some (c.sid / 2048))).map (fun c =>
      { c with window := [] }) }

/-- A head of a module is lost or restored (R330, R354). -/
def execHeadLossReport (m head : Nat) (lost : Bool) (s : State) : Host.Outcome State Fault Refusal :=
  let l := s.crown.lostHeads.filter (fun x => x != (m, head)) ++ (if lost then [(m, head)] else [])
  let s := s.modCrown (fun c => { c with lostHeads := l })
  .next (s.putHead m head (if lost then s.headGone m head else s.head m head))

/-- An integrity failure, or any loss of training, takes a port's link down (R402). -/
def execIntegrityFailure (port : Nat) (s : State) : Host.Outcome State Fault Refusal :=
  .next (s.modPort port (fun p => p.fall s.cycle))

end Sys2Proof.Machine
end

