-- ==== Sys2Proof/Machine/Issue.lean ====
section
/-! DEFINITION. Issue on the lanes: arbitration and the exchange of sets (R137, R185-R188), runs that start (R94), leaf
fills (R60-R63), fills that arrive (R111), evictions at a deadlock of `GROW`s and re-admissions (R105, R106). -/
namespace Sys2Proof.Machine

/-! ## Arbitration (R185-R188) -/

/-- The safe bit of a leaf instruction (R51). -/
def leafSafe (i : Instr) : Bool :=
  match i with
  | .moviLane c _ _ _ => c.safe
  | .bra c _ _ _ => c.safe
  | .grft c _ _ _ _ _ => c.safe
  | .gret c => c.safe
  | i => match leafOf i with
    | some (_, w) => w.ctl.safe
    | none => false

/-- What a path finds at its offset (R60, R63): nothing yet, an instruction with the offset where it starts and the one
after it, or a recorded fault. -/
inductive LeafWord where
  | absent
  | instr (start next : Nat) (i : Instr)
  | bad (start : Nat) (c : Code)
  deriving DecidableEq, Repr

/-- The word at a path's offset, as the instruction cache holds it. -/
def Group.leafWord (g : Group) (p : Path) : LeafWord :=
  match SMap.find? g.ic p.off with
  | none => .absent
  | some (o, none) => .bad o .leafFetch
  | some (o, some []) => .bad o .leafFetch
  | some (o, some (b :: r)) =>
    match decodeStored b r with
    | .ok i => .instr o (o + storedLength b) i
    | .error _ => .bad o .illegal

/-- A group's leaf slots stop at safe points: it is halted, or its cluster is being stopped (R84, R413). -/
def State.stopping (s : State) (g : Group) : Bool :=
  g.halted || (g.host.isNone && (match SMap.find? s.clusters g.cid with
    | some c => c.st == .stopping
    | none => false))

/-- A leaf slot holds a path that R186 calls ready: its next instruction is in the cache and would not wait under R112. A
recorded word is never a safe point (R63); a replay that is due comes first (R291). -/
def State.slotReady (s : State) (g : Group) (k : Nat) : Bool :=
  match g.slot k with
  | none => false
  | some p =>
    !g.stuck.contains k && g.redo.all (fun x => x.1 == k) && (match g.leafWord p with
      | .absent => false
      | .instr _ _ i => !(leafSafe i && s.stopping g)
      | .bad _ _ => true)

/-- The group may issue at all: it runs, is not parked, its stall count has elapsed (R51, R186). -/
def State.mayIssue (s : State) (g : Group) : Bool :=
  g.run.isSome && g.park.isNone && !g.evicted && (((SMap.find? s.clusters g.cid).map (fun c => c.refills.isEmpty)).getD true || g.host.isSome) && (g.stall == 0 || decide (g.lastIssue + 32 * (1 + g.stall) ≤ s.cycle))
/-- The group is ready (R186). -/
def State.groupReady (s : State) (g : Group) : Bool := s.mayIssue g && (s.slotReady g 0 || s.slotReady g 1)
/-- A ready leaf slot whose instruction the rules of memory order do not hold back (R217, R337, R343; log entry 90). -/
def State.slotIssues (s : State) (g : Group) (k : Nat) : Bool := s.slotReady g k && !g.behind.contains k
/-- A ready group that may issue: one held back by the rules of memory order does not compete for the slot. -/
def State.groupIssues (s : State) (g : Group) : Bool := s.mayIssue g && (s.slotIssues g 0 || s.slotIssues g 1)
/-- The group waits for registers: it is not ready, and a leaf slot's instruction would wait under R112, step 2 or 4
(R188). -/
def State.groupWaits (s : State) (g : Group) : Bool := s.mayIssue g && !s.groupReady g && !g.stuck.isEmpty

/-- The oldest group of a list. -/
def State.oldest (s : State) : List (Nat × Group) → Option (Nat × Group)
  | [] => none
  | e :: r => match s.oldest r with
    | none => some e
    | some f => if ageLt (s.ageOf f.2) (s.ageOf e.2) then some f else some e
/-- The youngest group of a list. -/
def State.youngest (s : State) : List (Nat × Group) → Option (Nat × Group)
  | [] => none
  | e :: r => match s.youngest r with
    | none => some e
    | some f => if ageLt (s.ageOf e.2) (s.ageOf f.2) then some f else some e
/-- The group of a list that issued last. -/
def lastIssuer : List (Nat × Group) → Option (Nat × Group)
  | [] => none
  | e :: r => match lastIssuer r with
    | none => some e
    | some f => if e.2.lastIssue < f.2.lastIssue then some f else some e

/-- Places free in the active set are taken by the oldest ready pending groups (R185). -/
def State.promote (core lane : Nat) : Nat → State → State
  | 0, s => s
  | f + 1, s =>
    let l := s.onLane core lane
    if 8 ≤ (l.filter (fun e => !e.2.pendingSet)).length then s
    else match s.oldest (l.filter (fun e => e.2.pendingSet && s.groupReady e.2)) with
      | none => s
      | some e => State.promote core lane f (s.modGroup e.1 (fun g => { g with pendingSet := false, readySince := none }))

/-- Since when each pending group of a lane is ready (R188). -/
def State.noteReady (s : State) (core lane : Nat) : State :=
  (s.onLane core lane).foldl (fun s e => s.modGroup e.1 (fun g => { g with
    readySince := if e.2.pendingSet && s.groupReady e.2 then some (e.2.readySince.getD s.cycle) else none })) s

/-- The exchange of one active and one pending group at a slot boundary, if a row of R188 applies; with the promoted
group, which first competes at the next arbitration. -/
def State.exchange (s : State) (core lane : Nat) : Option Nat × State :=
  let l := s.onLane core lane
  let act := l.filter (fun e => !e.2.pendingSet)
  let pen := l.filter (fun e => e.2.pendingSet && s.groupReady e.2)
  let swap (a p : Nat) (s : State) : Option Nat × State :=
    (some p, (s.modGroup a (fun g => { g with pendingSet := true, readySince := none })).modGroup p (fun g =>
      { g with pendingSet := false, readySince := none }))
  match s.youngest (act.filter (fun e => s.groupWaits e.2)), s.oldest pen with
    | some a, some p => swap a.1 p.1 s
    | none, some _ =>
      if act.all (fun e => s.groupReady e.2) then
        match lastIssuer act, s.oldest (pen.filter (fun e =>
            (e.2.readySince.map (fun c => decide (c + 256 ≤ s.cycle))).getD false)) with
        | some a, some p => swap a.1 p.1 s
        | _, _ => (none, s)
      else (none, s)
    | _, none => (none, s)

/-- The round of a lane is over (R187): every group that was ready at some arbitration of it has issued. -/
def State.roundOver (s : State) (core lane : Nat) : Bool := (s.onLane core lane).all (fun e => !e.2.inRound || e.2.issued)
/-- A new round of a lane begins (R187). -/
def State.newRound (s : State) (core lane : Nat) : State :=
  (s.onLane core lane).foldl (fun s e => s.modGroup e.1 (fun g => { g with inRound := false, issued := false })) s

/-- The group that issues (R187): the oldest ready active group that has not issued in the round, one that yielded at
the issue before ranking as the youngest. A round ends when each group that was ready in it has issued; DESIGN CHOICE (log
entry 18): also when no group that could issue is left in it. The group just promoted does not compete (R188). -/
def State.arbitrate (s : State) (core lane : Nat) (fresh : Option Nat) : Option Nat × State :=
  let active (s : State) : List (Nat × Group) := (s.onLane core lane).filter (fun e => !e.2.pendingSet && some e.1 != fresh)
  let enter (s : State) : State :=
    (active s).foldl (fun s e => s.modGroup e.1 (fun g => { g with inRound := g.inRound || s.groupReady g })) s
  let pick (l : List (Nat × Group)) : Option Nat :=
    ((s.oldest (l.filter (fun e => !e.2.yielded))).or (s.oldest l)).map (·.1)
  let calm (s : State) : State :=
    (s.onLane core lane).foldl (fun s e => s.modGroup e.1 (fun g => { g with yielded := false })) s
  let s := enter (if s.roundOver core lane then s.newRound core lane else s)
  let ready := (active s).filter (fun e => s.groupIssues e.2)
  match pick (ready.filter (fun e => !e.2.issued)) with
  | some g => (some g, calm s)
  | none => (pick ready, calm (if ready.isEmpty then s else enter (s.newRound core lane)))

/-- The leaf slot from which a ready group issues (R137). -/
def State.pickSlot (s : State) (g : Group) : Nat :=
  let other := 1 - g.lastSlot
  if s.slotIssues g other then other else g.lastSlot

/-- The paths of a group pass over padding, and those that then stand at a reconvergence offset arrive (R60, R140). -/
def State.passPadding (s : State) (gid : Nat) : State :=
  let one (s : State) (k : Nat) : State :=
    match SMap.find? s.groups gid with
    | none => s
    | some g =>
      match g.slot k with
      | none => s
      | some p =>
        let o := match g.leafWord p with
          | .absent => p.off
          | .instr o _ _ => o
          | .bad o _ => o
        if o = p.off then s
        else (s.modGroup gid (fun g => { g.advance k o with ic := match SMap.find? g.ic p.off with
          | some x => SMap.put g.ic o x
          | none => g.ic })).settleGroup gid
  let depth := ((SMap.find? s.groups gid).map (fun g => g.stack.length)).getD 0
  (List.range (4 * (depth + 2))).foldl (fun s i => one s (i % 2)) s

/-- The chosen slot issues: a recorded word faults every thread of its path (R63), an instruction is the next to
execute. -/
def State.issueSlot (s : State) (gid : Nat) (g : Group) (k : Nat) : State :=
  match g.run, g.slot k with
  | some _, some p =>
    match g.leafWord p with
    | .absent => s
    | .bad o c =>
      let s := s.modGroup gid (fun g => (g.noteIssue {} k s.cycle 1).advance k o)
      (s.takeLeafFaults gid k o (allFault (threadsOf p.mask) c)).settleGroup gid
    | .instr _ next _ => { s with cur := some (.leaf gid k next) }
  | _, _ => s

/-- The lane of a group is at a slot boundary. -/
def State.slotOpen (s : State) (core lane : Nat) : Bool := decide ((SMap.find? (s.core core).slotAt lane).getD 0 ≤ s.cycle)
/-- A group's pending run starts where the run before it has ended (R94). -/
def State.startPend (s : State) (gid : Nat) : State :=
  match SMap.find? s.groups gid with
  | none => s
  | some g =>
    match g.run, g.pend with
    | none, some r => if s.stopping g || g.evicted then s else s.putGroup gid ({ g with pend := none }.startRun r)
    | _, _ => s

/-- One instruction slot of a lane, whether or not a group issues in it (R117, R137, R185-R188). -/
def execIssueArbitration (core lane : Nat) (s : State) : Host.Outcome State Fault Refusal :=
  .next (
    if s.issueHeld || !s.slotOpen core lane then s
    else
      let s := (s.onLane core lane).foldl (fun s e => ((s.flushBusy e.1).startPend e.1).passPadding e.1)
        (s.useLane core lane 1)
      let s := State.promote core lane 8 s
      let (fresh, s) := (s.noteReady core lane).exchange core lane
      match s.arbitrate core lane fresh with
      | (none, s) => s
      | (some gid, s) => match SMap.find? s.groups gid with
        | none => s
        | some g => s.issueSlot gid g (s.pickSlot g))

/-- A pending run starts, in the next instruction slot of its lane (R94). -/
def execLeafRunStart (gid : Nat) (s : State) : Host.Outcome State Fault Refusal :=
  .next (match SMap.find? s.groups gid with
    | none => s
    | some g =>
      match g.core with
      | some c => if s.slotOpen c g.lane then s.startPend gid else s
      | none => s)

/-! ## Leaf fills (R60-R62) -/

/-- The fill of a leaf slot's next instruction completes, or meets an absent page: the group parks (R61). -/
def execLeafFill (gid slot : Nat) (s : State) : Host.Outcome State Fault Refusal :=
  .next (match SMap.find? s.groups gid with
    | none => s
    | some g =>
      match g.core, g.slot slot with
      | some _, some p =>
        if g.park.isSome || g.evicted || (SMap.find? g.ic p.off).isSome then s
        else match s.leafMiss g p.off with
          | some m => if m.down then s else s.parkGroup gid (some slot) p.mask [m]
          | none =>
            let mine := (g.redo.map (fun x => x.1 == slot)).getD false
            (s.keepLeaf g p.off).modGroup gid (fun x => { x with
              ic := SMap.put x.ic p.off (leafBytesAt (s.leafByteAt g) p.off)
              redo := if mine then none else g.redo
              retry := if mine then [] else g.retry })
      | _, _ => s)

/-! ## Fills that arrive (R111, R343, R351) -/

/-- The address of a place within its tier. -/
def Place.addr : Place → Nat
  | .hbm a => a
  | .modul _ _ a => a
  | .host a => a
/-- Two pod-tier loads of a group are one request: issued together, to one sector (R219). -/
def FillSrc.together : FillSrc → FillSrc → Bool
  | .podLoad (.modul _ m a) _ _ _ x, .podLoad (.modul _ n b) _ _ _ y => x == y && m == n && a / 32 == b / 32
  | .podLoad (.host a) _ _ _ x, .podLoad (.host b) _ _ _ y => x == y && a / 32 == b / 32
  | _, _ => false

/-- A request of pod-tier loads is performed and its values arrive, or its place fails (R210, R219, R343, R348, R351). -/
def State.podArrive (s : State) (gid : Nat) (g : Group) (fs : List Fill) (pl : Place) (off : Nat) : State :=
  let fail (c : Code) : State :=
    (s.modGroup gid (fun g => fs.foldl (fun (g : Group) f => g.failLane f.reg f.thread) g)).lateFault gid off
      (fs.map (fun f => { thread := f.thread, code := c }))
  match SMap.find? s.parts g.part with
  | none => s
  | some p =>
    if s.placeLost pl then fail .moduleLost
    else if s.placeBad pl 1 then fail .uePoison
    else fs.foldl (fun s f => match f.src with
      | .podLoad q n sgn _ _ =>
        let (bs, s) := s.podRead p q n
        s.modGroup gid (fun g => g.fillLane f.reg f.thread (.ok (extend n sgn bs)))
      | _ => s) s

/-- A load from a pod tier whose value has not come. -/
def Fill.isPodLoad (f : Fill) : Bool :=
  match f.src with
  | .podLoad _ _ _ _ _ => true
  | _ => false

/-- A long-latency producer's value arrives (R111); the pod-tier loads of one thread in their order (R343). -/
def execFillArrival (gid reg thread : Nat) (s : State) : Host.Outcome State Fault Refusal :=
  .next (match SMap.find? s.groups gid with
    | none => s
    | some g =>
      match g.fills.find? (fun f => f.reg == reg && f.thread == thread) with
      | none => s
      | some f =>
        match f.src with
        | .value w => (s.modGroup gid (fun g => g.fillLane reg thread (.ok w))).reapHost gid
        | .podLoad pl _ _ off _ =>
          let fs := g.fills.filter (fun x => x.src.together f.src)
          if !fs.all (fun y => (g.fills.find? (fun x => x.thread == y.thread && x.isPodLoad)) == some y)
              || s.ownStoresPend gid pl || s.placeDown pl then s
          else ((s.podArrive gid g fs pl off).reapHost gid).answerInvs g.part
        | _ => s)

/-! ## GROW: eviction and re-admission (R105, R106) -/

/-- The core's watch for a deadlock of `GROW`s (R105). -/
def execGrowDeadlockEviction (core : Nat) (s : State) : Host.Outcome State Fault Refusal :=
  .next (match (s.residents core).find? (fun e => e.2.evicting) with
    | some e => s.evict e.1
    | none =>
      let s := s.watchGrow core
      match (s.core core).growStuck with
      | none => s
      | some t =>
        if s.cycle < t + 32 then s
        else match s.youngest (s.residents core) with
          | none => s
          | some e => ((s.modGroup e.1 (fun g => { g with evicting := true })).clearGrowStuck core).evict e.1)

/-- An evicted group is re-admitted to a lane of its core, and its `GROW` completes (R104, R106); not while its cluster is
being stopped (R418). -/
def execGrowReadmission (gid lane : Nat) (s : State) : Host.Outcome State Fault Refusal :=
  .next (match SMap.find? s.groups gid with
    | none => s
    | some g =>
      match g.core, g.wait with
      | some core, .grow n =>
        let more := g.chunks - Nat.min g.chunks 2 + n
        match if s.placesFit gid core lane g && !s.stopping g then s.freePos core lane else none with
        | none => s
        | some pos =>
          if !g.evicted || coreLanes ≤ lane || !s.growFits gid core lane g (g.chunks + n) more then s
          else
            let s := (s.chargeBy g { lreg := more }).modGroup gid (fun x => { x.clearFrom 16 with
              chunks := g.chunks + n, lane, pos, evicted := false, wait := .none, retry := [], redo := none, blocked := false
              pendingSet := s.laneFull core lane, pc := pcPlus g.pc 4 })
            (s.reissueFifo gid).clearGrowStuck core
      | _, _ => s)

end Sys2Proof.Machine
end

