-- ==== Sys2Proof/Machine/KeyWrap.lean ====
section
/-! DEFINITION. Opening a wrapped key (R395): HKDF-Expand over HMAC-SHA-512 (RFC 5869, FIPS 198, FIPS 180) and
AES-256-GCM (SP 800-38D). Bytes are numbers below 256. -/
namespace Sys2Proof.Machine

/-- Big-endian bytes as a number. -/
def bigOf (bs : List Nat) : Nat := bs.foldl (fun x b => 256 * x + b) 0
/-- The `n` big-endian bytes of a number. -/
def bigBytes (n x : Nat) : List Nat := ((bytesOf n x).map (·.toNat)).reverse
/-- Blocks of `n` bytes. -/
def blocks (n : Nat) (bs : List Nat) : List (List Nat) := (List.range (bs.length / n)).map (fun i => (bs.drop (n * i)).take n)

/-! ## SHA-512 -/

/-- The integer part of the k-th root of x, which has at most `b` bits, built on r from the highest bit. -/
def rootOf (k x : Nat) : (b r : Nat) → Nat
  | 0, r => r
  | b + 1, r => rootOf k x b (if (r + 2 ^ b) ^ k ≤ x then r + 2 ^ b else r)
/-- The first 80 primes. -/
def shaPrimes : List Nat := (List.range 410).filter (fun p => decide (2 ≤ p) && (List.range p).all (fun d => decide (d < 2) || p % d != 0))
/-- The starting value: 64 bits of the fractions of the square roots of the first 8 primes. -/
def shaStart : List Nat := (shaPrimes.take 8).map (fun p => rootOf 2 (p * 2 ^ 128) 70 0 % 2 ^ 64)
/-- The round constants: 64 bits of the fractions of the cube roots of the first 80 primes. -/
def shaConsts : List Nat := shaPrimes.map (fun p => rootOf 3 (p * 2 ^ 192) 70 0 % 2 ^ 64)

/-- A 64-bit word rotated to the right. -/
def rotR (n x : Nat) : Nat := (x / 2 ^ n + x * 2 ^ (64 - n)) % 2 ^ 64
/-- The message schedule: `n` further words, the newest first. -/
def shaWords : Nat → List Nat → List Nat
  | 0, w => w
  | n + 1, w =>
    let a := w.getD 14 0
    let b := w.getD 1 0
    shaWords n (((rotR 19 b ^^^ rotR 61 b ^^^ b / 2 ^ 6) + w.getD 6 0 + (rotR 1 a ^^^ rotR 8 a ^^^ a / 2 ^ 7) + w.getD 15 0)
      % 2 ^ 64 :: w)
/-- One round: `kw` is the sum of the round's constant and word. -/
def shaRound (st : List Nat) (kw : Nat) : List Nat :=
  match st with
  | [a, b, c, d, e, f, g, h] =>
    let t := h + (rotR 14 e ^^^ rotR 18 e ^^^ rotR 41 e) + ((e &&& f) ^^^ ((2 ^ 64 - 1 - e) &&& g)) + kw
    [(t + (rotR 28 a ^^^ rotR 34 a ^^^ rotR 39 a) + ((a &&& b) ^^^ (a &&& c) ^^^ (b &&& c))) % 2 ^ 64, a, b, c,
      (d + t) % 2 ^ 64, e, f, g]
  | _ => st
/-- A block of 128 bytes taken into the state. -/
def shaBlock (st : List Nat) (blk : List Nat) : List Nat :=
  let w := (shaWords 64 ((blocks 8 blk).map bigOf).reverse).reverse
  (st.zip (((shaConsts.zip w).map (fun x => x.1 + x.2)).foldl shaRound st)).map (fun x => (x.1 + x.2) % 2 ^ 64)
/-- SHA-512. -/
def sha512 (m : List Nat) : List Nat :=
  let pad := m ++ [0x80] ++ List.replicate ((239 - m.length % 128) % 128) 0 ++ bigBytes 16 (8 * m.length)
  ((blocks 128 pad).foldl shaBlock shaStart).flatMap (bigBytes 8)
/-- HMAC-SHA-512 under a key of at most 128 bytes. -/
def hmac (key m : List Nat) : List Nat :=
  let k := key ++ List.replicate (128 - key.length) 0
  sha512 (k.map (· ^^^ 0x5C) ++ sha512 (k.map (· ^^^ 0x36) ++ m))
/-- HKDF-Expand for at most one block of output: 32 bytes. -/
def hkdf32 (prk info : List Nat) : List Nat := (hmac prk (info ++ [1])).take 32

/-! ## AES-256-GCM -/

/-- The product in GCM's field, whose first bit is the highest of a block: `n` bits of `x` are left. -/
def ghMul (x : Nat) : (n z v : Nat) → Nat
  | 0, z, _ => z
  | n + 1, z, v => ghMul x n (if x.testBit n then z ^^^ v else z) (v / 2 ^^^ (if v % 2 = 1 then 0xE1 * 2 ^ 120 else 0))
/-- GHASH over whole blocks. -/
def ghash (h : Nat) (bs : List (List Nat)) : Nat := bs.foldl (fun y b => ghMul (y ^^^ bigOf b) 128 0 h) 0
/-- Whole blocks decrypted, and their tag: nonce of 12 bytes, additional data of whole blocks. -/
def gcmOpen (key iv aad c : List Nat) : List Nat × List Nat :=
  let ks := roundKeys key
  let e (i : Nat) : List Nat := aesEnc ks (iv ++ bigBytes 4 i)
  let cs := blocks 16 c
  let h := bigOf (aesEnc ks (List.replicate 16 0))
  let g := ghash h (blocks 16 aad ++ cs ++ [bigBytes 8 (8 * aad.length) ++ bigBytes 8 (8 * c.length)])
  ((((List.range cs.length).zip cs).map (fun x => xorBytes x.2 (e (x.1 + 2)))).flatten, xorBytes (bigBytes 16 g) (e 1))

/-! ## The key wrap (R395) -/

/-- The label "utvon keywrap" in ASCII (R395). -/
def wrapLabel : List Nat := "utvon keywrap".toList.map Char.toNat
/-- The wrapping key of a session: the label stands as HKDF's info, alone (PRESUMED, log entry 7). -/
def wrapKey (secret : Nat) : List Nat := hkdf32 ((bytesOf 64 (Config.exportSecret secret).toNat).map (·.toNat)) wrapLabel
/-- The key pair of a blob, if its tag verifies under a session's secret (R395). -/
def unwrapKey (secret : Nat) (blob : List Byte) : Option (BitVec 256 × BitVec 256) :=
  let b := blob.map (·.toNat)
  let (x, tag) := gcmOpen (wrapKey secret) ((b.drop 0x70).take 12) (b.take 0x20) ((b.drop 0x20).take 0x40)
  if tag = (b.drop 0x60).take 16 then
    let key (l : List Nat) : BitVec 256 := BitVec.ofNat 256 (wordOf (l.map (BitVec.ofNat 8)))
    some (key (x.take 32), key (x.drop 32))
  else none

end Sys2Proof.Machine
end

