-- ==== Sys2Proof/Machine/StemMem.lean ====
section
/-! DEFINITION. The stem words on pointers and memory (R89, R285-R288, R218), a stem fetch that fails (R42), and the
modes of SRAM banks (R203-R207). -/
namespace Sys2Proof.Machine

/-- A stem fetch that faults or misses a page; where it finds a word, that word executes next, and where the route to it
carries no traffic no word is ready (R42, R328; log entry 98). -/
def execStemFetch (s : State) : Host.Outcome State Fault Refusal :=
  runStem s (fun _ g s =>
    match s.fetchStem g with
    | (.fault c, s) => .fault s (g.fault c (if c = .illegal then 0 else g.pc))
    | (.miss m, s) => .miss s m
    | (.cut, s) => .unready s
    | (.word _, s) => .unready s)

/-! ## Pointer arithmetic (R285-R288) -/

/-- Some effective right remains (R277). -/
def anyRight (p : Word) (d : Desc) : Bool :=
  d.r || (d.w && !ptrNW p) || (d.a && !ptrNA p) || ((d.e || d.g) && !ptrNE p)

/-- The descriptor of a pointer as a stem word finds it (R285): the core's OTLB copy; a walk that faults; none while the
word is not ready, with the state in which the descriptor has arrived. -/
def State.stemDesc (s : State) (g : Group) (obj : Nat) : Option (Except Code Desc) × State :=
  match (SMap.find? s.parts g.part).bind (fun p => s.otlbDesc g.coreN p obj) with
  | some x => (some x, s)
  | none =>
    match s.coreDesc g.coreN g.part obj with
    | (.error c, s) => (some (.error c), s)
    | (.ok _, s) => (none, s)

/-- A word that reads the descriptor of a[x]'s object: the checks of R285, with rights (`rt`) and a resulting offset
where the word has them, and then a[d]. -/
def ptrWord (s : State) (d x : BitVec 5) (rt : Bool) (e : Group → Word → Option Int) (f : Group → Word → Desc → Word) :
    Host.Outcome State Fault Refusal :=
  runStem s (fun gid g s =>
    let p := g.areg x.toNat
    match s.stemDesc g (ptrObj p) with
    | (none, s) => .unready s
    | (some (.error c), s) => .fault s (g.fault c p)
    | (some (.ok k), s) =>
      if rt && !anyRight p k then .fault s (g.fault .rights p)
      else if (match e g p with
          | some o => o < 0 || (k.size : Int) < o
          | none => false) then .fault s (g.fault .bounds p)
      else .next (s.putGroup gid (g.setA d.toNat (f g p k))))

/-- `PADD` (R286). -/
def execPadd (d x t : BitVec 5) (s : State) : Host.Outcome State Fault Refusal :=
  ptrWord s d x true (fun g p => some (ptrOff p + (g.areg t.toNat).toInt)) (fun g p _ => pcPlus p (g.areg t.toNat).toInt)
/-- `PADDI` (R286). -/
def execPaddi (d x : BitVec 5) (i : BitVec 16) (s : State) : Host.Outcome State Fault Refusal :=
  ptrWord s d x true (fun _ p => some (ptrOff p + i.toInt)) (fun _ p _ => pcPlus p i.toInt)
/-- `PRST` (R287). -/
def execPrst (d x : BitVec 5) (m : BitVec 3) (s : State) : Host.Outcome State Fault Refusal :=
  ptrWord s d x false (fun _ p => some (ptrOff p)) (fun _ p _ => p ||| (m.setWidth 64 <<< 61))
/-- `PSIZE` (R288). -/
def execPsize (d x : BitVec 5) (s : State) : Host.Outcome State Fault Refusal :=
  ptrWord s d x true (fun _ _ => none) (fun _ _ k => BitVec.ofNat 64 k.size)

/-! ## Stem loads and stores (R89) -/

/-- `SLD` (R89): a pod-tier load waits for the group's own stores to the sector (R343). -/
def execSld (d x : BitVec 5) (i : BitVec 16) (s : State) : Host.Outcome State Fault Refusal :=
  runStem s (fun gid g s =>
    if !s.afterRuns gid g then .wait s else
    let p := g.areg x.toNat
    let q : AccReq := { ptr := p, e := ptrOff p + i.toInt, n := 8, align := 8, needR := true, kind := .read }
    match s.checkAccess g.coreN g q, SMap.find? s.parts g.part with
    | (.fault c, s), _ => .fault s (g.fault c (p + i.signExtend 64))
    | (.miss m, s), _ => .miss s m
    | (.ok (.hbm a) _ _, s), some pt =>
      let (bs, s) := s.coreRead pt.keyId g.coreN g.lease .normal a 8
      .next (s.putGroup gid (g.setA d.toNat (BitVec.ofNat 64 (wordOf bs))))
    | (.ok pl _ _, s), some pt =>
      if s.podHeld gid pl || s.ownStoresPend gid pl then .wait s
      else
        let (bs, s) := s.podRead pt pl 8
        .next (s.putGroup gid (g.setA d.toNat (BitVec.ofNat 64 (wordOf bs))))
    | (.ok _ _ _, s), none => .wait s)

/-- `SST` (R89): a pod-tier store is an operation of slot w0's stream (R337). -/
def execSst (d x : BitVec 5) (i : BitVec 16) (s : State) : Host.Outcome State Fault Refusal :=
  runStem s (fun gid g s =>
    if !s.afterRuns gid g then .wait s else
    let p := g.areg x.toNat
    let q : AccReq := { ptr := p, e := ptrOff p + i.toInt, n := 8, align := 8, needW := true, wr := true,
                        unbound := (s.slotStream g 0).isNone, kind := .write }
    let bs := bytesOf 8 (g.areg d.toNat).toNat
    match s.checkAccess g.coreN g q, SMap.find? s.parts g.part with
    | (.fault c, s), _ => .fault s (g.fault c (p + i.signExtend 64))
    | (.miss m, s), _ => .miss s m
    | (.ok (.hbm a) _ _, s), some pt => .next (s.coreWrite pt.keyId g.coreN .normal (addrBytes a bs))
    | (.ok pl _ _, s), some pt =>
      if s.podBlocked gid then .wait s
      else .next (s.podStore gid 0 ((s.slotStream g 0).getD 0) g pt pl bs (p + i.signExtend 64))
    | (.ok _ _ _, s), none => .wait s)

/-! ## WAITA (R218) -/

/-- The condition of `WAITA` (R218). -/
def waitCondHolds (c : WaitCond) (x y : Word) : Bool :=
  match c with
  | .eq => x == y
  | .ne => x != y
  | .geu => y.ule x
  | .ge => y.sle x

/-- The word has been read: a[b] takes it, or the group sleeps (R218). -/
def waitaRead (gid : Nat) (g : Group) (b : BitVec 5) (c : WaitCond) (bs : List Byte) (s : State) : StemRes :=
  let x : Word := BitVec.ofNat 64 (wordOf bs)
  if waitCondHolds c x (g.areg (b.toNat + 1)) then .next (s.putGroup gid (g.setA b.toNat x))
  else .wait (s.putGroup gid { g with wait := .sleep })

/-- `WAITA` (R218): the word is read at its home. -/
def execWaita (b : BitVec 5) (c : WaitCond) (sp : Bool) (s : State) : Host.Outcome State Fault Refusal :=
  runStem s (fun gid g s =>
    let p := g.areg b.toNat
    if g.wait = .sleep ∨ !s.afterRuns gid g then .wait s
    else if sp then
      match s.checkScratch g p.toInt 8 8 with
      | .error e => .fault s (g.fault e p)
      | .ok a =>
        if s.sramBad a 8 then .fault s (g.fault .uePoison p)
        else
          let (bs, s) := s.scratchRead g.coreN a 8
          waitaRead gid g b c bs s
    else
      let q : AccReq := { ptr := p, e := ptrOff p, n := 8, align := 8, needR := true, badTiers := [2, 3], kind := .read }
      match s.checkAccess g.coreN g q, SMap.find? s.parts g.part with
      | (.fault e, s), _ => .fault s (g.fault e p)
      | (.miss m, s), _ => .miss s m
      | (.ok (.hbm a) _ _, s), some pt =>
        let s := s.lrTimes g.coreN (lineOf a) g.lease
        waitaRead gid g b c (s.hbmBytes pt.keyId a 8) s
      | (.ok pl _ _, s), some pt =>
        if s.podHeld gid pl || s.ownStoresPend gid pl then .wait s
        else
          let (bs, s) := s.podRead pt pl 8
          waitaRead gid g b c bs s
      | (.ok _ _ _, s), none => .wait s)

/-- The device reads the word again for a group asleep at `WAITA` (R218). -/
def execWaitaReread (gid : Nat) (s : State) : Host.Outcome State Fault Refusal :=
  .next (s.modGroup gid (fun g => if g.wait = .sleep then { g with wait := .woken } else g))

/-! ## SRMODE (R205-R207) -/

/-- Some workgroup holds, or a placement hold covers, a unit of a bank (R205). -/
def State.bankInUse (s : State) (gr b : Nat) : Bool :=
  s.clusters.any (fun e =>
    e.2.wgs.any (fun w => match w.core with
      | some c => coreGrove c == gr && w.units.any (fun u => u / 64 == b)
      | none => false)
    || (match e.2.hold with
        | some h => h.banks.contains (gr, b)
            || (h.cores.zip h.units).any (fun x => coreGrove x.1 == gr && x.2.any (fun u => u / 64 == b))
        | none => false))

/-- A bank takes a mode; a bank that leaves cache mode writes back and invalidates its lines, and bytes of a bank that
joins the scratch pool are unspecified (R205, R206). -/
def State.switchBank (s : State) (gr b : Nat) (m : BankMode) (cid wg : Nat) : State :=
  let s := (if m = .cache then s else s.flushBank gr b).modGrove gr (fun g => { g with
    turned := g.turned.filter (fun x => x.2 != b) })
  let s := s.modBank gr b (fun x =>
    { mode := m, bts := x.bts, noise := if m = .scratch then s.fresh + 1 else 0,
      owner := if m = .fifo then cid else 0, ownerWg := if m = .fifo then wg else 0 })
  { s with fresh := s.fresh + 1 }

/-- A switch to FIFO mode charges 64 units (R207). -/
def srmodeTo (g : Group) (s : State) (gr b : Nat) (m : BankMode) : StemRes :=
  let ch : Charge := { sram := 64 }
  if m = .fifo then
    if s.groupFits g ch then .next ((s.chargeBy g ch).switchBank gr b m g.cid g.wg)
    else .fault s (g.fault .budget)
  else .next (s.switchBank gr b m g.cid g.wg)

/-- `SRMODE` (R205-R207). -/
def srmode (s : State) (bank : BitVec 4) (m : BankMode) : Host.Outcome State Fault Refusal :=
  runStem s (fun _ g s =>
    let gr := coreGrove g.coreN
    let b := bank.toNat
    let x := (s.grove gr).bank b
    match x.mode with
    | .cache => if m = .cache then .next s else srmodeTo g s gr b m
    | .scratch =>
      if m = .scratch then .next s
      else if s.bankInUse gr b then .fault s (g.fault .bankBusy)
      else srmodeTo g s gr b m
    | .fifo =>
      if x.owner != g.cid then .fault s (g.fault .bankBusy)
      else if m = .fifo then .next s
      else if !(x.entries.isEmpty && x.pushq.isEmpty && x.popq.isEmpty) then .fault s (g.fault .fifoState)
      else .next ((s.switchBank gr b m g.cid g.wg).reclaimBy g { sram := 64 }))

/-- `SRMODE b, cache` (R205). -/
def execSrmodeCache (bank : BitVec 4) (s : State) : Host.Outcome State Fault Refusal := srmode s bank .cache
/-- `SRMODE b, scratch` (R205). -/
def execSrmodeScratch (bank : BitVec 4) (s : State) : Host.Outcome State Fault Refusal := srmode s bank .scratch
/-- `SRMODE b, fifo` (R205, R207). -/
def execSrmodeFifo (bank : BitVec 4) (s : State) : Host.Outcome State Fault Refusal := srmode s bank .fifo

end Sys2Proof.Machine
end

