-- ==== Sys2Proof/Machine/Place.lean ====
section
/-! DEFINITION. Gang placement (R27-R31, R190-R195, R202-R204, R226, R417): the offer of reservations, holds, conflicts,
back-offs, commits, and the groups that start or continue. -/
namespace Sys2Proof.Machine

/-! ## Shapes and needs -/

/-- The core sets of a shape (R27). -/
def coreSets : Nat → List (List Nat)
  | 0 => (List.range 384).map (fun c => [c])
  | 1 => (List.range 192).map (fun k => span (2 * k) 2)
  | 2 => (List.range 96).map (fun g => span (4 * g) 4)
  | 3 => ((List.range 96).filter (fun g => decide (g % 6 ≤ 4))).map (fun g => span (4 * g) 8)
  | _ => ((List.range 96).filter (fun g => decide (g % 6 ≤ 2))).map (fun g => span (4 * g) 16)
/-- Pairwise disjoint core sets of a shape (R30). -/
def shapeCapacity : Nat → Nat
  | 0 => 384 | 1 => 192 | 2 => 96 | 3 => 48 | _ => 16

/-- Groups of a cluster. -/
def Task.groups (t : Task) : Nat := (t.ngm1 + 1) * shapeWgs t.shape
/-- The whole charge of a cluster at its admission (R29). -/
def Task.charge (t : Task) : Charge :=
  { t.share with lreg := t.groups * (t.chm1 + 1), strm := if t.podw0 then t.groups else 0 }
/-- A charge n times. -/
def Charge.times (c : Charge) (n : Nat) : Charge :=
  { lreg := n * c.lreg, sram := n * c.sram, ob := n * c.ob, grove := n * c.grove, strm := n * c.strm, bud := n * c.bud,
    tag := n * c.tag }

/-- What one workgroup needs of its core: chunks for each group, and whether the slice (R191, R235). -/
structure WgNeed where
  sizes : List Nat
  slice : Bool
  deriving DecidableEq, Repr

/-- The groups of a workgroup of a cluster, in order of GROUP. -/
def State.wgGroups (s : State) (cid w : Nat) : List (Nat × Group) :=
  let l := (s.groupsIn cid).filter (fun e => e.2.wg == w)
  (List.range 32).flatMap (fun i => l.filter (fun e => e.2.idx == i))

/-- What a cluster's workgroups need: as the descriptor says, or what a saved one left off with; an evicted group needs
no lane yet (R116, R418). -/
def State.needs (s : State) (t : Task) (cid : Nat) (c : Cluster) : List WgNeed :=
  match c.st with
  | .saved => (List.range c.wgs.length).map (fun w =>
      { sizes := ((s.wgGroups cid w).filter (fun e => !e.2.evicted)).map (fun e => e.2.chunks),
        slice := ((c.wg? w).map (·.slice)).getD false })
  | _ => List.replicate (shapeWgs t.shape)
      { sizes := List.replicate (t.ngm1 + 1) (t.chm1 + 1), slice := decide (1 ≤ t.obu) }

/-! ## Budgets that can never be met (R30, R202) -/

/-- Placement of a task's clusters fails with `BUDGET` (R202). -/
def placeFails (t : Task) : Bool :=
  let n := if t.coop then t.ncl else 1
  !fitsAloneIn t.eff.limits (t.charge.times n) || (t.coop && decide (shapeCapacity t.shape < t.ncl))
    || !fitsAloneIn t.eff.limits { tag := t.tags } || (t.podw0 && decide (t.eff.pool.2 < n * t.groups))
    || decide (1024 < t.scr * Nat.min 4 (shapeWgs t.shape))

/-- The task is admitted no further (R202): STATE 4, a `BUDGET` record, the node's fault. -/
def State.failPlacement (s : State) (tid : Nat) (t : Task) (idx : Nat) : State :=
  let s := (s.setTaskState t.part t.desc 4).taskRecord t
    { origin := 4, action := 4, f := { code := .budget }, tdesc := t.desc, taskNo := t.no.toNat,
      cluster := if t.coop then 0 else idx, node := (t.node.map (·.2)).getD 0xFFFF } t.pts
  let s := { s with clusters := s.clusters.filter (fun e => !(e.2.tid == tid && !e.2.admitted)) }
  let s := (s.modTask tid (fun t => { t with dead := true, waiting := false })).unbindTags tid
  let s := if (s.clustersOf tid).isEmpty then s.dropTask tid else s
  match t.node with
  | some (gn, i) => s.nodeFault gn i
  | none => s

/-! ## The order of offers (R192-R195, R417) -/

/-- The rank of a reservation (R192): effective priority, take, CLUSTER. -/
structure PRank where
  prio : Nat
  order : Nat
  idx : Nat
  deriving DecidableEq, Repr
/-- The first ranks higher (R192). -/
def PRank.beats (a b : PRank) : Bool :=
  decide (b.prio < a.prio) || (a.prio == b.prio && (decide (a.order < b.order) || (a.order == b.order && decide (a.idx < b.idx))))

/-- The rank of a cluster's reservation (R192, R193). -/
def rankOf (t : Task) (ageUp idx : Nat) : PRank := { prio := Nat.min 15 (t.eff.prio + ageUp), order := t.order, idx }

/-- A reservation that may be offered: task, CLUSTER of its first cluster, rank, and whether it was admitted before. -/
structure Offer where
  tid : Nat
  idx : Nat
  rank : PRank
  again : Bool
  deriving DecidableEq, Repr
/-- The first is offered before the second (R194, R417). -/
def Offer.before (a b : Offer) : Bool :=
  if a.rank.prio = b.rank.prio && a.again != b.again then a.again else a.rank.beats b.rank

/-- A cluster waits for placement now: it was never admitted or restarted, or it is saved and wants to come back; a
switched one once its pages are answered (R292, R417). -/
def State.wantsPlace (s : State) (cid : Nat) (c : Cluster) : Bool :=
  match c.st with
  | .waiting => true
  | .saved => !c.switched || (s.groupsIn cid).all (fun e => e.2.park.isNone)
  | _ => false

/-- The clusters of a task that wait for placement, in order of CLUSTER. -/
def State.waiters (s : State) (tid : Nat) : List (Nat × Cluster) :=
  let l := (s.clustersOf tid).filter (fun e => s.wantsPlace e.1 e.2)
  l.foldr (fun e r => (r.takeWhile (fun x => decide (x.2.idx < e.2.idx))) ++ e ::
    (r.dropWhile (fun x => decide (x.2.idx < e.2.idx)))) []

/-- What a task offers to placement now (R194): its waiting clusters that neither hold nor back off, and its next new
cluster; a cooperative task one reservation of all. A task that is admitted no further (R202) still offers its saved
clusters. -/
def State.offersOf (s : State) (tid : Nat) (t : Task) : List Offer :=
  if s.closed t || s.rangeWaits t then []
  else
    let ws := (s.waiters tid).filter (fun e => !t.dead || e.2.st == .saved)
    let old := (if t.coop then ws.take 1 else ws).filter (fun e => e.2.hold.isNone && decide (e.2.retryAt ≤ s.cycle))
    old.map (fun e => { tid, idx := e.2.idx, rank := rankOf t e.2.ageUp e.2.idx, again := e.2.st == .saved }) ++
      (if !t.dead && t.nextCl < t.ncl && (!t.coop || t.nextCl == 0) then
        [{ tid, idx := t.nextCl, rank := rankOf t 0 t.nextCl, again := false }] else [])

/-- The reservation offered next. -/
def State.nextOffer (s : State) : Option Offer :=
  (s.tasks.flatMap (fun e => s.offersOf e.1 e.2)).foldl (fun b o => match b with
    | none => some o
    | some x => if o.before x then some o else some x) none

/-- Cluster records of a task up to CLUSTER `idx`, or all of a cooperative task, exist (R28). -/
def State.createClusters (s : State) (tid : Nat) (t : Task) (idx : Nat) : State :=
  let upto := if t.coop then t.ncl else idx + 1
  ((List.range (upto - t.nextCl)).foldl (fun s i =>
    let (n, s) := s.newId
    { s with clusters := SMap.put s.clusters n { tid, idx := t.nextCl + i } }) s).modTask tid (fun t =>
      { t with nextCl := Nat.max t.nextCl upto })

/-- The clusters of the reservation that begins with CLUSTER `idx` (R194). -/
def State.reservation (s : State) (tid : Nat) (t : Task) (idx : Nat) : List (Nat × Cluster) :=
  let ws := s.waiters tid
  if t.coop then ws else ws.filter (fun e => e.2.idx == idx)

/-! ## Holds (R191, R192, R204, R207, R226) -/

/-- A bank of a grove as a partition will find it: at its reset mode where the grove was last another's (R203), or in
scratch mode if placement has converted it for the partition since (R204, log entry 71). -/
def State.bankSeen (s : State) (part gr b : Nat) : Bank :=
  let x := s.grove gr
  if x.lastUser.isSome && x.lastUser != some part then
    if x.turned.contains (part, b) then { mode := .scratch } else bankReset b
  else x.bank b

/-- Every hold. -/
def State.holds (s : State) : List Hold := s.clusters.filterMap (fun e => e.2.hold)
/-- The units in use on a grove: of resident workgroups, and held ones (R191). -/
def State.unitsUsed (s : State) (gr : Nat) : List Nat :=
  s.clusters.flatMap (fun e => e.2.wgs.flatMap (fun w => if w.core.map coreGrove = some gr then w.units else []))
    ++ s.holds.flatMap (fun h => (h.cores.zip h.units).flatMap (fun x => if coreGrove x.1 = gr then x.2 else []))
/-- Banks held for a resume's FIFOs on a grove (R207). -/
def State.banksHeld (s : State) (gr : Nat) : List Nat :=
  s.holds.flatMap (fun h => (h.banks.filter (fun b => b.1 == gr)).map (·.2))
/-- The free units of a grove, lowest first (R204). -/
def State.freeUnits (s : State) (part gr : Nat) (mine : List (Nat × Nat)) (banks : List (Nat × Nat)) : List Nat :=
  let used := s.unitsUsed gr ++ (mine.filter (fun x => x.1 == gr)).map (·.2)
  let no := s.banksHeld gr ++ (banks.filter (fun b => b.1 == gr)).map (·.2)
  ((List.range 16).filter (fun b => (s.bankSeen part gr b).mode == .scratch && !no.contains b)).flatMap (fun b =>
    (span (64 * b) 64).filter (fun u => !used.contains u))

/-- Clusters that are resident, with their tasks. -/
def State.onCores (s : State) : List (Task × Cluster) :=
  s.clusters.filterMap (fun e =>
    if e.2.st = .resident ∨ e.2.st = .stopping then (SMap.find? s.tasks e.2.tid).map (fun t => (t, e.2)) else none)
/-- Clusters that hold, with their tasks. -/
def State.holding (s : State) : List (Task × Hold) :=
  s.clusters.filterMap (fun e => match e.2.hold, SMap.find? s.tasks e.2.tid with
    | some h, some t => some (t, h)
    | _, _ => none)
/-- The groves of a list of cores. -/
def grovesOf (cores : List Nat) : List Nat := (cores.map coreGrove).eraseDups

/-- No other partition is on the groves, and for SHAPE 2 to 4 no other such cluster (R29, R191). DEDUCED (log entry 72):
"other holds and resident clusters of SHAPE 2 to 4" leaves holds of SHAPE 0 and 1 of the partition beside a grove
hold. -/
def State.grovesFree (s : State) (t : Task) (cores : List Nat) : Bool :=
  let gs := grovesOf cores
  let meets (cs : List Nat) : Bool := (grovesOf cs).any (fun x => gs.contains x)
  let ok (u : Task) (cs : List Nat) : Bool := !meets cs || (u.part == t.part && !(decide (2 ≤ t.shape) && decide (2 ≤ u.shape)))
  s.onCores.all (fun x => ok x.1 (x.2.wgs.filterMap (·.core))) && s.holding.all (fun x => ok x.1 x.2.cores)

/-- The slice of a core has no holder (R235). -/
def State.sliceFree? (s : State) (core : Nat) : Bool :=
  !s.clusters.any (fun e => e.2.wgs.any (fun w => w.core == some core && w.slice))
    && !s.holds.any (fun h => (h.cores.zip h.slices).any (fun x => x.1 == core && x.2))

/-- Lanes for the groups of a workgroup on its core, in order of GROUP (R190). -/
def State.pickLanes (s : State) (core : Nat) : List Nat → List (Nat × Nat) → Option (List (Nat × Nat))
  | [], acc => some acc
  | n :: r, acc =>
    match s.pickLane core n acc with
    | none => none
    | some l => s.pickLanes core r (acc ++ [(l, n)])

/-- Units for the workgroups, in order of WG (R204). -/
def State.pickUnits (s : State) (part scr : Nat) (banks : List (Nat × Nat)) : List Nat → List (Nat × Nat) → Option (List (List Nat))
  | [], _ => some []
  | c :: r, mine =>
    let us := (s.freeUnits part (coreGrove c) mine banks).take scr
    if us.length < scr then none
    else (s.pickUnits part scr banks r (mine ++ us.map (fun u => (coreGrove c, u)))).map (us :: ·)

/-- The banks that a resume's FIFOs need, if they are free (R207). -/
def State.pickBanks (s : State) (part : Nat) (c : Cluster) (cores : List Nat) : Option (List (Nat × Nat)) :=
  let bs := c.fifos.map (fun f => (coreGrove (cores.getD f.wg 0), f.bank))
  if bs.all (fun b => match (s.bankSeen part b.1 b.2).mode with
      | .cache => !(s.banksHeld b.1).contains b.2
      | .scratch => !(s.banksHeld b.1).contains b.2 && !(s.unitsUsed b.1).any (fun u => u / 64 == b.2)
      | .fifo => false) && bs.eraseDups.length == bs.length then some bs else none

/-- The hold of one cluster on a set of cores, if every unit is free (R191). -/
def State.holdOne (s : State) (t : Task) (cid : Nat) (c : Cluster) (cores : List Nat) (lead : Nat) : Option Hold :=
  let ns := s.needs t cid c
  if !s.grovesFree t cores || (cores.zip ns).any (fun x => x.2.slice && !s.sliceFree? x.1) then none
  else match s.pickBanks t.part c cores with
    | none => none
    | some banks =>
      match (cores.zip ns).mapM (fun x => s.pickLanes x.1 x.2.sizes []), s.pickUnits t.part t.scr banks cores [] with
      | some lanes, some units =>
        some { cores, units, lanes, slices := ns.map (·.slice), banks, tags := [], sids := 0, frames := 0, lead,
               since := s.cycle }
      | _, _ => none

/-- The holds of a reservation's clusters, each on its cores, in order. -/
def State.holdEach (t : Task) (lead : Nat) : List ((Nat × Cluster) × List Nat) → State → Option State
  | [], s => some s
  | (e, cores) :: r, s =>
    match s.holdOne t e.1 e.2 cores lead with
    | none => none
    | some h => State.holdEach t lead r (s.modCluster e.1 (fun c => { c with hold := some h }))

/-- Physical tags that no task has and no reservation holds (R226). -/
def State.freeTags (s : State) : List Nat :=
  (List.range 8).filter (fun i => !s.tasks.any (fun e => e.2.bound.contains i) && !s.holds.any (fun h => h.tags.contains i))
/-- Identifiers of a task's pool that no slot in the package holds (R31), lowest first. -/
def State.freeSids (s : State) (t : Task) : List Nat :=
  (span t.eff.pool.1 t.eff.pool.2).filter (fun i => (SMap.find? s.streams i).isNone)
/-- Frames of a partition that no group has (R213), lowest first. -/
def State.freeFrames (s : State) (p : Part) : List Nat :=
  let used := (s.groups.filter (fun e => e.2.part == p.num && e.2.host.isNone)).map (fun e => e.2.frame)
  (List.range p.frames).filter (fun k => !used.contains k)

/-- Two pools share an identifier. -/
def poolsMeet (a b : Nat × Nat) : Bool := decide (a.1 < b.1 + b.2) && decide (b.1 < a.1 + a.2)

/-- The reservation's common holds, tags, identifiers and frames, are free (R191, R213, R226). -/
def State.commonFree (s : State) (p : Part) (t : Task) (tags : List Nat) (news : Nat) : Bool :=
  let sids := if t.podw0 then news * t.groups else 0
  let heldSids := ((s.holding.filter (fun x => poolsMeet x.1.eff.pool t.eff.pool)).map (fun x => x.2.sids)).sum
  let heldFrames := ((s.holding.filter (fun x => x.1.part == t.part)).map (fun x => x.2.frames)).sum
  tags.all (fun i => s.freeTags.contains i) && decide (sids = 0 ∨ sids + heldSids ≤ (s.freeSids t).length)
    && decide (news * t.groups + heldFrames ≤ (s.freeFrames p).length)

/-- Every hold of a reservation (R191): each cluster on its cores, and the common ones in the first. -/
def State.holdAll (s : State) (p : Part) (t : Task) (cs : List (Nat × Cluster)) (cores : List (List Nat)) (tags : List Nat) :
    Option State :=
  let lead := (cs.head?.map (·.1)).getD 0
  let news := (cs.filter (fun e => e.2.st != .saved)).length
  if !s.commonFree p t tags news then none
  else (State.holdEach t lead (cs.zip cores) s).map (fun s => s.modCluster lead (fun c => { c with
    hold := c.hold.map (fun h => { h with
      tags, sids := if t.podw0 then news * t.groups else 0, frames := news * t.groups }) }))

/-- The holds of one reservation taken away. -/
def State.dropHolds (s : State) (lead : Nat) : State :=
  { s with clusters := s.clusters.map (fun e => (e.1, { e.2 with
      hold := match e.2.hold with
        | some h => if h.lead = lead then none else some h
        | none => none })) }
/-- A reservation drops its holds; a binding of route tags among them ends (R226), or passes to another reservation of the
task that holds without one. -/
def State.loseHolds (s : State) (lead : Nat) : State :=
  let c := SMap.find? s.clusters lead
  let tags := ((c.bind (·.hold)).map (·.tags)).getD []
  let s := s.dropHolds lead
  if tags.isEmpty then s else s.passTags ((c.map (·.tid)).getD 0) tags
/-- No reservation holds anything. -/
def State.noHolds (s : State) : State := { s with clusters := s.clusters.map (fun e => (e.1, { e.2 with hold := none })) }

/-- Some choice of core sets meets no shortage (R192). -/
def State.someSets (s : State) (p : Part) (t : Task) (cs : List (Nat × Cluster)) (tags : List Nat) : Bool :=
  let lead := (cs.head?.map (·.1)).getD 0
  let rec go : List (Nat × Cluster) → State → Bool
    | [], _ => true
    | e :: r, s => (coreSets t.shape).any (fun cores =>
        match s.holdOne t e.1 e.2 cores lead with
        | none => false
        | some h => go r (s.modCluster e.1 (fun c => { c with hold := some h })))
  s.commonFree p t tags (cs.filter (fun e => e.2.st != .saved)).length && go cs s

/-- A reservation drops its holds and backs off from a cycle on (R192, R193). -/
def State.backOffAt (s : State) (lead at_ : Nat) : State :=
  (s.loseHolds lead).modCluster lead (fun c =>
    let n := c.backoff + 1
    { c with
      retryAt := at_ + Nat.min 8192 (64 * 2 ^ c.backoff)
      backoff := if n = 8 then 0 else n
      ageUp := if n = 8 then c.ageUp + 1 else c.ageUp })

/-- A reservation drops its holds and backs off (R192, R193). -/
def State.backOff (s : State) (lead : Nat) : State := s.backOffAt lead s.cycle
/-- Attempts that have not committed within 256 cycles of their first hold lose (R191). -/
def State.expireHolds (s : State) : State :=
  s.clusters.foldl (fun s e => match e.2.hold with
    | some h => if h.lead = e.1 ∧ h.since + 256 < s.cycle then s.backOffAt e.1 (h.since + 256) else s
    | none => s) s

/-- Cache banks of a grove that is short of scratch units are converted, highest first (R204), but for those that the
attempt holds for its FIFOs. On a grove that another partition used last the conversion is noted too, and outlasts the
cleaning of the grove for the partition (R203, log entry 71). -/
def State.convertBanks (s : State) (part gr missing : Nat) (keep : List Nat) : State :=
  let bs := (((List.range 16).reverse).filter (fun b =>
    (s.bankSeen part gr b).mode == .cache && !keep.contains b)).take ((missing + 63) / 64)
  let s := (bs.filter (fun b => (s.bankOf gr b).mode == .cache)).foldl (fun s b => s.switchBank gr b .scratch 0 0) s
  if (s.grove gr).lastUser.isSome && (s.grove gr).lastUser != some part then
    s.modGrove gr (fun g => { g with turned := g.turned ++ bs.map (fun b => (part, b)) })
  else s

/-- The groves of a chosen set that are short of units convert banks (R204). DESIGN CHOICE (log entry 121): not where another
partition is resident; R204 does not say so. -/
def State.convertShort (s : State) (t : Task) (cs : List (Nat × Cluster)) (cores : List (List Nat)) : State :=
  let all := cores.flatten
  (grovesOf all).foldl (fun s gr =>
    let need := t.scr * (all.filter (fun c => coreGrove c == gr)).length
    let banks := (cs.zip cores).flatMap (fun x => x.1.2.fifos.map (fun f => (coreGrove (x.2.getD f.wg 0), f.bank)))
    let free := (s.noHolds.freeUnits t.part gr [] banks).length
    let other := s.onCores.any (fun x => x.1.part != t.part && (x.2.wgs.filterMap (·.core)).any (fun c => coreGrove c == gr))
    if need ≤ free || other || cs.isEmpty then s else s.convertBanks t.part gr (need - free)
        ((banks.filter (fun b => b.1 == gr)).map (·.2))) s

/-- The ranks of the reservations that hold now, by lead. -/
def State.rivals (s : State) : List (Nat × PRank) :=
  s.clusters.filterMap (fun e => match e.2.hold, SMap.find? s.tasks e.2.tid with
    | some h, some t => if h.lead = e.1 then some (e.1, rankOf t e.2.ageUp e.2.idx) else none
    | _, _ => none)

/-- The reservations of lower rank that must lose so that this one's holds succeed: none if they cannot (R192). -/
def State.losers (s : State) (me : PRank) (try_ : State → Option State) : Option (List Nat) :=
  let low := (s.rivals.filter (fun x => me.beats x.2)).map (·.1)
  let without (l : List Nat) : State := l.foldl (fun s k => s.dropHolds k) s
  if (try_ (without low)).isNone then none
  else some (low.foldl (fun l k => if (try_ (without (l.erase k))).isSome then l.erase k else l) low)

/-- The physical tags that a reservation of a task holds for it (R226). -/
def State.holdTags (s : State) (tid : Nat) : List Nat :=
  (s.clustersOf tid).flatMap (fun e => (e.2.hold.map (·.tags)).getD [])

/-- A reservation's holds are placed on the cores that the device chose (R191-R193). -/
def State.placeHolds (s : State) (a : PlaceArg) : State :=
  match s.nextOffer, SMap.find? s.tasks a.tid with
  | some o, some t =>
    match SMap.find? s.parts t.part with
    | none => s
    | some p =>
      if o.tid ≠ a.tid ∨ o.idx ≠ a.cluster then s
      else if !o.again && placeFails t then s.failPlacement a.tid t a.cluster
      else
        let s := s.createClusters a.tid t a.cluster
        let cs := s.reservation a.tid t a.cluster
        let lead := (cs.head?.map (·.1)).getD 0
        let held := (s.holdTags a.tid)
        let want := if t.bound.isEmpty && held.isEmpty then t.tags else 0
        let legal := cs.length == a.cores.length && a.cores.all (fun c => (coreSets t.shape).contains c)
        let s0 := s.noHolds
        if !legal then s
        else if s0.freeTags.length < want then s.backOff lead
        else if a.tags.length != want || a.tags.eraseDups.length != want || a.tags.any (fun i => !s0.freeTags.contains i) then s
        else
          let hold (s : State) : Option State := s.holdAll p t cs a.cores a.tags
          if (hold s0).isNone then
            let all := s0.someSets p t cs a.tags
            let s := s.convertShort t cs a.cores
            if all then s else s.backOff lead
          else match s.losers o.rank hold with
            | none => s.backOff lead
            | some ls =>
              let s := ls.foldl (fun s k => s.backOff k) s
              let s := (hold s).getD s
              if t.bound.isEmpty && !held.isEmpty && (s.holdTags a.tid).isEmpty then s.passTags a.tid held else s
  | _, _ => s

/-! ## Commit (R191, R29, R31, R203, R417) -/

/-- The banks that placement has converted for a partition that has not come yet (R204). -/
def Grove.turnedFor (g : Grove) (part : Nat) : List Nat :=
  g.turned.filterMap (fun c => if c.1 = part then some c.2 else none)

/-- A grove comes to a partition: one that another used last is cleaned (R203), and the banks that placement converted for
the partition are in scratch mode (R204). Conversions for others outlast the return of the last user, not a cleaning. -/
def State.claimGrove (s : State) (part gr : Nat) : State :=
  let s := match (s.grove gr).lastUser with
    | some q => if q = part then s
        else
          let s1 : State := (s.flushGrove gr).zeroGrove gr
          let s1 := ((s.grove gr).turnedFor part).foldl (fun (s : State) b => s.modBank gr b (fun x => { x with mode := .scratch })) s1
          s1.modGrove gr (fun g => { g with turned := [] })
    | none => s
  s.modGrove gr (fun g => { g with lastUser := some part })

/-- A group takes its place on a lane (R185, R190). -/
def State.seat (s : State) (core lane : Nat) (g : Group) : Group :=
  { g with core := some core, lane, pos := (s.freePos core lane).getD 0, pendingSet := s.laneFull core lane }

/-- A group starts (R31). -/
def State.startGroup (s : State) (t : Task) (tid cid wg idx core lane : Nat) : State :=
  match SMap.find? s.parts t.part with
  | none => s
  | some p =>
    let (n, s) := s.newId
    let frame := ((s.freeFrames p).head?).getD 0
    let g : Group := { part := t.part, tid, cid, wg, idx, core := none, frame, pc := t.stemEntry, chunks := t.chm1 + 1,
                       lease := BitVec.ofNat 8 t.eff.lease }
    let g := s.seat core lane ((g.setA 0 t.args).setA 1 (localPtr frame))
    let sid := if t.podw0 then (s.freeSids t).head? else none
    match sid with
    | none => s.putGroup n g
    | some i =>
      let s := s.putGroup n { g with wslots := SMap.put g.wslots 0 i }
      { s with streams := SMap.put s.streams i { gid := n, slot := 0, part := t.part, rcb := t.rcb, path := t.eff.limits.map (·.1) } }

/-- The groups of a new cluster start, in order of WG and GROUP (R31). -/
def State.startCluster (s : State) (t : Task) (tid cid : Nat) (h : Hold) : State :=
  let s := s.modCluster cid (fun c => { c with
    wgs := (h.cores.zip (h.units.zip h.slices)).map (fun x => { core := some x.1, units := x.2.1, slice := x.2.2 }) })
  (List.range h.cores.length).foldl (fun s w =>
    let core := h.cores.getD w 0
    let lanes := h.lanes.getD w []
    (List.range lanes.length).foldl (fun s i => s.startGroup t tid cid w i core (lanes.getD i (0, 0)).1) s) s

/-- The window of a workgroup written to its new units (R204, R417). -/
def State.restoreWindow (s : State) (core : Nat) (w : Wg) : State :=
  let at_ (o : Nat) : Nat := coreGrove core * 2 ^ 22 + (w.units.getD (o / 4096) 0) * 4096 + o % 4096
  let s := s.sramWrite ((List.range (4096 * w.units.length)).map (fun o => (at_ o, SMap.get 0 w.image o)))
  ((w.units.map (· / 64)).eraseDups).foldl (fun s b => s.modBank (coreGrove core) b (fun x =>
    { x with bts := tmax x.bts w.savedBts })) s

/-- One refill of a resume (R260): filled, stale, or waiting for a page. -/
def State.refill (s : State) (cid w ob : Nat) : State :=
  match SMap.find? s.clusters cid with
  | none => s
  | some c =>
    let out (s : State) : State := s.modCluster cid (fun c => { c with
      refills := c.refills.filter (fun x => !(x.1 == w && x.2.1 == ob)) })
    match (c.wg? w), (SMap.find? s.tasks c.tid).bind (fun t => (SMap.find? s.parts t.part).map (fun p => (t, p))) with
    | some wg, some (t, p) =>
      match SMap.find? wg.ranges ob, wg.core with
      | some r, some core =>
        let set (s : State) (r : Range) : State := s.modWg cid w (fun x => { x with ranges := SMap.put x.ranges ob r })
        let stale : Range := { r with st := .stale, data := [], scales := [], bad := [] }
        if (s.fillCheck core p { r with st := .reserved }).isSome then set (out s) stale
        else match s.readRange p (coreDie core) (BitVec.ofNat 8 t.eff.lease) (tmax c.savedPts t.pts) r with
          | .ok (r, _) s => set (out s) r
          | .fail _ s => set (out s) stale
          | .miss m s => if m.down then s else
            let s := s.modCluster cid (fun c => { c with refills := c.refills.map (fun x =>
              if x.1 = w ∧ x.2.1 = ob then (w, ob, some (m.miss.obj, m.miss.page)) else x) })
            if m.miss.mig then s else s.request t.part m.miss.obj m.miss.page m.kind m.first m.mal (2 * cid)
      | _, _ => out s
    | _, _ => s

/-- A saved FIFO bank comes back with its entries (R207). -/
def State.restoreFifo (s : State) (cid : Nat) (cores : List Nat) (f : FifoImage) : State :=
  (s.switchBank (coreGrove (cores.getD f.wg 0)) f.bank .fifo cid f.wg).modBank (coreGrove (cores.getD f.wg 0)) f.bank
    (fun b => { b with entries := f.entries, bts := tmax b.bts f.bts })

/-- A saved cluster continues on its new cores (R417): images, pts, ranges in ascending order, FIFO banks, and the
requests withdrawn from them. -/
def State.resumeCluster (s : State) (cid : Nat) (c : Cluster) (h : Hold) : State :=
  let s := s.freeImage c
  let nw := h.cores.length
  let s := (List.range nw).foldl (fun s w =>
    let core := h.cores.getD w 0
    let gs := (s.wgGroups cid w)
    let up := gs.filter (fun e => !e.2.evicted)
    let lanes := h.lanes.getD w []
    let s := (up.zip lanes).foldl (fun (s : State) (x : (Nat × Group) × (Nat × Nat)) =>
      s.modGroup x.1.1 (fun g => s.seat core x.2.1 g)) s
    let s := (gs.filter (fun e => e.2.evicted)).foldl (fun s e => s.modGroup e.1 (fun g => { g with core := some core })) s
    let s := s.modWg cid w (fun x => { x with core := some core, units := h.units.getD w [] })
    let s := match s.wg? cid w with
      | some x => s.restoreWindow core x
      | none => s
    let s := s.modWg cid w (fun x => { x with image := [] })
    s.raisePts core (((c.wg? w).map (·.savedPts)).getD 0)) s
  let fills := (List.range nw).flatMap (fun w => (((s.wg? cid w).map (·.ranges)).getD []).filterMap (fun e =>
    if e.2.st = .filled then some (w, e.1, (none : Option (Nat × Nat))) else none))
  let s := s.modCluster cid (fun c => { c with refills := fills, fifos := [], img := none, switched := false })
  let s := fills.foldl (fun s x => s.refill cid x.1 x.2.1) s
  let s := c.fifos.foldl (fun s f => s.restoreFifo cid h.cores f) s
  (s.groupsIn cid).foldl (fun s e => s.reissueFifo e.1) s

/-- One cluster of a committed reservation becomes resident (R28, R313). -/
def State.seatCluster (s : State) (tid : Nat) (t : Task) (cid : Nat) (h : Hold) : State :=
  match SMap.find? s.clusters cid with
  | none => s
  | some c =>
    let s := (grovesOf h.cores).foldl (fun s gr => s.claimGrove t.part gr) s
    let s := h.cores.foldl (fun s k => (s.raisePts k t.pts).clearGrowStuck k) s
    let (n, s) := s.newId
    let s := s.modCluster cid (fun c => { c with
      st := .resident, backoff := 0, ageUp := 0, retryAt := 0, hold := none, stopAt := none, parkedSince := none
      order := if c.st = .saved then c.order else n
      limits := if c.st = .saved then c.limits else some t.eff.limits })
    let s := if c.st = .saved then s.resumeCluster cid c h else s.startCluster t tid cid h
    s.noteParked cid

/-- A reservation that holds is committed within 256 cycles, or loses (R191). The task's first commit charges its route
tags, whichever of its reservations holds them (R226). -/
def State.commitHolds (s : State) (a : PlaceArg) : State :=
  match SMap.find? s.tasks a.tid with
  | none => s
  | some t0 =>
    match SMap.find? s.parts t0.part, (s.clustersOf a.tid).find? (fun e => e.2.idx == a.cluster && e.2.hold.isSome) with
    | some p, some (lead, lc) =>
      let cs := (s.clustersOf a.tid).filter (fun e => (e.2.hold.map (·.lead)) == some lead)
      let hs := cs.filterMap (fun e => e.2.hold)
      let mine := (lc.hold.map (·.tags)).getD []
      let tags := if t0.bound.isEmpty then s.holdTags a.tid else []
      let s := s.touchChain t0.part t0.rcb
      let t := { t0 with eff := s.resolve t0.part t0.rcb }
      let s := s.modTask a.tid (fun t => { t with eff := s.resolve t0.part t0.rcb })
      let news := (cs.filter (fun e => e.2.st != .saved)).length
      if (lc.hold.map (·.lead)) != some lead then s
      else if news ≠ 0 && placeFails t then (s.loseHolds lead).failPlacement a.tid t a.cluster
      else if !(lc.hold.map (fun h => decide (s.cycle ≤ h.since + 256))).getD false then s.backOff lead
      else if t.bound.isEmpty && tags.length < t.tags then s.backOff lead
      else match (s.dropHolds lead).holdAll p t cs (hs.map (·.cores)) mine with
        | none => s.backOff lead
        | some s2 =>
          let tag := if t.tagsCharged then 0 else t.tags
          let ch := { t.charge.times news with tag := if news = 0 then 0 else tag }
          if !s.fitsIn t.part t.eff.limits ch then s.backOff lead
          else
            let holds := cs.filterMap (fun e => ((SMap.find? s2.clusters e.1).bind (·.hold)).map (fun h => (e.1, h)))
            let path := t.eff.limits.map (·.1)
            let s := s2.chargeAt t.part path ch
            let s : State := { s with clusters := s.clusters.map (fun e => (e.1,
              if e.2.tid = a.tid then { e.2 with hold := e.2.hold.map (fun h => { h with tags := [] }) } else e.2)) }
            let s := s.modTask a.tid (fun t => { t with
              bound := if t.bound.isEmpty then tags else t.bound
              tagPath := if t.tagsCharged then t.tagPath else path
              tagsCharged := t.tagsCharged || (decide (news ≠ 0) && decide (t.tags ≠ 0)), admitted := true, waiting := false })
            let s := holds.foldl (fun s x => s.seatCluster a.tid t x.1 x.2) s
            if t.admitted then s
            else (s.setTaskState t.part t.desc 2).countUp t.part (t.eff.limits.map (·.1)) 0x80 true
    | _, _ => s

/-- A placement attempt (R191): its holds, or its commit. -/
def execPlacementAttempt (a : PlaceArg) (s : State) : Host.Outcome State Fault Refusal :=
  .next (if a.commit then s.commitHolds a else s.placeHolds a)

/-- The end of a back-off: the reservation may be offered again (R192). -/
def execBackoffExpiry (cid : Nat) (s : State) : Host.Outcome State Fault Refusal :=
  .next (s.modCluster cid (fun c => if c.retryAt ≤ s.cycle then { c with retryAt := 0 } else c))

end Sys2Proof.Machine
end

