-- ==== Sys2Proof/Machine/Sched.lean ====
section
/-! DEFINITION. Tasks that complete, and recorded graphs that run (R26, R198, R274): completion words, launches,
completions. -/
namespace Sys2Proof.Machine

/-! ## Completion words (R26, R198) -/

/-- The checks of a completion word, steps 1 to 5 of R268 with right W. -/
def State.cwCheck (s : State) (p : Part) (ptr : Word) : Option Code :=
  match s.walkDesc p (ptrObj ptr) with
  | .error c => some c
  | .ok d =>
    let two := match (s.translate 0 p (ptrObj ptr) d (ptrOff ptr) false).1 with
      | .place _ t => t == 2
      | _ => false
    if two then some .objInvalid
    else if !d.w || ptrNE ptr || ptrNW ptr then some .rights
    else if d.size < ptrOff ptr + 8 then some .bounds
    else if ptrOff ptr % 8 ≠ 0 then some .misalign
    else plainRule (keyClass p d)

/-- A pod-tier write performed by the device itself. -/
def State.podWrite (s : State) (w : EngPod) : State :=
  match w.dest with
  | .modul m => s.modWrite m w.key w.bytes
  | .host => s.hostWrite w.bytes

/-- A completion word stored at a logical time (R26): the new time, a page it waits for, or the code of its failure. -/
def State.cwStore (s : State) (part : Nat) (ptr val : Word) (t : Time) (bad : Bool) : ERes Time :=
  match SMap.find? s.parts part with
  | none => .fail .objInvalid s
  | some p =>
    if bad then .fail .pageFail s
    else match s.cwCheck p ptr with
      | some c => .fail c s
      | none =>
        match s.engWrite p 0 t (ptrObj ptr) (addrBytes (ptrOff ptr) (bytesOf 8 val.toNat)) false with
        | .ok (t, none) s => .ok t s
        | .ok (t, some w) s => .ok t (s.podWrite w)
        | .fail c s => .fail c s
        | .miss m s => .miss m s

/-- A task is done (R26 steps 2 to 4), no earlier than its completion word's time; its graph node's work is over (R198).
-/
def State.finishTask (s : State) (tid : Nat) (t : Task) (ts : Time) : State :=
  let s := (s.setTaskState t.part t.desc 3 (some ts)).countUp t.part (s.taskPath t) 0x80 false (some ts)
  let s := match t.node with
    | some (gn, i) => s.nodeDone gn i ts
    | none => s
  s.dropTask tid

/-- The completion of a task whose last cluster has ended (R26). -/
def execTaskCompletion (tid : Nat) (s : State) : Host.Outcome State Fault Refusal :=
  .next (match SMap.find? s.tasks tid with
    | none => s
    | some t =>
      if t.dead || t.clEnded != t.ncl || t.cwMiss.isSome then s
      else if t.cwPtr = 0 then s.finishTask tid t t.pts
      else match s.cwStore t.part t.cwPtr t.cwVal t.pts t.cwBad with
        | .ok ts s => s.finishTask tid t ts
        | .fail c s =>
          let r : FaultRecord := { origin := 4, action := 4, f := { code := c }, tdesc := t.desc, taskNo := t.no.toNat,
                                   node := (t.node.map (·.2)).getD 0xFFFF }
          (s.taskRecord t r t.pts).finishTask tid t t.pts
        | .miss m s => if m.down then s else
          let s := s.modTask tid (fun t => { t with cwMiss := some (m.miss.obj, m.miss.page) })
          if m.miss.mig then s else s.request t.part m.miss.obj m.miss.page m.kind m.first m.mal (2 * tid))

/-! ## Graphs that end (R198) -/

/-- Every node of a graph is done. -/
def State.allDone (s : State) (g : Graph) : Bool := (List.range g.nodes).all (fun i => s.nodeState g i == 3)

/-- A graph whose every node is done stores its completion word, and GSTATE is 2 (R198). -/
def State.graphEnd (s : State) (gn : Nat) : State :=
  match SMap.find? s.graphs gn with
  | none => s
  | some g =>
    if !s.allDone g || g.cwMiss.isSome then s
    else
      let close (s : State) : State :=
        let s := s.graphMod g 0x18 (fun _ => 2)
        { s with graphs := SMap.erase s.graphs gn }
      let ptr : Word := BitVec.ofNat 64 (s.graphWord g 8)
      if ptr = 0 then close s
      else match s.cwStore g.part ptr (BitVec.ofNat 64 (s.graphWord g 0x10)) g.ts g.cwBad with
        | .ok _ s => close s
        | .fail c s =>
          close (s.rcbRecord g.part g.rcb { origin := 3, action := 4, f := { code := c }, tdesc := g.ptr } g.ts)
        | .miss m s => if m.down then s else
          let s := s.modGraph gn (fun g => { g with cwMiss := some (m.miss.obj, m.miss.page) })
          if m.miss.mig then s else s.request g.part m.miss.obj m.miss.page m.kind m.first m.mal (2 * gn + 1)

/-- A node completes: NSTATE 3, NRUN, PLEFT of its successors; the graph may end (R198). -/
def execNodeComplete (graph node : Nat) (s : State) : Host.Outcome State Fault Refusal :=
  .next (match SMap.find? s.graphs graph with
    | none => s
    | some g =>
      if !g.finished.contains node then s.graphEnd graph
      else
        let s := s.modGraph graph (fun g => { g with finished := g.finished.erase node })
        let s := s.setNodeState g node 3
        let s := s.graphMod g 0x20 (· + 1)
        let s := (s.nodeSucc g node).foldl (fun s j => s.graphMod g (nodeOff j + 0x10) (fun w =>
          w / 2 ^ 32 * 2 ^ 32 + (bits w 16 16 - 1) * 2 ^ 16 + w % 2 ^ 16)) s
        (s.graphEnd graph).graphStuck graph)

/-! ## Launches (R198, R274, R378-R380) -/

/-- The words of a 64-byte block that a node names, if they can be read. -/
def State.blockWords (s : State) (part : Nat) (ptr : Word) : Option (List Nat) :=
  (List.range 8).mapM (fun i => (s.devRead part (ptr + BitVec.ofNat 64 (8 * i))).map (·.toNat))

/-- The imm21 field of a copy block (R274): none where a field that must be zero is not. -/
def copyMods (w : Nat) : Option EngMods :=
  if bits w 13 51 != 0 || bits w 11 2 != 0 || bits w 5 2 != 0 || bits w 0 4 != 0 then none
  else some { slot := BitVec.ofNat 3 (bits w 8 3), key := bit w 7, cw := bit w 4 }

/-- A node's launch waits; nodes of higher index are offered meanwhile (R198). -/
def State.holdOffer (s : State) (gn i : Nat) : State :=
  s.modGraph gn (fun g => { g with offered := if g.offered.contains i then g.offered else g.offered ++ [i] })

/-- A copy node is launched on a queue that the device chooses among those with room (R274). -/
def State.launchCopy (s : State) (gn i : Nat) (g : Graph) (p : Part) : State :=
  match s.blockWords g.part (BitVec.ofNat 64 (s.graphWord g (nodeOff i))) with
  | none => s.nodeFail gn i .objInvalid
  | some ws =>
    match copyMods (ws.getD 7 0) with
    | none => s.nodeFail gn i .objInvalid
    | some m =>
      if bits (ws.getD 2 0) 40 24 = 0 then (s.setNodeState g i 2).nodeDone gn i g.ts
      else
        let (w, s) := s.freeWord
        let q := w.toNat % 384
        let gr := q / 4
        let k := cp2Block m (fun j => BitVec.ofNat 64 (ws.getD j 0))
        match s.postCheck p (postReq m k (4 * gr) 0 false) with
        | .error (c, _) => s.nodeFail gn i c
        | .ok keys =>
          if queueDepth ≤ ((s.grove gr).queue (q % 4)).length then s.holdOffer gn i
          else
            let (n, s) := s.newId
            let o := engOp m k keys n 0 0 g.part 0 g.ts (BitVec.ofNat 8 (s.effLease g.part g.rcb)) n
            (s.setNodeState g i 2).pushQueue gr (q % 4) (.op { o with node := some (gn, i) })

/-- The root block of a node (R379), and whether its fields are legal (R380 step 1). -/
def parseRoot (w : Nat → Nat) (gn i : Nat) (g : Graph) (order : Nat) : RootNode × Bool :=
  let ku := bits (w 2) 24 16
  let pitch := bits (w 1) 0 40
  ({ graph := gn, node := i, part := g.part, wptr := BitVec.ofNat 64 (w 0), wpitch := pitch, kunits := ku,
     nrows := bits (w 2) 0 24, xptr := BitVec.ofNat 64 (w 3), yptr := BitVec.ofNat 64 (w 4), acc := bit (w 5) 0,
     ts := g.ts, order },
   bits (w 1) 40 24 == 0 && bits (w 2) 40 24 == 0 && bits (w 5) 1 63 == 0 && w 6 == 0 && w 7 == 0
     && decide (1 ≤ ku) && decide (ku ≤ 128) && bits (w 2) 0 24 != 0 && pitch % 256 == 0 && decide (256 * ku ≤ pitch))

/-- What the checks of R380, steps 2 to 7, come to: a fault, a page to ask for, or the stack of the weights. -/
inductive RootCheck where
  | fault (c : Code)
  | miss (m : MissInfo)
  | stack (k : Nat)
  deriving DecidableEq, Repr

/-- The checks of R380 on the rights, bounds, alignment and keys of the three objects. -/
def rootRights (p : Part) (r : RootNode) (w x y : Desc) : Option Code :=
  let open_ (d : Desc) : Bool := d.r && d.e
  if !open_ w || !open_ x || !y.w || !y.e || ptrNE r.wptr || ptrNE r.xptr || ptrNE r.yptr || ptrNW r.yptr then some .rights
  else if decide (w.size < r.unitOff (r.nrows - 1) 0 + 256 * r.kunits) || decide (x.size < ptrOff r.xptr + 256 * r.kunits)
      || decide (y.size < ptrOff r.yptr + 4 * r.nrows) then some .bounds
  else if ptrOff r.wptr % 256 ≠ 0 ∨ ptrOff r.xptr % 2 ≠ 0 ∨ ptrOff r.yptr % 4 ≠ 0 then some .misalign
  else match [w, x, y].findSome? (fun d => sealFault (keyClass p d)) with
    | some c => some c
    | none => if [w, x, y].any (fun d => keyClass p d == .open_) then some .rights else none

/-- The checks of a root node, steps 2 to 7 (R380). -/
def State.rootCheck (s : State) (p : Part) (r : RootNode) : RootCheck :=
  match s.walkDesc p (ptrObj r.wptr), s.walkDesc p (ptrObj r.xptr), s.walkDesc p (ptrObj r.yptr) with
  | .ok w, .ok x, .ok y =>
    let look (k : Nat) : Xlat := (s.translate 0 p (ptrObj r.wptr) w (65536 * k) false).1
    let xs := (r.pages.filter (fun k => decide (65536 * k < w.size))).map (fun k => (k, look k))
    let ks := (xs.filterMap (fun e => match e.2 with
      | .place (.hbm a) _ => some (a / 2 ^ 36)
      | _ => none)).eraseDups
    if xs.any (fun e => match e.2 with
        | .place (.hbm _) _ => false
        | .place _ _ => true
        | _ => false) || decide (1 < ks.length) then .fault .objInvalid
    else match (xs.findSome? (fun e => match e.2 with
        | .fault c => some c
        | _ => none)).or (rootRights p r w x y) with
      | some c => .fault c
      | none => (xs.findSome? (fun e => match e.2 with
        | .miss m mal =>
          some (.miss { miss := m, mal, kind := .engRead, first := Nat.max (65536 * e.1) (ptrOff r.wptr) })
        | _ => none)).getD (.stack (ks.headD 0))
  | .error c, _, _ => .fault c
  | _, .error c, _ => .fault c
  | _, _, .error c => .fault c

/-- A root node's page is asked for; the node waits (R380). -/
def State.rootMiss (s : State) (r : RootNode) (m : MissInfo) : State :=
  if m.down then s else
  let s := { s with roots := s.roots.map (fun x =>
    if x.order = r.order then { x with miss := some (m.miss.obj, m.miss.page) } else x) }
  if m.miss.mig then s else s.request r.part m.miss.obj m.miss.page m.kind m.first m.mal (2 * r.graph + 1)

/-- A root node is launched: its checks, and its place among those that wait for their stack's tiles (R378, R380). -/
def State.launchRoot (s : State) (gn i : Nat) (g : Graph) (p : Part) : State :=
  let ptr : Word := BitVec.ofNat 64 (s.graphWord g (nodeOff i))
  match s.walkDesc p (ptrObj ptr), s.blockWords g.part ptr with
  | .ok d, some ws =>
    let (n, s) := s.newId
    let (r, ok) := parseRoot (fun j => ws.getD j 0) gn i g n
    if !ok || ptrOff ptr % 64 != 0 || decide (d.size < ptrOff ptr + 64) then s.nodeFail gn i .objInvalid
    else match s.rootCheck p r with
      | .fault c => s.nodeFail gn i c
      | .stack k => if s.crown.failedStacks.contains k then s.nodeFail gn i .rootFault else ({ s with roots := s.roots ++ [{ r with want := some k }] }).setNodeState g i 1
      | .miss m => (({ s with roots := s.roots ++ [r] }).setNodeState g i 1).rootMiss r m
  | _, _ => s.nodeFail gn i .objInvalid

/-- The page of what a node's NPTR names: it is asked for where it is absent, and the node fails where the answer was a
failure (R289, R297) or where the block of a copy or a root node cannot be read (R283, R303, R386). A join names
nothing. -/
def State.nodePage (s : State) (g : Graph) (p : Part) (i : Nat) : Option (Except Code MissInfo) :=
  let ptr : Word := BitVec.ofNat 64 (s.graphWord g (nodeOff i))
  let kind := s.nodeKind g i
  let unread (c : Code) : Option (Except Code MissInfo) := if kind = 0 then none else some (.error c)
  if kind = 3 then none
  else if s.devBad g.part (g.ptr + BitVec.ofNat 64 (nodeOff i)) 64 then some (.error .uePoison)
  else match s.walkDesc p (ptrObj ptr) with
    | .error .uePoison => unread .uePoison
    | .error _ => none
    | .ok d =>
      if d.size < ptrOff ptr + (if kind = 0 then 1 else 64) || (kind == 2 && ptrOff ptr % 64 != 0) then none
      else if g.badNodes.contains i then some (.error .pageFail)
      else match (s.translate 0 p (ptrObj ptr) d (ptrOff ptr) false).1 with
        | .miss m mal => some (.ok { miss := m, mal, kind := .engRead, first := ptrOff ptr })
        | .fault c => unread c
        | .place (.hbm a) _ => if s.hbmBadSpan a 64 then unread (if kind = 2 then .rootFault else .uePoison) else none
        | .place _ _ => none

/-- A node's launch waits for the answer to its page request (R274, R289). -/
def State.nodeAsked (s : State) (g : Graph) (p : Part) (i : Nat) : Bool :=
  let ptr : Word := BitVec.ofNat 64 (s.graphWord g (nodeOff i))
  g.offered.contains i && p.reqs.any (fun r => r.obj == ptrObj ptr && r.page == ptrOff ptr / 65536)

/-- A node is ready to be launched (R198). -/
def State.nodeReady (s : State) (g : Graph) (i : Nat) : Bool :=
  decide (i < g.nodes) && s.nodeState g i == 0 && s.nodeLeft g i == 0
/-- The node that is offered next: the ready one of lowest index whose launch does not wait already (R198). -/
def State.nextNode (s : State) (g : Graph) : Option Nat :=
  (List.range g.nodes).find? (fun i => s.nodeReady g i && !g.offered.contains i)
/-- The node may be launched now: it is the next, or its launch waited for a page or for room in a queue (R198). -/
def State.mayLaunch (s : State) (g : Graph) (i : Nat) : Bool :=
  s.nextNode g == some i || (g.offered.contains i && s.nodeReady g i)

/-- Nodes of a graph are not launched: its partition does not work, or is pre-empted over the graph's RCB (R384, R411). -/
def State.nodesHeld (s : State) (g : Graph) (p : Part) : Bool :=
  !p.working || p.preempted.any (fun r => r == 0 || (s.chain g.part g.rcb).any (fun y => samePtr y r))
/-- A node is launched (R198): a task, a copy, a root node, or a join, which is over at once. Nothing is launched while
the graph's subtree is pre-empted (R384, R411). -/
def execNodeLaunch (graph node : Nat) (s : State) : Host.Outcome State Fault Refusal :=
  .next (match SMap.find? s.graphs graph with
    | none => s
    | some g =>
      match SMap.find? s.parts g.part with
      | none => s
      | some p =>
        if !s.mayLaunch g node || s.nodesHeld g p || s.nodeAsked g p node then s
        else match s.nodePage g p node with
          | some (.ok m) =>
            let s := s.holdOffer graph node
            if m.miss.mig then s else s.request g.part m.miss.obj m.miss.page m.kind m.first m.mal (2 * graph + 1)
          | some (.error c) =>
            (s.modGraph graph (fun g => { g with badNodes := g.badNodes.filter (· != node) })).nodeFail graph node c
          | none => match s.nodeKind g node with
          | 0 => (s.setNodeState g node 2).enterTask p g.rcb (BitVec.ofNat 64 (s.graphWord g (nodeOff node)))
              (BitVec.ofNat 64 node) (some (graph, node)) g.ts
          | 1 => s.launchCopy graph node g p
          | 2 => s.launchRoot graph node g p
          | _ => (s.setNodeState g node 2).nodeDone graph node g.ts)

end Sys2Proof.Machine
end

