-- ==== Sys2Proof/Machine/Roots.lean ====
section
/-! DEFINITION. HBM addresses and the controllers' order (R374-R377), and root tiles (R378-R386). -/
namespace Sys2Proof.Machine

/-! ## The address map (R374, R375) -/

/-- The reset value of HMAP (R375). -/
def hmapReset : Word := 0x0250000000001E00
/-- HMAP of a stack (R375). -/
def State.hmap (s : State) (k : Nat) : Word := SMap.get hmapReset s.crown.hmap k
/-- Parity of the low n bits of a number. -/
def parity : Nat → Nat → Bool
  | 0, _ => false
  | n + 1, x => (x % 2 == 1).xor (parity n (x / 2))
/-- The pseudo-channel of a stack-local address (R374). -/
def pcOf (h : Word) (a : Nat) : Nat :=
  let mask := bits h.toNat 9 27 * 2 ^ 9
  if (bit a 8).xor (parity 36 (a &&& mask)) then 1 else 0
/-- The channel of a stack-local address (R374). -/
def channelOf (h : Word) (a : Nat) : Nat :=
  (bits a 9 5).xor (if bit h.toNat 52 then bits a (bits h.toNat 53 5) 5 else 0)

/-! ## The controllers (R377) -/

/-- Number of a pseudo-channel controller. -/
def ctlKey (stack ch pc : Nat) : Nat := 64 * stack + 2 * ch + pc
/-- A pseudo-channel controller. -/
def State.hbmCtlAt (s : State) (k : Nat) : HbmCtl := (SMap.find? s.hbmCtl k).getD {}
/-- The oldest request of a class. -/
def HbmCtl.first (c : HbmCtl) (cls : Nat) : Option HbmReq := c.reqs.find? (fun r => r.cls == cls)
/-- The next request by class and age; after 64 urgent ones under a relief, a bulk one (R377). -/
def HbmCtl.next (c : HbmCtl) : Option HbmReq :=
  if c.relief && decide (64 ≤ c.urgentRun) then (c.first 0).or ((c.first 2).or (c.first 1))
  else (c.first 0).or ((c.first 1).or (c.first 2))

/-- The package address of a unit of a bound root node, by the frames noted at its binding. -/
def RootNode.addr (r : RootNode) (i u : Nat) : Option Nat :=
  (SMap.find? r.frames (r.unitOff i u / 65536)).map (fun a => a + r.unitOff i u % 65536)
/-- The stack-local address of a unit of a bound root node. -/
def RootNode.unitAddr (r : RootNode) (i u : Nat) : Option Nat := (r.addr i u).map (· % 2 ^ 36)
/-- A unit in the order of the column commands (R381 step 2): by address; two units at one address, whose pages have one
frame, by row and unit. -/
def unitLt (x y : Nat × Nat × Nat) : Bool :=
  decide (x.1 < y.1) || (x.1 == y.1 && (decide (x.2.1 < y.2.1) || (x.2.1 == y.2.1 && decide (x.2.2 < y.2.2))))
/-- The units of a root node that lie in a channel, with their addresses. -/
def State.unitsIn (s : State) (r : RootNode) (ch : Nat) : List (Nat × Nat × Nat) :=
  let h := s.hmap (r.stack.getD 0)
  (List.range r.nrows).flatMap (fun i => (List.range r.kunits).filterMap (fun u =>
    match r.unitAddr i u with
    | some a => if channelOf h a = ch then some (a, i, u) else none
    | none => none))
/-- The first unit after a given one (R381 step 2). -/
def nextUnit (lo : Option (Nat × Nat × Nat)) (l : List (Nat × Nat × Nat)) : Option (Nat × Nat × Nat) :=
  l.foldl (fun b x =>
    if (lo.map (fun a => !unitLt a x)).getD false then b
    else match b with
      | none => some x
      | some y => if unitLt x y then some x else some y) none

/-- A root node's next column command on a channel reaches its controller (R381 step 2). -/
def State.askBurst (s : State) (r : RootNode) (ch : Nat) (lo : Option (Nat × Nat × Nat)) : State :=
  match nextUnit lo (s.unitsIn r ch) with
  | none => s
  | some (a, i, u) =>
    let k := ctlKey (r.stack.getD 0) ch (pcOf (s.hmap (r.stack.getD 0)) a)
    let c := s.hbmCtlAt k
    { s with hbmCtl := SMap.put s.hbmCtl k { c with reqs := c.reqs ++ [{ cls := 2, at_ := s.cycle, burst := some (r.order, i, u) }] } }

/-- A root node by its number. -/
def State.rootAt (s : State) (n : Nat) : Option RootNode := s.roots.find? (fun r => r.order == n)
/-- A root node changed. -/
def State.modRoot (s : State) (n : Nat) (f : RootNode → RootNode) : State :=
  { s with roots := s.roots.map (fun r => if r.order = n then f r else r) }

/-- Key of a unit of a root node. -/
def RootNode.key (r : RootNode) (i u : Nat) : Nat := i * r.kunits + u
/-- When the two lines of a unit were last written (R385 step 3). -/
def State.unitTimes (s : State) (r : RootNode) (i u : Nat) : List Time :=
  match r.addr i u with
  | none => []
  | some a => [(s.line (lineOf a)).wts, (s.line (lineOf (a + 128))).wts]

/-- A pseudo-channel controller issues its next column command (R377): the command of a root node fetches its burst, and
the node's next one on the channel follows. -/
def execHbmColumnCommand (stack ch pc : Nat) (s : State) : Host.Outcome State Fault Refusal :=
  .next (
    let k := ctlKey stack ch pc
    let c := s.hbmCtlAt k
    match c.next with
    | none => s
    | some q =>
      let rest := c.reqs.erase q
      let waited := rest.any (fun r => r.cls == 2 && decide (r.at_ + 32000 ≤ s.cycle))
      let c := { c with reqs := rest, urgentRun := if q.cls = 1 then c.urgentRun + 1 else if q.cls = 2 then 0 else c.urgentRun,
                        relief := c.relief && (q.cls != 2 || waited) }
      let s := { s with hbmCtl := SMap.put s.hbmCtl k c }
      match q.burst with
      | none => s
      | some (n, i, u) =>
        match s.rootAt n with
        | none => s
        | some r =>
          (s.modRoot n (fun r => { r with
            issued := r.issued ++ [(i, u)], seen := SMap.put r.seen (r.key i u) (s.unitTimes r i u) })).askBurst r ch
              ((r.unitAddr i u).map (fun a => (a, i, u))))

/-- A bulk request has waited 16 µs, 32,000 cycles: one bulk command after every 64 urgent ones from then on (R377). -/
def execBulkStarvationRelief (stack ch pc : Nat) (s : State) : Host.Outcome State Fault Refusal :=
  .next (
    let k := ctlKey stack ch pc
    let c := s.hbmCtlAt k
    if !c.relief && c.reqs.any (fun r => r.cls == 2 && decide (r.at_ + 32000 ≤ s.cycle)) then
      { s with hbmCtl := SMap.put s.hbmCtl k { c with relief := true, urgentRun := 0 } }
    else s)

/-! ## Root nodes (R378-R386) -/

/-- A root node ends: its tiles are unbound and its commands leave the controllers (R378). -/
def State.unbindRoot (s : State) (r : RootNode) : State :=
  State.startMigs { s with
    roots := s.roots.filter (fun x => x.order != r.order)
    hbmCtl := s.hbmCtl.map (fun e => (e.1, { e.2 with
      reqs := e.2.reqs.filter (fun q => (q.burst.map (·.1)) != some r.order) })) }
/-- A root node faults (R380, R386). -/
def State.rootFail (s : State) (r : RootNode) (c : Code) : State := (s.unbindRoot r).nodeFail r.graph r.node c

/-- Some byte that a pointer names lies in a sector with an error (R303). -/
def State.badData (s : State) (part : Nat) (ptr : Word) (n : Nat) : Bool :=
  (List.range n).any (fun i => (s.devAddr part (ptrWith ptr (ptrOff ptr + i))).any s.hbmBad)
/-- The code of a root node's failed read (R283, R386): an error in the data is a ROOT_FAULT. -/
def State.rootCode (s : State) (r : RootNode) (ptr : Word) (n : Nat) (c : Code) : Code :=
  if c = .uePoison && s.badData r.part ptr n then .rootFault else c

/-- The lease of a root node's reads: its graph's (R20). -/
def State.rootLease (s : State) (r : RootNode) : BitVec 8 :=
  ((SMap.find? s.graphs r.graph).map (fun g => BitVec.ofNat 8 (s.effLease g.part g.rcb))).getD 10

/-- A root node waits for the tiles of its stack (R378): it has found them bound. -/
def RootNode.waitsTiles (r : RootNode) : Bool := r.stack.isNone && r.waits && r.miss.isNone && r.fault.isNone
/-- A stack's tiles are free, no earlier node wants them, and of the nodes that wait for tiles the first in launch order is
bound first (R378). -/
def State.stackFree (s : State) (r : RootNode) (k : Nat) : Bool :=
  !s.roots.any (fun x => x.stack == some k) &&
    !s.roots.any (fun x => decide (x.order < r.order) && x.stack.isNone
      && (x.want == some k || (r.waits && x.waitsTiles)))
/-- The frames of a root node's weights, by page (R380). -/
def State.weightFrames (s : State) (p : Part) (r : RootNode) : SMap Nat :=
  match s.walkDesc p (ptrObj r.wptr) with
  | .error _ => []
  | .ok d => r.pages.foldl (fun (m : SMap Nat) k => match (s.translate 0 p (ptrObj r.wptr) d (65536 * k) false).1 with
    | .place (.hbm a) _ => SMap.put m k a
    | _ => m) []

/-- A root node is bound to the 32 tiles of its stack, and x is read into them (R378, R380, R381 step 1). -/
def State.bindRoot (s : State) (r : RootNode) (k : Nat) (p : Part) : State :=
  match State.engSpan p { die := k / 2, lease := s.rootLease r } (ptrObj r.xptr) (256 * r.kunits + 1) (ptrOff r.xptr)
      (256 * r.kunits) [] r.ts s with
  | .miss m s => s.rootMiss r m
  | .fail c s => s.rootFail r (s.rootCode r r.xptr (256 * r.kunits) c)
  | .ok (x, t) s =>
    let r := { r with
      stack := some k, x, ts := t, sums := [], written := [], issued := [], miss := none, waits := false
      frames := s.weightFrames p r }
    let s := s.modRoot r.order (fun _ => r)
    let s := match SMap.find? s.graphs r.graph with
      | some g => s.setNodeState g r.node 2
      | none => s
    (List.range 32).foldl (fun s ch => s.askBurst r ch none) s

/-- A root node is bound (R378): its binding is its launch, so its checks are made as its pages now stand (R380), and not
while its partition is pre-empted (R384). -/
def execRootNodeBind (graph node : Nat) (s : State) : Host.Outcome State Fault Refusal :=
  .next (match s.roots.find? (fun r => r.graph == graph && r.node == node && r.stack.isNone) with
    | none => s
    | some r =>
      match SMap.find? s.parts r.part, r.fault with
      | none, _ => s
      | some _, some c => s.rootFail r c
      | some p, none =>
        if r.miss.isSome || ((SMap.find? s.graphs r.graph).map (fun g => s.nodesHeld g p)).getD false then s
        else match s.rootCheck p r with
          | .fault c => s.rootFail r c
          | .miss m => s.rootMiss r m
          | .stack k =>
            let s := s.modRoot r.order (fun r => { r with want := some k })
            let r := { r with want := some k }
            if s.crown.failedStacks.contains k then s.rootFail r .rootFault
            else if s.stackFree r k then s.bindRoot r k p
            else s.modRoot r.order (fun r => { r with waits := true }))

/-- A little-endian element of some bytes. -/
def elem16 (bs : List Byte) (j : Nat) : Nat := wordOf ((bs.drop (2 * j)).take 2)
/-- The partial sum of a unit: an exact sum, rounded once (R382). -/
def unitSum (w x : List Byte) : BitVec 32 :=
  let v (bs : List Byte) (j : Nat) : FVal := decodeF (fmtOf .bf16) (elem16 bs j)
  BitVec.ofNat 32 (roundF (fmtOf .f32) .rne false 0 (sumF .rne ((List.range 128).map (fun j => (mulF (v w j) (v x j)).1))).1).1
/-- The sum of a row: partial sums in ascending unit, each addition rounded (R382). -/
def rowSum (acc : Nat) (ps : List (BitVec 32)) : Nat :=
  ps.foldl (fun a p => (roundF (fmtOf .f32) .rne false 0
    (sumF .rne [decodeF (fmtOf .f32) a, decodeF (fmtOf .f32) p.toNat]).1).1) acc

/-- Every unit of a row has been consumed (R382). -/
def RootNode.rowFull (r : RootNode) (i : Nat) : Bool :=
  (List.range r.kunits).all (fun u => (SMap.find? r.sums (r.key i u)).isSome)

/-- The pages of y are there, and their places noted, before the first of its rows is written: a page failure writes none
(R386). -/
def State.yPages (r : RootNode) (p : Part) : List Nat → SMap Place → State → ERes (SMap Place)
  | [], m, s => .ok m s
  | off :: l, m, s =>
    match s.engPlace p 0 (ptrObj r.yptr) off 4 true .engWrite with
    | .ok (pl, _) s => State.yPages r p l (SMap.put m (off / 65536) (pl.back (off % 65536))) s
    | .miss x s => .miss x s
    | .fail c s => .fail c s
/-- The first offset of y, and the first of each of its later pages. -/
def RootNode.yOffs (r : RootNode) : List Nat :=
  let lo := ptrOff r.yptr
  lo :: (span (lo / 65536 + 1) ((lo + 4 * r.nrows - 1) / 65536 - lo / 65536)).map (· * 65536)
/-- The places of the pages of y (R386): as noted, else looked up. -/
def State.yPlaces (s : State) (r : RootNode) (p : Part) : ERes (SMap Place) :=
  if r.yAt.isEmpty then State.yPages r p r.yOffs [] s else .ok r.yAt s
/-- A place moved on by some bytes. -/
def Place.fwd (k : Nat) : Place → Place
  | .hbm a => .hbm (a + k)
  | .modul h m a => .modul h m (a + k)
  | .host a => .host (a + k)
/-- A value of y is read at its place (R382, R383), at a logical time. -/
def State.yRead (s : State) (r : RootNode) (p : Part) (pl : Place) : List Byte × Time × State :=
  match pl with
  | .hbm a => s.ownRead p.keyId r.ts (s.rootLease r) a 4
  | pl =>
    let (bs, s) := s.podRead p pl 4
    (bs, r.ts, s)
/-- A value of y is written at its place (R382, R383). -/
def State.yWrite (s : State) (p : Part) (pl : Place) (t : Time) (bs : List Byte) : Time × State :=
  match pl with
  | .hbm a => s.ownWrite p.keyId t (addrBytes a bs)
  | .modul _ m a => (t, s.podWrite { off := 0, dest := .modul m, bytes := addrBytes a bs, key := s.modKeyOf p m (a / 32 * 32) 32 })
  | .host a => (t, s.podWrite { off := 0, dest := .host, bytes := addrBytes a bs, key := none })

/-- A row of y is written (R382, R383): done, waiting for a page, or the node's fault. -/
def State.writeRow (s : State) (r : RootNode) (i : Nat) (p : Part) : Option Code × State :=
  match s.yPlaces r p with
  | .miss m s => (none, s.rootMiss r m)
  | .fail c s => (some c, s)
  | .ok ps s =>
    let s := s.modRoot r.order (fun x => { x with yAt := ps })
    let off := ptrOff r.yptr + 4 * i
    match SMap.find? ps (off / 65536) with
    | none => (none, s)
    | some pl =>
      let pl := pl.fwd (off % 65536)
      if s.placeLost pl then (some .moduleLost, s)
      else if s.placeDown pl then (none, s)
      else if r.acc && s.placeBad pl 4 then (some .rootFault, s)
      else if s.placeFailed pl then (some .uePoison, s)
      else
        let (y, t, s) := if r.acc then s.yRead r p pl else ([0, 0, 0, 0], r.ts, s)
        let v := rowSum (wordOf y) ((List.range r.kunits).map (fun u => SMap.get 0 r.sums (r.key i u)))
        let (t, s) := s.yWrite p pl t (bytesOf 4 v)
        (none, s.modRoot r.order (fun x => { x with written := SMap.put x.written i true, ts := tmax x.ts t }))

/-- A burst with an error that the controller cannot correct (R386): its sectors are poisoned, the node faults. -/
def State.burstBad (s : State) (r : RootNode) (b : BurstArg) : Option State :=
  match r.addr b.row b.unit with
  | none => none
  | some a =>
    let secs := b.bad.filter (fun i => decide (i < 8))
    if secs.isEmpty && !s.hbmBadSpan a 256 then none
    else
      let s := { s with poison := secs.foldl (fun m i => SMap.set false m (a / 32 + i) true) s.poison }
      some (s.rootFail r .rootFault)

/-- Errors in a burst that the controller corrects (R385): each sector is rewritten, a request of the first class, unless it
was written after the failing read; the tile takes the sectors as they now stand. -/
def State.burstFix (s : State) (r : RootNode) (b : BurstArg) : State :=
  match r.addr b.row b.unit, r.unitAddr b.row b.unit with
  | some _, some l =>
    let was := (SMap.find? r.seen (r.key b.row b.unit)).getD []
    let now := s.unitTimes r b.row b.unit
    let st := r.stack.getD 0
    let h := s.hmap st
    (b.fixed.filter (fun i => decide (i < 8) && was[i / 4]? == now[i / 4]?)).foldl (fun s i =>
      let k := ctlKey st (channelOf h (l + 32 * i)) (pcOf h (l + 32 * i))
      let c := s.hbmCtlAt k
      { s with hbmCtl := SMap.put s.hbmCtl k { c with reqs := c.reqs ++ [{ cls := 0, at_ := s.cycle }] } }) s
  | _, _ => s
/-- The bytes of a unit, read at a logical time (R381, R383): the lines merge, and the time rises, as for an engine's
reads. -/
def State.unitRead (s : State) (r : RootNode) (p : Part) (a : Nat) : List Byte × Time × State :=
  (List.range 8).foldl (fun (x : List Byte × Time × State) i =>
    let (bs, t, s) := x.2.2.ownRead p.keyId x.2.1 (s.rootLease r) (a + 32 * i) 32
    (x.1 ++ bs, t, s)) ([], r.ts, s)

/-- A burst arrives at a tile (R381, R385): one with the node's tag, the first issued on its channel, steps the
microprogram once; any other is rejected. A row that is full may be written now. -/
def execRootBurstArrival (b : BurstArg) (s : State) : Host.Outcome State Fault Refusal :=
  .next (match s.rootAt b.node with
    | none => s
    | some r =>
      let h := s.hmap (r.stack.getD 0)
      let ch (i u : Nat) : Option Nat := (r.unitAddr i u).map (channelOf h)
      let due := r.issued.find? (fun x => ch x.1 x.2 == ch b.row b.unit)
      match SMap.find? s.parts r.part with
      | none => s
      | some p =>
        if !b.tagged || r.stack.isNone || r.miss.isSome || due != some (b.row, b.unit) then s
        else match s.burstBad r b with
          | some s => s
          | none =>
            match r.addr b.row b.unit with
            | none => s
            | some a =>
              let (w, t, s) := (s.burstFix r b).unitRead r p a
              let x := unitSum w ((r.x.drop (256 * b.unit)).take 256)
              let r := { r with sums := SMap.put r.sums (r.key b.row b.unit) x, issued := r.issued.erase (b.row, b.unit),
                                ts := tmax r.ts t }
              let s := s.modRoot r.order (fun _ => r)
              let (v, s) := s.freeWord
              if r.rowFull b.row && v.getLsbD 0 then
                match s.writeRow r b.row p with
                | (some c, s) => s.rootFail r c
                | (none, s) => s
              else s)

/-- The rows of y that are still to be written, in order, until one waits or faults. -/
def State.writeRows (p : Part) : List Nat → Nat → State → Option Code × State
  | [], _, s => (none, s)
  | i :: l, n, s =>
    match s.rootAt n with
    | none => (none, s)
    | some r =>
      if (SMap.find? r.written i).isSome then State.writeRows p l n s
      else match s.writeRow r i p with
        | (some c, s) => (some c, s)
        | (none, s) => State.writeRows p l n s

/-- A root node completes when every row is written (R382, R383). -/
def execRootNodeComplete (graph node : Nat) (s : State) : Host.Outcome State Fault Refusal :=
  .next (match s.roots.find? (fun r => r.graph == graph && r.node == node && r.stack.isSome) with
    | none => s
    | some r =>
      match SMap.find? s.parts r.part, r.fault with
      | none, _ => s
      | some _, some c => s.rootFail r c
      | some p, none =>
        let rows := List.range r.nrows
        if r.miss.isSome || !rows.all r.rowFull then s
        else match State.writeRows p rows r.order s with
          | (some c, s) => s.rootFail r c
          | (none, s) =>
            match s.rootAt r.order with
            | none => s
            | some r =>
              if rows.all (fun i => (SMap.find? r.written i).isSome) then (s.unbindRoot r).nodeDone graph node r.ts
              else s)

end Sys2Proof.Machine
end

