-- ==== Sys2Proof/Machine/Mailbox.lean ====
section
/-! DEFINITION. How a mailbox command is accepted (R19, R398, R399, R438, R444), the commands of partitions (R19),
and what erases a partition's work and keys (R389). -/
namespace Sys2Proof.Machine

/-! ## Acceptance -/

/-- The range that a command comes through exists: the package's, or that of a partition's interface (R398). -/
def State.viaOk (s : State) (v : Via) : Bool :=
  match v with
  | .base => true
  | .part n => (SMap.find? s.parts n).isSome
/-- A command comes through the range of a system partition (R19). -/
def State.viaSystem (s : State) (v : Via) : Bool :=
  match v with
  | .base => false
  | .part n => ((SMap.find? s.parts n).map (·.system)).getD false

/-- A mailbox command executes: nothing is answered while the package is held in reset (R444); sapling mode refuses
every command but those of R438. -/
def mailbox (s : State) (v : Via) (inSapling : Bool) (body : State → State) : Host.Outcome State Fault Refusal :=
  .next (if s.crown.down || !s.viaOk v then s
    else if s.crown.sapling && !inSapling then s.refuse
    else body s)

/-- A command that names a partition; a number that is not in use is refused. -/
def onPart (n : Nat) (body : Part → State → State) (s : State) : State :=
  match SMap.find? s.parts n with
  | none => s.refuse
  | some p => body p s
/-- A command that names a partition and is refused while its interface is locked or runs (R399). -/
def onUnlocked (n : Nat) (body : Part → State → State) (s : State) : State :=
  onPart n (fun p s => if p.tdi = .unlocked then body p s else s.refuse) s

/-- The end of HBM (R281). -/
def hbmEnd : Nat := 2 ^ 39

/-! ## Values of a partition root (R18, R19) -/

/-- Budgets fit their fields and hold no inherit code (R17, R19). -/
def budgetsOk (b : Budgets) : Bool :=
  decide (b.blreg < 0xFFFFF) && decide (b.bsram < 0xFFFFF) && decide (b.bob < 0xFFFFF) && decide (b.btag < 0xF)
    && decide (b.bgrove < 0xFF) && decide (b.bstrm < 0xFFF) && decide (b.bbud < 0xFFFF)
/-- A pool lies inside the package's identifiers and includes no receiver identifier (R18, R19, R336, R369). -/
def State.poolOk (s : State) (base cnt : Nat) : Bool :=
  decide (cnt ≤ 2048) && decide (2048 * s.pkg ≤ base) && decide (base + cnt ≤ 2048 * s.pkg + 2032)
/-- PRIO, LEASE and FPOLICY are legal for a root (R19). -/
def policyOk (prio lease fp : Nat) : Bool := decide (prio ≤ 15) && decide (1 ≤ lease) && decide (lease ≤ 255) && decide (fp ≤ 2)

/-- The recorded fields of a root as its image holds them, at 0x38 to 0x50 (R17, R18). -/
def rootFields (p : Part) : List (Nat × Nat) :=
  [(0x38, p.tenant.toNat * 2 ^ 32 + p.num * 2 ^ 28 + 2 ^ 27 + p.fpolicy * 2 ^ 24 + p.lease * 2 ^ 16 + p.prio * 2 ^ 8),
   (0x40, p.bud.blreg * 2 ^ 44 + p.bud.bsram * 2 ^ 24 + p.bud.bob * 2 ^ 4 + p.bud.btag),
   (0x48, p.bud.bgrove * 2 ^ 56 + p.bud.bstrm * 2 ^ 44 + p.bud.bbud * 2 ^ 28),
   (0x50, p.poolBase * 2 ^ 48 + p.poolCnt * 2 ^ 36)]
/-- A word of a root image as ROOTSET leaves it: recorded fields, and zero for the rest (R17, R19). -/
def rootImage (p : Part) (off : Nat) : Nat := ((rootFields p).find? (fun x => x.1 == off)).elim 0 (·.2)

/-- PARTCREATE (R19). -/
def execPartcreate (v : Via) (a : PartParams) (s : State) : Host.Outcome State Fault Refusal :=
  mailbox s v false (fun s =>
    let may := match v with
      | .base => s.parts.isEmpty
      | .part _ => s.viaSystem v
    if !may || decide (15 < a.num) || (SMap.find? s.parts a.num).isSome || a.tenant == 0xFFFFFFFF || !budgetsOk a.bud
        || !s.poolOk a.poolBase a.poolCnt || !policyOk a.prio a.lease a.fpolicy then s.refuse
    else
      let (k, s) := s.newId
      let p : Part := { num := a.num, tenant := a.tenant, poolBase := a.poolBase, poolCnt := a.poolCnt, bud := a.bud,
                        prio := a.prio, lease := a.lease, fpolicy := a.fpolicy, system := a.system, keyId := k }
      ({ s with parts := SMap.put s.parts a.num p }).answer)

/-- The HBM address of a pointer that ROOTSET accepts (R19). DESIGN CHOICE (log entry 81): a root whose page is absent is
refused. -/
def State.rootPlace (s : State) (p : Part) (ptr : Word) : Option Nat :=
  match s.walkDesc p (ptrObj ptr) with
  | .error _ => none
  | .ok d =>
    if d.r && d.w && !ptrNW ptr && ptrOff ptr % 256 == 0 && decide (ptrOff ptr + 256 ≤ d.size) then s.devAddr p.num ptr
    else none

/-- ROOTSET (R19). The words of the image for which R17 gives no value are free (log entry 3). -/
def execRootset (v : Via) (part : Nat) (ptr : Word) (s : State) : Host.Outcome State Fault Refusal :=
  mailbox s v false (onUnlocked part (fun p s =>
    if p.dir.isNone || (s.rootPlace p ptr).isNone || s.tasks.any (fun e => e.2.part == part) then s.refuse
    else
      let s := (List.range 32).foldl (fun s i =>
        if i = 2 ∨ i = 5 then
          let (w, s) := s.freeWord
          s.devStore part (ptr + BitVec.ofNat 64 (8 * i)) w
        else s.devStore part (ptr + BitVec.ofNat 64 (8 * i)) (BitVec.ofNat 64 (rootImage p (8 * i)))) s
      (s.modPart part (fun p => { p with root := some ptr })).answer))

/-- The recorded fields rewritten in the root image; VALID stays (R19). -/
def State.rewriteRoot (s : State) (p : Part) : State :=
  match p.root with
  | none => s
  | some r => (rootFields p).foldl (fun s x => s.devMod p.num (r + BitVec.ofNat 64 x.1) (fun w =>
      BitVec.ofNat 64 (x.2 + if x.1 = 0x38 then w.toNat % 2 else 0))) s

/-- PARTSET (R19). -/
def execPartset (v : Via) (part : Nat) (a : PartPatch) (s : State) : Host.Outcome State Fault Refusal :=
  mailbox s v false (onUnlocked part (fun p s =>
    let q : Part := { p with
      poolBase := a.poolBase.getD p.poolBase, poolCnt := a.poolCnt.getD p.poolCnt, bud := a.bud.getD p.bud
      prio := a.prio.getD p.prio, lease := a.lease.getD p.lease, fpolicy := a.fpolicy.getD p.fpolicy }
    if !budgetsOk q.bud || !s.poolOk q.poolBase q.poolCnt || !policyOk q.prio q.lease q.fpolicy
        || s.streams.any (fun e => e.2.part == part && e.1 < 2048 * s.pkg + 2032
          && !(decide (q.poolBase ≤ e.1) && decide (e.1 < q.poolBase + q.poolCnt))) then s.refuse
    else ((s.modPart part (fun _ => q)).rewriteRoot q).answer))

/-- LOCALSET (R19, R213); translations of the old frames go. -/
def execLocalset (v : Via) (part base count size : Nat) (s : State) : Host.Outcome State Fault Refusal :=
  mailbox s v false (onUnlocked part (fun _ s =>
    if base % 65536 ≠ 0 ∨ count < 1 ∨ 65536 < count ∨ size < 1 ∨ 64 < size ∨ hbmEnd < base + count * frameBytes size
        ∨ s.groups.any (fun e => e.2.part == part) then s.refuse
    else
      let old (k : Nat) : Bool := k / 2 ^ 21 == part && decide (2 ^ 21 ≤ k % 2 ^ 21 + 65536)
      let s : State := { s with cores := s.cores.map (fun e => (e.1, { e.2 with otlb := e.2.otlb.filter (fun x => !old x.1) })) }
      (s.modPart part (fun p => { p with localBase := base, frames := count, localS := size })).answer))

/-- SYSMARK (R19, R76). -/
def execSysmark (v : Via) (part : Nat) (on : Bool) (s : State) : Host.Outcome State Fault Refusal :=
  mailbox s v false (onUnlocked part (fun _ s =>
    if !s.viaSystem v || v == .part part then s.refuse
    else (s.modPart part (fun p => { p with system := on })).answer))

/-! ## The end of a partition's work (R389) -/

/-- A graph of a partition that is erased stops: GSTATE 3. -/
def State.stopGraphs (s : State) (part : Nat) : State :=
  let gs := s.graphs.filter (fun e => e.2.part == part)
  let out := s.roots.filter (fun r => r.part == part)
  let s := State.freeRows { s with
    roots := s.roots.filter (fun r => r.part != part)
    hbmCtl := s.hbmCtl.map (fun e => (e.1, { e.2 with
      reqs := e.2.reqs.filter (fun q => !s.roots.any (fun r => r.part == part && some r.order == q.burst.map (·.1))) }))
    groves := s.groves.map (fun e => (e.1, { e.2 with
      queues := e.2.queues.map (fun q => (q.1, q.2.filter (fun x => match x with
        | .op o => !(o.node.isSome && o.part == part)
        | .fence _ _ _ _ => true))) })) } out
  gs.foldl (fun s e =>
    let s := s.graphMod e.2 0x18 (fun _ => 3)
    { s with graphs := SMap.erase s.graphs e.1 }) s

/-- Copies of lines of an erased key go (R389). -/
def State.dropKeyCopies (s : State) (k : Nat) : State :=
  let mine (l : Nat) : Bool := (span (4 * l) 4).any (fun sec => s.tagOf sec == k + 1)
  { s with
    cores := s.cores.map (fun e => (e.1, { e.2 with l1 := e.2.l1.filter (fun x => !mine x.1) }))
    groves := s.groves.map (fun e => (e.1, { e.2 with copies := e.2.copies.filter (fun x => !mine x.1) })) }

/-- What R389 does to a partition: its work is killed; ranges, tiles and images go with it; the tenant key and the
handles' keys are erased. Its migrations are abandoned, its commands answered. -/
def State.erasePart (s : State) (part : Nat) : State :=
  match SMap.find? s.parts part with
  | none => s
  | some p =>
    let s := (s.tasks.filter (fun e => e.2.part == part)).foldl (fun s e => s.killTask e.1 5) s
    let s := s.stopGraphs part
    let hosts := (s.groups.filter (fun e => e.2.part == part)).map (·.1)
    let s := (s.dropBuds hosts).dropFifoReqs hosts
    let s := hosts.foldl (fun s g => (match SMap.find? s.groups g with
      | some x => s.performStnts x
      | none => s).dropGroup g true) s
    let mine := s.migrations.filter (fun m => m.part == part)
    let s : State := { s with
      dies := s.dies.map (fun e => (e.1, { e.2 with
        recvs := e.2.recvs.map (fun r => (r.1, { r.2 with
          queue := r.2.queue.filter (fun b => b.dpart != part), taken := r.2.taken.filter (fun b => b.dpart != part) }))
        preempts := e.2.preempts.filter (fun x => x.1 != part) }))
      migrations := s.migrations.filter (fun m => m.part != part)
      streams := s.streams.map (fun e => (e.1, if e.2.part = part then { e.2 with part := 255 } else e.2))
      budsOut := s.budsOut.map (fun o => if o.part = part then { o with part := 255 } else o) }
    let s := mine.foldl (fun s _ => s.refuse .migrateAbort) s
    let s := (List.range p.invs).foldl (fun s _ => s.answer) s
    let s := p.answers.foldl (fun s _ => s.answer) s
    let s := s.dropKeyCopies p.keyId
    let (k, s) := s.newId
    let s := s.modPart part (fun p => { p with
      keyId := k, handles := [], reqs := [], invs := 0, answers := [], preempted := [], tdi := .unlocked })
    ((s.invalidate part none none).modCrown (fun c => { c with tdiKeys := SMap.erase c.tdiKeys part })).startMigs

/-- PARTDESTROY (R19, R389): the interface and the number go; the partition that used a grove last is none that exists. -/
def execPartdestroy (v : Via) (part : Nat) (s : State) : Host.Outcome State Fault Refusal :=
  mailbox s v false (onPart part (fun _ s =>
    let s := s.erasePart part
    let s : State := { s with
      parts := SMap.erase s.parts part
      groves := s.groves.map (fun e => (e.1, if e.2.lastUser = some part then { e.2 with lastUser := some 255 } else e.2)) }
    (s.modCrown (fun c => { c with tdiKeys := SMap.erase c.tdiKeys part })).answer))

end Sys2Proof.Machine
end

