-- ==== Sys2Proof/Machine/Paging.lean ====
section
/-! DEFINITION. The partition's tables and their commands (R278, R284), table walks (R283), page requests and answers
(R294-R298), clusters that are switched out (R292), and migrations (R299-R303). -/
namespace Sys2Proof.Machine

/-! ## Tables (R278, R284) -/

/-- Invalidations of a partition are counted and answered once the old uses are performed (R284). -/
def State.objInv (s : State) (part : Nat) (obj page : Option Nat) : State :=
  ((s.invalidate part obj page).modPart part (fun p => { p with invs := p.invs + 1 })).answerInvs part

/-- DIRSET (R278). -/
def execDirset (v : Via) (part base count : Nat) (s : State) : Host.Outcome State Fault Refusal :=
  mailbox s v false (onUnlocked part (fun _ s =>
    if base % 65536 ≠ 0 ∨ count < 1 ∨ 2 ^ 21 < count ∨ hbmEnd < base + 64 * count then s.refuse
    else (s.modPart part (fun p => { p with dir := some (base, count) })).objInv part none none))

/-- LOGSET (R278, R294): the log begins with record 0. -/
def execLogset (v : Via) (part base size ans cons : Nat) (s : State) : Host.Outcome State Fault Refusal :=
  mailbox s v false (onUnlocked part (fun _ s =>
    if base % 4096 ≠ 0 ∨ size < 64 ∨ 65536 < size ∨ (List.range 17).all (fun i => size != 2 ^ i) ∨ ans % 32768 ≠ 0
        ∨ cons % 8 ≠ 0 ∨ hbmEnd < ans + 32768 ∨ hbmEnd < cons + 8 then s.refuse
    else (s.modPart part (fun p => { p with log := some { base, size, ans, cons } })).answer))

/-- OBJINV (R278, R284). -/
def execObjinv (v : Via) (part : Nat) (obj page : Option Nat) (s : State) : Host.Outcome State Fault Refusal :=
  mailbox s v false (onPart part (fun _ s => s.objInv part obj page))

/-- A walk of a core's table port completes (R283): the descriptor is kept in its OTLB, the entry in its die's port. -/
def execTableWalk (core part obj page : Nat) (s : State) : Host.Outcome State Fault Refusal :=
  .next (match SMap.find? s.parts part with
    | none => s
    | some p =>
      match s.coreDesc core part obj with
      | (.error _, s) => s
      | (.ok d, s) =>
        if (frameOf p obj).isSome || decide (d.size ≤ 65536 * page) then s
        else (s.pageAt (coreDie core) p obj d page false).2)

/-! ## Page requests (R294-R298) -/

/-- KIND of a request's record (R294). -/
def MissKind.code : MissKind → Nat
  | .read => 0
  | .write => 1
  | .engRead => 2
  | .engWrite => 3
  | .stemFetch => 4
  | .leafFetch => 5
  | .obFill => 6

/-- The words of record k (R294). -/
def recordWords (r : PageReq) (tag k : Nat) : List Nat :=
  [r.obj * 2 ^ 40 + r.page * 2 ^ 16 + r.kind.code * 2 ^ 12 + tag, k + 1, r.first, if r.mal then 1 else 0]

/-- A request that waits gets a tag and its record is written, once the log has room (R294, R295). -/
def execPageRequestRecord (part obj page tag : Nat) (s : State) : Host.Outcome State Fault Refusal :=
  .next (match SMap.find? s.parts part with
    | none => s
    | some p =>
      match p.log, p.reqs.find? (fun r => r.obj == obj && r.page == page && r.tag.isNone) with
      | some l, some r =>
        if 4096 ≤ tag ∨ p.reqs.any (fun r => r.tag == some tag) ∨ l.next - s.hbmWord p.keyId l.cons ≥ l.size then s
        else
          let s := s.homeStore p.keyId (addrBytes (l.ans + 8 * tag) (bytesOf 8 0))
          let s := s.hostWrite (addrBytes (l.base + 32 * (l.next % l.size))
            ((recordWords r tag l.next).flatMap (fun w => bytesOf 8 w)))
          s.modPart part (fun p => { p with
            log := some { l with next := l.next + 1 }
            reqs := p.reqs.map (fun x => if x = r then { r with tag := some tag, seq := some (l.next + 1) } else x) })
      | _, _ => s)

/-- The host stores the count of records it has consumed (R294). -/
def execConsaddrWrite (part : Nat) (count : Word) (s : State) : Host.Outcome State Fault Refusal :=
  .next (match (SMap.find? s.parts part).bind (fun p => p.log.map (fun l => (p, l))) with
    | none => s
    | some (p, l) => s.windowWrite p.keyId (addrBytes l.cons (bytesOf 8 count.toNat)))

/-- The page of an operation's wait matches. -/
def waitsFor (m : Option (Nat × Nat)) (obj page : Nat) : Bool := m == some (obj, page)

/-- Engine operations, fills and reductions of a partition that wait for a page go on, or fail (R272, R289, R297). -/
def State.wakeOps (s : State) (part obj page : Nat) (fail : Bool) : State :=
  let code (c : Option Code) : Option Code := if fail then some (c.getD .pageFail) else c
  let mine (gid : Nat) : Bool := ((SMap.find? s.groups gid).map (fun g => g.part == part)).getD false
  { s with
    groves := s.groves.map (fun e => (e.1, { e.2 with
      queues := e.2.queues.map (fun q => (q.1, q.2.map (fun x => match x with
        | .op o => if o.part == part && waitsFor o.miss obj page then .op { o with miss := none, failed := code o.failed } else x
        | .fence _ _ _ _ => x)))
      obFills := e.2.obFills.map (fun f =>
        if mine f.gid && waitsFor f.miss obj page then { f with miss := none, failed := code f.failed } else f) }))
    streams := s.streams.map (fun e => (e.1, { e.2 with ops := e.2.ops.map (fun o =>
      if o.part = part then { o with src := o.src.map (fun q =>
        if waitsFor q.miss obj page then { q with miss := none, failed := q.failed || fail } else q) } else o) })) }

/-- Refills of a resumed cluster that wait for a page: it is read again, or the range is stale (R260). -/
def State.wakeRefills (s : State) (cid obj page : Nat) (fail : Bool) : State :=
  match SMap.find? s.clusters cid with
  | none => s
  | some c =>
    (c.refills.filter (fun x => waitsFor x.2.2 obj page)).foldl (fun s x =>
      if fail then
        (s.modWg cid x.1 (fun w => { w with
          ranges := SMap.mod w.ranges x.2.1 (fun r => { r with st := .stale, data := [], scales := [], bad := [] }) })).modCluster cid
          (fun c => { c with refills := c.refills.filter (fun y => !(y.1 == x.1 && y.2.1 == x.2.1)) })
      else s.refill cid x.1 x.2.1) s

/-- Tasks, graphs and root nodes of a partition that wait for a page (R26, R198, R297, R380). -/
def State.wakeWork (s : State) (part obj page : Nat) (fail : Bool) : State :=
  let s : State := { s with
    tasks := s.tasks.map (fun e => (e.1,
      if e.2.part == part && waitsFor e.2.cwMiss obj page then { e.2 with cwMiss := none, cwBad := e.2.cwBad || fail } else e.2))
    graphs := s.graphs.map (fun e => (e.1,
      if e.2.part == part && waitsFor e.2.cwMiss obj page then { e.2 with cwMiss := none, cwBad := e.2.cwBad || fail } else e.2))
    roots := s.roots.map (fun r =>
      if r.part == part && waitsFor r.miss obj page then
        { r with miss := none, fault := if fail then some (r.fault.getD .pageFail) else r.fault }
      else r) }
  if !fail then s
  else s.graphs.foldl (fun s e =>
    let hit (i : Nat) : Bool :=
      let ptr : Word := BitVec.ofNat 64 (s.graphWord e.2 (nodeOff i))
      s.nodeReady e.2 i && ptrObj ptr == obj && ptrOff ptr / 65536 == page
    if e.2.part = part then s.modGraph e.1 (fun g => { g with badNodes := g.badNodes ++ g.offered.filter hit }) else s) s

/-- Refills that wait for nothing, those that met a route without traffic, are tried again (R260, R328). -/
def State.retryRefills (s : State) : State :=
  s.clusters.foldl (fun s e => (e.2.refills.filter (fun x => x.2.2.isNone)).foldl (fun s x => s.refill e.1 x.1 x.2.1) s) s

/-- A page's wait is over for everybody who waits for it: its request was answered, or its migration has ended. -/
def State.wakePage (s : State) (part obj page : Nat) (mig fail : Bool) : State :=
  let gs := (s.groups.filter (fun e => e.2.part == part)).map (·.1)
  let s := gs.foldl (fun s g => s.unparkMiss g { obj, page, mig } fail) s
  let s := (s.wakeOps part obj page fail).wakeWork part obj page fail
  s.clusters.foldl (fun s e =>
    if ((SMap.find? s.tasks e.2.tid).map (fun t => t.part == part)).getD false then s.wakeRefills e.1 obj page fail else s) s

/-- The host stores an answer word (R296-R298). -/
def execPageAnswer (part tag : Nat) (w : Word) (s : State) : Host.Outcome State Fault Refusal :=
  .next (match (SMap.find? s.parts part).bind (fun p => p.log.map (fun l => (p, l))) with
    | none => s
    | some (p, l) =>
      if 4096 ≤ tag then s
      else
        let s := s.windowWrite p.keyId (addrBytes (l.ans + 8 * tag) (bytesOf 8 w.toNat))
        let status := bits w.toNat 56 8
        if status = 0 then s
        else match p.reqs.find? (fun r => r.tag == some tag && r.seq.map (· % 2 ^ 48) == some (bits w.toNat 0 48)) with
          | none => s.modPart part (fun p => { p with lateAnswers := p.lateAnswers + 1 })
          | some r =>
            (s.modPart part (fun p => { p with reqs := p.reqs.erase r })).wakePage part r.obj r.page false (status != 1))

/-! ## Images and switching out (R292, R412) -/

/-- Shadow storage of a die (R1, R412). -/
def shadowSize : Nat := 96 * 2 ^ 20
/-- Bytes of a group's image (R412). -/
def Group.imageSize (g : Group) : Nat := 8192 + (if g.park.isSome then 2048 * (g.chunks - 2) else 0)
/-- FIFO banks of a workgroup of a cluster, by grove and bank. -/
def State.fifoBanks (s : State) (cid wg : Nat) : List (Nat × Nat × Bank) :=
  s.groves.flatMap (fun e => (e.2.banks.filter (fun b => b.2.mode == .fifo && b.2.owner == cid && b.2.ownerWg == wg)).map
    (fun b => (e.1, b.1, b.2)))
/-- Bytes of a cluster's image (R412). -/
def State.imageSize (s : State) (cid : Nat) (c : Cluster) (scr : Nat) : Nat :=
  ((s.groupsIn cid).map (fun e => e.2.imageSize)).sum +
    ((List.range c.wgs.length).map (fun w =>
      4096 * scr + (if ((c.wg? w).map (·.slice)).getD false then 128 * 1024 else 0)
        + 8 * ((s.fifoBanks cid w).map (fun b => b.2.2.entries.length)).sum + 5 * 1024)).sum
/-- The die of a resident cluster. -/
def Cluster.die (c : Cluster) : Nat := coreDie ((c.wgs.head?.bind (·.core)).getD 0)

/-- A cluster begins to stop at safe points (R292, R413). -/
def State.stopCluster (s : State) (cid : Nat) (img : Option Nat × Nat) (switched : Bool) : State :=
  let s := match img, ((SMap.find? s.clusters cid).bind (fun c => SMap.find? s.tasks c.tid)).bind (fun t => SMap.find? s.parts t.part) with
    | (some die, n), _ => s.modDie die (fun d => { d with shadow := d.shadow + n })
    | (none, n), some p =>
      let s := s.modPart p.num (fun p => { p with ctxUsed := p.ctxUsed + n })
      match p.ctx with
      | some (b, z) => s.blotHbm b z
      | none => s
    | (none, _), none => s
  s.modCluster cid (fun c => { c with st := .stopping, img := some img, switched, stopAt := some s.liveCycles })

/-- A cluster whose groups have all been parked or ended for 1,024 cycles is switched out, if the shadow storage has room
(R292). -/
def execClusterSwitchOut (cid : Nat) (s : State) : Host.Outcome State Fault Refusal :=
  .next (match SMap.find? s.clusters cid with
    | none => s
    | some c =>
      let scr := ((SMap.find? s.tasks c.tid).map (·.scr)).getD 0
      let n := s.imageSize cid c scr
      if c.st = .resident ∧ (c.parkedSince.map (fun t => decide (t + 1024 ≤ s.cycle))).getD false ∧
          (s.groupsIn cid).all (fun e => e.2.park.isSome) ∧ (s.die c.die).shadow + n ≤ shadowSize then
        s.stopCluster cid (some c.die, n) true
      else s)

/-! ## Migrations (R299-R303) -/

/-- PMIGRATE (R299, R384): refused at once, or begun, or left to wait. -/
def execPmigrate (v : Via) (part obj page : Nat) (alt : Bool) (frame : Nat) (s : State) : Host.Outcome State Fault Refusal :=
  mailbox s v false (onPart part (fun p s =>
    match s.pageOf p obj page with
    | .error .uePoison => (s.setMcause p obj .uePoison).refuse .migrateAbort
    | .error c => s.refuse c
    | .ok (d, q) =>
      let tier := if alt then d.alt.tier else d.loc.tier
      if s.migrations.any (fun m => m.part == part && m.obj == obj && m.page == page) || q.alt == alt
          || decide (2 ^ 32 ≤ frame) || (tier == 0 && decide (hbmEnd ≤ frame * 65536)) then s.refuse
      else
        let m : Migration := { part, obj, page, alt, frame, started := false }
        State.startMigs { s with migrations := s.migrations ++ [m] }))

/-- The 64 KiB of a place hold an address of the package's HBM. -/
def Place.page : Place → Option Nat
  | .hbm a => some (a / 65536)
  | _ => none

/-- Accesses of the package to a page that were translated and are not performed (R301). -/
def State.pageBusy (s : State) (part : Nat) (pl : Place) : Bool :=
  let same (x : Place) : Bool := match pl, x with
    | .hbm a, .hbm b => a / 65536 == b / 65536
    | .modul _ m a, .modul _ n b => m == n && a / 65536 == b / 65536
    | .host a, .host b => a / 65536 == b / 65536
    | _, _ => false
  s.groups.any (fun e => e.2.part == part && (
    e.2.stnts.any (fun x => x.bytes.any (fun b => same (.hbm b.1)))
      || e.2.fills.any (fun f => match f.src with
        | .podLoad q _ _ _ _ => same q
        | _ => false)))
  || s.streams.any (fun e => e.2.ops.any (fun o => o.part == part && (match pl, o.dest with
      | .modul _ m a, .modul n => m == n && opMeets o.op 65536 (a / 65536)
      | .host a, .host => opMeets o.op 65536 (a / 65536)
      | _, _ => false)))
  || s.groves.any (fun e => e.2.queues.any (fun q => q.2.any (fun x => match x with
    | .op o => o.part == part && o.pods.any (fun w => w.bytes.any (fun b => match w.dest with
        | .modul m => same (.modul none m b.1)
        | .host => same (.host b.1)))
    | .fence _ _ _ _ => false)))

/-- Sectors of a page that read as an uncorrectable error are poisoned (R303). -/
def State.poisonPage (s : State) (pl : Place) : State :=
  match pl with
  | .hbm a => { s with poison := (List.range 2048).foldl (fun (m : SMap Bool) (i : Nat) =>
      if s.hbmBad (a + 32 * i) then SMap.set false m (a / 32 + i) true else m) s.poison }
  | _ => s

/-- The copy of a page: 512 lines, at one logical time, its reads first (R299). Tenant keys go by location. -/
def State.copyPage (s : State) (p : Part) (src dst : Place) : State :=
  let bs := s.placeBytes p src 65536
  let lines (pl : Place) : List Nat := match pl.page with
    | some n => span (512 * n) 512
    | none => []
  let s := (lines src ++ lines dst).foldl (fun s l => s.bringHome l) s
  let t := latest ((lines src).map (fun l => (s.line l).wts) ++ (lines dst).map (fun l => (s.line l).rts + 1))
  let s := (lines src).foldl (fun s l => s.setLine l { s.line l with rts := tmax (s.line l).rts t }) s
  match dst with
  | .hbm a =>
    let s := (lines dst).foldl (fun s l => s.setLine l { s.line l with wts := t, rts := t }) s
    s.hbmWrite p.keyId (addrBytes a bs)
  | .modul _ m a => s.modWrite m (s.modKeyOf p m a 65536) (addrBytes a bs)
  | .host a => s.hostWrite (addrBytes a bs)

/-- A migration is abandoned: MIG cleared in the entry in which it was set, MCAUSE written, `MIGRATE_ABORT` answered; what waited goes on (R300, R302). -/
def State.abortMig (s : State) (m : Migration) (p : Part) (c : Code) : State :=
  let s := s.dropMig m
  let w := s.hbmWord p.keyId m.entry
  let s := s.homeStore p.keyId (addrBytes m.entry (bytesOf 8 (if bit w 61 then w - 2 ^ 61 else w)))
  (((s.setMcause p m.obj c).refuse .migrateAbort).wakePage m.part m.obj m.page true false).startMigs

/-- The WORK words of lists that rest move with their page (R24). -/
def State.moveIdle (s : State) (src dst : Place) : State :=
  match src, dst with
  | .hbm a, .hbm b => { s with idleWork := s.idleWork.map (fun x => if x / 65536 = a / 65536 then b / 65536 * 65536 + x % 65536 else x) }
  | _, _ => s

/-- The copy of a migration ends (R301-R303): the entry is switched in one step, or the migration is abandoned. -/
def execMigrationCopyEnd (part obj page : Nat) (s : State) : Host.Outcome State Fault Refusal :=
  .next (match s.migrations.find? (fun m => m.started && m.part == part && m.obj == obj && m.page == page),
      SMap.find? s.parts part with
    | some m, some p =>
      match s.pageOf p obj page with
      | .error c => s.abortMig m p c
      | .ok (d, q) =>
        let src := (s.placeOf d q 0).1
        let dst := (s.placeOf d { alt := m.alt, frame := m.frame } 0).1
        if s.pageBusy part src then s
        else if s.placeLost src || s.placeLost dst then s.abortMig m p .moduleLost
        else if s.placeDown src || s.placeDown dst then s
        else if s.placeBad src 65536 then (s.poisonPage src).abortMig m p .uePoison
        else if s.placeFailed dst then s.abortMig m p .uePoison
        else
          let s := (s.copyPage p src dst).moveIdle src dst
          let s := (s.dropMig m).putEntry p d page (entryWord { alt := m.alt, frame := m.frame } false)
          let s := s.invalidate part (some obj) (some page)
          let s := match src.page with
            | some n => s.loseLines (span (512 * n) 512)
            | none => s
          ((s.answer).wakePage part obj page true false).startMigs
    | _, _ => s)

end Sys2Proof.Machine
end

