-- ==== Sys2Proof/Machine/Preempt.lean ====
section
/-! DEFINITION. Pre-emption (R411-R418): context areas, room for images, stops at safe points, saves, the watchdog,
resumption; halted groups (R84); and the slow clocks of logical time (R309, R311). -/
namespace Sys2Proof.Machine

/-! ## CTXSET, PREEMPT, RESUME (R411, R412) -/

/-- CTXSET (R411). -/
def execCtxset (v : Via) (part base size : Nat) (s : State) : Host.Outcome State Fault Refusal :=
  mailbox s v false (onUnlocked part (fun p s =>
    if base % 65536 ≠ 0 ∨ size % 65536 ≠ 0 ∨ hbmEnd < base + size ∨ p.ctxUsed ≠ 0 then s.refuse
    else (s.modPart part (fun p => { p with ctx := some (base, size) })).answer))

/-- The clusters of a subtree that are in some state, with their tasks. -/
def State.clustersUnder (s : State) (part : Nat) (r : Word) (st : ClusterState) : List (Nat × Cluster × Task) :=
  s.clusters.filterMap (fun e => match SMap.find? s.tasks e.2.tid with
    | some t => if e.2.st = st ∧ t.part = part ∧ s.underRcb t r then some (e.1, e.2, t) else none
    | none => none)
/-- The cluster is discarded and not saved at a pre-emption (R413). -/
def Task.discards (t : Task) : Bool := t.idem && t.eff.policy == 2

/-- Room for the images of some clusters: each in its die's shadow storage, or else in the context area (R412). `used`
are the bytes reserved by those before, by die, and `ctx` those in the area. -/
def State.reserveImages (s : State) (p : Part) : List (Nat × Cluster × Task) → SMap Nat → Nat →
    Option (List (Nat × (Option Nat × Nat)))
  | [], _, _ => some []
  | (cid, c, t) :: r, used, ctx =>
    let n := s.imageSize cid c t.scr
    if (s.die c.die).shadow + SMap.get 0 used c.die + n ≤ shadowSize then
      (s.reserveImages p r (SMap.upd 0 used c.die (· + n)) ctx).map ((cid, some c.die, n) :: ·)
    else if p.ctxUsed + ctx + n ≤ (p.ctx.map (·.2)).getD 0 then
      (s.reserveImages p r used (ctx + n)).map ((cid, none, n) :: ·)
    else none

/-- A subtree lies in one that is pre-empted. -/
def State.isPreempted (s : State) (p : Part) (r : Word) : Bool :=
  p.preempted.any (fun x => x == 0 || samePtr x r || (r != 0 && (s.chain p.num r).any (fun y => samePtr y x)))

/-- The holds of a subtree's reservations are dropped: nothing of it is admitted any more (R411). -/
def State.dropHoldsUnder (s : State) (part : Nat) (r : Word) : State :=
  s.clusters.foldl (fun s e => match e.2.hold, SMap.find? s.tasks e.2.tid with
    | some h, some t => if t.part = part ∧ s.underRcb t r then s.loseHolds h.lead else s
    | _, _ => s) s

/-- Some dies of a partition are pre-empted under an RCB: their host groups are held to R372's bound. -/
def State.holdHosts (s : State) (part : Nat) (rcb : Word) (dies : List Nat) : State :=
  let s := dies.foldl (fun s d => s.modDie d (fun x => { x with preempts := x.preempts ++ [(part, rcb)] })) s
  { s with groups := s.groups.map (fun e => (e.1, match e.2.host with
      | some h => if e.2.part == part && dies.contains h.die then
          { e.2 with host := some { h with heldSince := some (h.heldSince.getD s.cycle) } } else e.2
      | none => e.2)) }

/-- PREEMPT (R411-R413). A cluster that is discarded is not saved, though a switch-out (R292) may have begun its stop. -/
def execPreempt (v : Via) (part : Nat) (rcb : Word) (s : State) : Host.Outcome State Fault Refusal :=
  mailbox s v false (onPart part (fun p s =>
    let wait (s : State) : State :=
      (s.modPart part (fun p => { p with answers := p.answers ++ [(rcb, true)] })).answerPreempts part
    if s.isPreempted p rcb then wait s
    else
      let cs := s.clustersUnder part rcb .resident
      let ending := (cs ++ s.clustersUnder part rcb .stopping).filter (fun x => x.2.2.discards)
      match s.reserveImages p (cs.filter (fun x => !x.2.2.discards)) [] 0 with
      | none => s.refuse .budget
      | some imgs =>
        let s := s.holdHosts part rcb (cs.map (fun x => x.2.1.die)).eraseDups
        let s := (s.modPart part (fun p => { p with preempted := p.preempted ++ [rcb] })).dropHoldsUnder part rcb
        let s := ending.foldl (fun s x => s.restartCluster x.1 false) s
        let s := imgs.foldl (fun s x => s.stopCluster x.1 x.2 false) s
        wait s))

/-- RESUME (R411): a PREEMPT that has not been answered is answered first. -/
def execResume (v : Via) (part : Nat) (rcb : Word) (s : State) : Host.Outcome State Fault Refusal :=
  mailbox s v false (onPart part (fun p s =>
    if p.answers.any (fun x => x.1 == rcb || (x.1 != 0 && rcb != 0 && samePtr x.1 rcb)) then s.modPart part (fun p => { p with answers := p.answers ++ [(rcb, false)] })
    else (s.reopen part rcb).answer))

/-! ## Stops and saves (R413-R415) -/

/-- A path of a leaf slot stands at a safe point, or is parked (R413 step 2); padding before the instruction belongs to
none (R60). -/
def Group.pathStopped (g : Group) (k : Nat) : Bool :=
  match g.slot k with
  | none => true
  | some p => g.park.isSome || (match g.leafWord p with
      | .instr _ _ i => leafSafe i
      | _ => false)
/-- A group has stopped: its stem at a word boundary, its paths at safe points (R413). -/
def State.groupStopped (s : State) (gid : Nat) (g : Group) : Bool :=
  g.evicted || (g.wait != .keyDrop && (match s.cur with
    | some (.leaf n _ _) => n != gid
    | _ => true) && g.pathStopped 0 && g.pathStopped 1)

/-- The waits before a save (R413 step 4): fills, streams, non-temporal stores, engines, matrix work. -/
def State.waitsOver (s : State) (gid : Nat) (g : Group) : Bool :=
  s.saveReady gid g && !s.enginePosted gid && !s.matrixPosted gid
    && s.groves.all (fun e => e.2.tileOps.all (fun t => match t.2.2 with
      | .pass _ => true
      | .zmov _ n _ _ _ => n != gid
      | .zld n _ _ => n != gid))

/-- A group after its save: on no core; a word that waits is issued afresh when the group comes back (R78), one asleep reads
again (R415). -/
def Group.saved (g : Group) : Group :=
  { g with
    core := none, pendingSet := false, readySince := none, evicting := false, stuck := [], behind := []
    inRound := false, issued := false, stemIssued := false, blocked := false, tried := false, issueEnd := 0, nextAt := 0
    wait := match g.wait with
      | .grow n => if g.evicted then .grow n else .none
      | .sleep => .woken
      | .txbSleep _ _ => .woken
      | w => w }

/-- The window of a workgroup, as bytes by offset (R204, R415). -/
def State.windowImage (s : State) (w : Wg) : SMap Byte :=
  match w.core with
  | none => []
  | some c => (List.range (4096 * w.units.length)).foldl (fun m o =>
      SMap.set 0 m o (s.sramByte (coreGrove c * 2 ^ 22 + (w.units.getD (o / 4096) 0) * 4096 + o % 4096))) []

/-- The latest bts of the banks of a workgroup's units (R314). -/
def State.windowBts (s : State) (w : Wg) : Time :=
  match w.core with
  | none => 0
  | some c => latest (w.units.map (fun u => (s.bankOf (coreGrove c) (u / 64)).bts))

/-- A cluster is saved and leaves its cores (R413 step 5, R415, R207); an eviction that has begun goes on to its end
(R105). -/
def State.saveCluster (s : State) (cid : Nat) (c : Cluster) (part : Nat) : State :=
  let gs := (s.groupsIn cid).map (·.1)
  let cores := (c.wgs.filterMap (·.core)).eraseDups
  let s := gs.foldl (fun s g => match SMap.find? s.groups g with
    | none => s
    | some x => if x.evicted then s else if x.evicting then (s.flushBusy g).evict g else (s.flushBusy g).saveGroup g) s
  let t := latest (cores.map s.pts)
  let fifos := (List.range c.wgs.length).flatMap (fun w => (s.fifoBanks cid w).map (fun b =>
    ({ wg := w, bank := b.2.1, entries := b.2.2.entries, bts := b.2.2.bts } : FifoImage)))
  let banks := (List.range c.wgs.length).flatMap (fun w => (s.fifoBanks cid w).map (fun b => (b.1, b.2.1)))
  let wgs := c.wgs.map (fun w => { w with
    image := s.windowImage w, core := none, units := []
    savedPts := (w.core.map s.pts).getD 0, savedBts := s.windowBts w
    ranges := w.ranges.map (fun r => (r.1, { r.2 with data := [], scales := [], bad := [] })) })
  let s := banks.foldl (fun s b => s.modBank b.1 b.2 (fun x => { mode := .cache, bts := x.bts })) s
  let s := gs.foldl (fun s g => s.modGroup g Group.saved) s
  let s := cores.foldl (fun s k => s.clearGrowStuck k) s
  (s.modCluster cid (fun c => { c with
    st := .saved, wgs, fifos, savedPts := t, stopAt := none, parkedSince := none, refills := [] })).answerPreempts part

/-- A cluster that stops is saved once every group has stopped and the waits are over (R413). -/
def execClusterSave (cid : Nat) (s : State) : Host.Outcome State Fault Refusal :=
  .next (match SMap.find? s.clusters cid with
    | none => s
    | some c =>
      match SMap.find? s.tasks c.tid with
      | none => s
      | some t =>
        let gs := s.groupsIn cid
        if c.st = .stopping ∧ c.refills.isEmpty ∧ gs.all (fun e => s.groupStopped e.1 e.2 && s.waitsOver e.1 e.2) then
          s.saveCluster cid c t.part
        else s)

/-- The record of the watchdog for a group that has not stopped (R414). -/
def overrunRecord (t : Task) (c : Cluster) (g : Group) : FaultRecord :=
  let k := g.coreN
  let bad := [0, 1].find? (fun k => !g.pathStopped k)
  let p := bad.bind g.slot
  { origin := 5, action := 3, restarts := c.restarts, node := (t.node.map (·.2)).getD 0xFFFF, tdesc := t.desc,
    taskNo := t.no.toNat, cluster := c.idx, die := coreDie k, grove := coreGrove k % 24, core := k % 4, wg := g.wg,
    group := g.idx
    f := { code := .safepointOverrun, thread := ((p.map (·.mask)).bind firstThread).getD 0xFF,
           addr := (p.map (fun p => BitVec.ofNat 64 p.off)).getD g.pc } }

/-- The first group of a cluster, by workgroup and number, that has not stopped. -/
def State.unstopped (s : State) (cid : Nat) (c : Cluster) : Option (Nat × Group) :=
  ((List.range c.wgs.length).flatMap (fun w => s.wgGroups cid w)).find? (fun e => !s.groupStopped e.1 e.2)

/-- A cluster not stopped 2^20 cycles after the request is killed with its task (R414); held cycles do not count
(R443). -/
def execSafepointWatchdog (cid : Nat) (s : State) : Host.Outcome State Fault Refusal :=
  .next (match SMap.find? s.clusters cid with
    | none => s
    | some c =>
      match SMap.find? s.tasks c.tid, s.unstopped cid c with
      | some t, some (_, g) =>
        if c.st = .stopping ∧ (c.stopAt.map (fun a => decide (a + 2 ^ 20 ≤ s.liveCycles))).getD false then
          (s.taskRecord t (overrunRecord t c g) (s.pts g.coreN)).killTask c.tid 4
        else s
      | _, _ => s)

/-! ## Halted groups (R84) -/

/-- The halted group that a command names. -/
def State.haltedGroup (s : State) (n : GroupName) : Option (Nat × Group) :=
  (s.groupsOf (fun g => g.halted && g.host.isNone && s.nameOf g == n)).head?

/-- The resume command of a halted group (R84). -/
def execHaltedGroupResume (v : Via) (g : GroupName) (s : State) : Host.Outcome State Fault Refusal :=
  mailbox s v false (fun s => match s.haltedGroup g with
    | none => s.refuse
    | some e => (s.modGroup e.1 (fun g => { g with halted := false })).answer)

/-- The kill command of a halted group (R84): its cluster is killed (R275, R409), and its task completes no more. -/
def execHaltedGroupKill (v : Via) (g : GroupName) (s : State) : Host.Outcome State Fault Refusal :=
  mailbox s v false (fun s => match s.haltedGroup g with
    | none => s.refuse
    | some e =>
      match SMap.find? s.tasks e.2.tid with
      | none => s.refuse
      | some t =>
        let s := (s.killCluster e.2.cid).setTaskState t.part t.desc 5
        let s := { s with clusters := s.clusters.filter (fun x => !(x.2.tid == e.2.tid && !x.2.admitted)) }
        let s := (s.modTask e.2.tid (fun t => { t with dead := true, waiting := false })).unbindTags e.2.tid
        let s := if (s.clustersOf e.2.tid).isEmpty then s.dropTask e.2.tid else s
        (match t.node with
          | some (gn, i) => s.nodeFault gn i
          | none => s).answer)

/-! ## The slow clocks of logical time (R309, R311) -/

/-- A core's pts rises by one for every 256 cycles without a change (R309): what `State.pts` counts is written down. -/
def execPtsIdleAdvance (core : Nat) (s : State) : Host.Outcome State Fault Refusal :=
  .next (s.modCore core (fun x => { x with
    pts := s.pts core, ptsAt := x.ptsAt + (s.cycle - x.ptsAt) / 256 * 256 }))

/-- F: the largest pts of any core of the package (R311). -/
def State.frontier (s : State) : Time := latest ((List.range 384).map s.pts)
/-- A time lies more than 2^n behind F (R311). -/
def lags (f : Time) (n : Nat) (t : Time) : Bool := tle t f && decide (2 ^ n < (f - t).toNat)
/-- A time that lies more than 2^n behind F, brought up to F - 2^n (R311). -/
def lagFloor (f : Time) (n : Nat) (t : Time) : Time := if lags f n t then f - BitVec.ofNat 24 (2 ^ n) else t

/-- A line's timestamps kept near F (R311), with P and its holders' times. -/
def LineTs.near (f : Time) (x : LineTs) : LineTs :=
  let n := lagFloor f 22
  let x : LineTs := { x with priv := x.priv.map (fun p => (n p.1, p.2.map (fun h =>
    { h with wts := h.wts.map n, rts := h.rts.map n }))) }
  if lags f 22 x.rts then { x with wts := n x.rts, rts := n x.rts } else x

/-- Copies that have expired everywhere go: their line's lease lies more than 2^22 behind F (R311). -/
def liveCopies (f : Time) (m : SMap Copy) : SMap Copy := m.filter (fun e => !lags f 22 e.2.rts)

/-- Times that a grove keeps: its banks' bts (R314), its copies', and those of the engine operations, fills and passes
posted there (R313). -/
def Grove.near (f : Time) (g : Grove) : Grove :=
  let n := lagFloor f 22
  { g with
    banks := g.banks.map (fun b => (b.1, { b.2 with bts := n b.2.bts }))
    copies := liveCopies f g.copies
    qts := g.qts.map (fun e => (e.1, n e.2))
    queues := g.queues.map (fun q => (q.1, q.2.map (fun e => match e with
      | .op o => .op { o with ts := n o.ts }
      | .fence a b c d => .fence a b c d)))
    passes := g.passes.map (fun p => { p with ts := n p.ts })
    obFills := g.obFills.map (fun x => { x with ts := n x.ts }) }

/-- A bud's time kept near F (R313). -/
def nearBud (f : Time) (b : Bud) : Bud := { b with pts := lagFloor f 22 b.pts }
/-- Times that a group keeps: of its drained stores, of its barrier, of the buds that it serves (R313, R323, R424). -/
def Group.near (f : Time) (g : Group) : Group :=
  let n := lagFloor f 22
  { g with
    drainTs := g.drainTs.map n
    wait := match g.wait with
      | .bar t a => .bar t (n a)
      | .barDone t c a => .barDone t c (n a)
      | w => w
    host := g.host.map (fun h => { h with buds := h.buds.map (nearBud f) }) }

/-- Every comparison of times stays inside half the range (R311): cores that lag are raised to F - 2^21, and the
timestamps of lines, copies and banks, and every time that a party carries, to F - 2^22. -/
def State.nearTimes (s : State) : State :=
  let f := s.frontier
  let n := lagFloor f 22
  let s := (List.range 384).foldl (fun s c => s.setPts c (lagFloor f 21 (s.pts c))) s
  { s with
    lines := s.lines.map (fun e => (e.1, e.2.near f))
    lineFloor := n s.lineFloor
    cores := s.cores.map (fun e => (e.1, { e.2 with
      l1 := liveCopies f e.2.l1
      budq := e.2.budq.map (fun q => { q with out := { q.out with bud := nearBud f q.out.bud } }) }))
    groves := s.groves.map (fun e => (e.1, e.2.near f))
    dies := s.dies.map (fun e => (e.1, { e.2 with
      recvs := e.2.recvs.map (fun r => (r.1, { r.2 with
        queue := r.2.queue.map (nearBud f), taken := r.2.taken.map (nearBud f) })) }))
    tasks := s.tasks.map (fun e => (e.1, { e.2 with pts := n e.2.pts }))
    clusters := s.clusters.map (fun e => (e.1, { e.2 with
      savedPts := n e.2.savedPts
      fifos := e.2.fifos.map (fun x => { x with bts := n x.bts })
      wgs := e.2.wgs.map (fun w => { w with savedPts := n w.savedPts, savedBts := n w.savedBts }) }))
    groups := s.groups.map (fun e => (e.1, e.2.near f))
    graphs := s.graphs.map (fun e => (e.1, { e.2 with ts := n e.2.ts }))
    roots := s.roots.map (fun r => { r with ts := n r.ts })
    budsOut := s.budsOut.map (fun o => { o with bud := nearBud f o.bud })
    returns := s.returns.map (nearBud f) }

/-- Every 4,096 cycles the times are kept near F (R311). -/
def State.wrapAdjust (s : State) : State :=
  if s.cycle < s.crown.wrapAt + 4096 then s
  else s.nearTimes.modCrown (fun c => { c with wrapAt := s.cycle, windowTs := lagFloor s.frontier 22 c.windowTs })

/-- The wrap adjustment of R311. -/
def execTimestampWrapAdjust (s : State) : Host.Outcome State Fault Refusal := .next s.wrapAdjust

/-- `n` spans of 2^29 cycles pass, in each of which every pts rises by at most 2^21. -/
def State.passSpans : Nat → State → State
  | 0, s => s
  | n + 1, s => State.passSpans n ({ s with cycle := s.cycle + 2 ^ 29 } : State).wrapAdjust

/-- Cycles pass (R309): times are kept near F (R311), attempts of placement end (R191), and cores watch for a deadlock of
their `GROW`s (R105). -/
def State.pass (s : State) (dt : Nat) : State :=
  let s := if dt = 0 then s else s.watchGrows.retryRefills
  let s := State.passSpans (dt / 2 ^ 29) s
  ({ s with cycle := s.cycle + dt % 2 ^ 29 } : State).wrapAdjust.expireHolds

end Sys2Proof.Machine
end

