-- ==== Sys2Proof/Machine/Keys.lean ====
section
/-! DEFINITION. Key handles (R394-R397): `KLOAD` and `KDROP`. -/
namespace Sys2Proof.Machine

/-! ## KLOAD (R395, R396) -/

/-- 64 bytes of a blob, read as an ordinary load (R396): the bytes, or a wait for the group's own stores. -/
def State.loadHalf (s : State) (gid : Nat) (g : Group) (p : Part) (pl : Place) : Option (List Byte) × State :=
  match pl with
  | .hbm a =>
    let (bs, s) := s.coreRead p.keyId g.coreN g.lease .normal a 64
    (some bs, s)
  | pl =>
    if s.podHeld gid pl || s.ownStoresPend gid pl 64 then (none, s)
    else
      let (bs, s) := s.podRead p pl 64
      (some bs, s)

/-- The request of a load of n bytes of a blob, from an offset. -/
def blobReq (ptr : Word) (o n : Nat) : AccReq := { ptr, e := ptrOff ptr + o, n, align := 64, needR := true, kind := .read }

/-- The 128 bytes of a blob, with the checks of R396 steps 2 to 5; they may lie on two pages. -/
def State.loadBlob (s : State) (gid : Nat) (g : Group) (ptr : Word) (k : List Byte → State → StemRes) : StemRes :=
  match SMap.find? s.parts g.part, s.checkAccess g.coreN g (blobReq ptr 0 128) with
  | none, (_, s) => .fault s (g.fault .objInvalid ptr)
  | some p, (r, s) =>
    let early := match r with
      | .fault .uePoison => none
      | .fault c => some c
      | _ => none
    match early with
    | some c => .fault s (g.fault c ptr)
    | none =>
      match s.checkAccess g.coreN g (blobReq ptr 0 64) with
      | (.fault c, s) => .fault s (g.fault c ptr)
      | (.miss m, s) => .miss s m
      | (.ok a _ _, s) =>
        match s.checkAccess g.coreN g (blobReq ptr 64 64) with
        | (.fault c, s) => .fault s (g.fault c ptr)
        | (.miss m, s) => .miss s m
        | (.ok b _ _, s) =>
          match s.loadHalf gid g p a with
          | (none, s) => .wait s
          | (some x, s) => match s.loadHalf gid g p b with
            | (none, s) => .wait s
            | (some y, s) => k (x ++ y) s

/-- A blob's fields (R395). -/
structure Blob where
  sess : Nat
  seq : Nat
  tenant : Nat
  isSealed : Bool
  part : Nat
  handle : Nat
  deriving DecidableEq, Repr

/-- A blob whose reserved fields are zero and whose VERSION is 1 (R395). -/
def parseBlob (b : Nat) : Option Blob :=
  if bits b 8 24 != 0 || bits b 0 8 != 1 || bits b (8 * 0x10 + 17) 15 != 0 || bits b (8 * 0x10 + 12) 4 != 0
      || bits b (8 * 0x18) 64 != 0 || bits b (8 * 0x7C) 32 != 0 then none
  else some { sess := bits b 32 32, seq := bits b (8 * 8) 64, tenant := bits b (8 * 0x10 + 32) 32,
              isSealed := bit b (8 * 0x10 + 16), part := bits b (8 * 0x10 + 8) 4, handle := bits b (8 * 0x10) 8 }

/-- The key pair of a blob, if step 7 of R396 accepts it for a handle of a partition. -/
def State.openBlob (s : State) (p : Part) (h b : Nat) : Option (Blob × Handle) :=
  match parseBlob b with
  | none => none
  | some x =>
    match SMap.find? s.crown.sessions x.sess with
    | none => none
    | some n =>
      if !n.live || !(n.lastSeq.map (fun l => decide (l < x.seq))).getD true || x.handle != h || x.part != p.num
          || x.tenant != p.tenant.toNat then none
      else (unwrapKey n.secret (bytesOf 128 b)).map (fun k =>
        (x, { st := .installed, isSealed := x.isSealed, key1 := k.1, key2 := k.2 }))

/-- `KLOAD` (R396). -/
def execKload (b : BitVec 5) (s : State) : Host.Outcome State Fault Refusal :=
  runStem s (fun gid g s =>
    let h := (g.areg b.toNat).toNat
    let ptr := g.areg (b.toNat + 1)
    let n := (g.areg (b.toNat + 2)).toNat
    if !s.privileged g then .fault s (g.fault .priv)
    else if 256 ≤ h ∨ 16 ≤ n then .fault s (g.fault .keyInvalid)
    else if !s.afterRuns gid g then .wait s
    else s.loadBlob gid g ptr (fun bs s =>
      match SMap.find? s.parts n with
      | none => .fault s (g.fault .keyInvalid)
      | some p =>
        if (SMap.find? p.handles h).isSome then .fault s (g.fault .keyInvalid)
        else match s.openBlob p h (wordOf bs) with
          | none => .fault s (g.fault .keyInvalid)
          | some (x, k) =>
            let s := s.modCrown (fun c => { c with
              sessions := SMap.mod c.sessions x.sess (fun n => { n with lastSeq := some x.seq }) })
            .next (s.modPart n (fun p => { p with handles := SMap.put p.handles h k }))))

/-! ## KDROP (R397) -/

/-- A range whose record names a handle. -/
def Range.named (r : Range) (h : Nat) : Bool := r.keyh == some h

/-- Engine operations and fills of a partition that passed the key check of a handle stop, with `KEY_INVALID` (R397
step 2). -/
def State.stopKeyUsers (s : State) (part h : Nat) : State :=
  let fillOf (f : ObFill) : Bool :=
    ((SMap.find? s.groups f.gid).map (fun g => g.part == part)).getD false
      && (((s.wg? f.cid f.wg).bind (fun w => SMap.find? w.ranges f.ob)).map (fun r => r.named h)).getD false
  { s with groves := s.groves.map (fun e => (e.1, { e.2 with
      queues := e.2.queues.map (fun q => (q.1, q.2.map (fun x => match x with
        | .op o => if o.part == part && o.keys.contains h then
            .op { o with failed := some (o.failed.getD .keyInvalid), miss := none, pods := [] } else x
        | .fence _ _ _ _ => x)))
      obFills := e.2.obFills.map (fun f => if fillOf f then { f with failed := some (f.failed.getD .keyInvalid) } else f) })) }

/-- Ranges of a partition that name a handle become stale with no contents, resident or saved (R397 step 3). -/
def State.staleRanges (s : State) (part h : Nat) : State :=
  { s with clusters := s.clusters.map (fun e => (e.1,
      if ((SMap.find? s.tasks e.2.tid).map (fun t => t.part == part)).getD false then
        { e.2 with
          refills := e.2.refills.filter (fun x => !((((e.2.wg? x.1).bind (fun w => SMap.find? w.ranges x.2.1)).map
            (fun r => r.named h)).getD false))
          wgs := e.2.wgs.map (fun w => { w with ranges := w.ranges.map (fun r => (r.1,
            if r.2.named h then { r.2 with st := .stale, data := [], scales := [], bad := [] } else r.2)) }) }
      else e.2)) }

/-- Migration copies of a partition's objects under a handle are abandoned (R397 step 2, R302). -/
def State.stopKeyMigs (s : State) (part h : Nat) : State :=
  match SMap.find? s.parts part with
  | none => s
  | some p =>
    (s.migrations.filter (fun m => m.part == part && m.started && (match s.walkDesc p m.obj with
      | .ok d => d.lkey && d.keyh == h
      | .error _ => false))).foldl (fun s m => s.abortMig m p .keyInvalid) s

/-- An engine operation of a partition that passed the key check of a handle is still at work (R397 step 2): it has not
stopped, or a write that it sent is not acknowledged. -/
def State.keyBusy (s : State) (part h : Nat) : Bool :=
  s.groves.any (fun e => e.2.queues.any (fun q => q.2.any (fun x => match x with
    | .op o => o.part == part && o.keys.contains h && (o.failed.isNone || o.unacked s)
    | .fence _ _ _ _ => false)))

/-- A handle is erased and free (R397 steps 3 and 4). -/
def State.eraseHandle (s : State) (part h : Nat) : State :=
  (s.staleRanges part h).modPart part (fun q => { q with handles := SMap.erase q.handles h })
/-- A handle becomes dropping and what uses it stops (R397 steps 1 and 2). -/
def State.beginDrop (s : State) (part h : Nat) : State :=
  ((s.modPart part (fun q => { q with handles := SMap.mod q.handles h (fun k => { k with st := .dropping }) })).stopKeyUsers
    part h).stopKeyMigs part h

/-- `KDROP` (R397): it waits, at no safe point, until what used the key has stopped. -/
def execKdrop (p : BitVec 4) (h : BitVec 8) (s : State) : Host.Outcome State Fault Refusal :=
  runStem s (fun gid g s =>
    if !s.privileged g then .fault s (g.fault .priv)
    else match SMap.find? s.parts p.toNat with
      | none => .fault s (g.fault .keyInvalid)
      | some q => match SMap.find? q.handles h.toNat with
        | none => .next s
        | some k =>
          let s := if k.st = .installed then s.beginDrop p.toNat h.toNat else s
          if s.keyBusy p.toNat h.toNat then .wait (s.modGroup gid (fun g => { g with wait := .keyDrop }))
          else .next (s.eraseHandle p.toNat h.toNat))

end Sys2Proof.Machine
end

