-- ==== Sys2Proof/Machine/LaneConv.lean ====
section
/-! DEFINITION. The converters of the lanes: between floating formats, to and from integers, and block quantisation
(spec/08_number_formats.md R155-R161). -/
namespace Sys2Proof.Machine

/-- The shared form of `FCVT`, `F2I` and `I2F` (R155): n elements converted at position p, the others from the merge
source or zero. -/
def convOp (s : State) (o : LOp) (w : Leaf) (f : Ty → Nat → Nat → Nat × Flags) : Host.Outcome State Fault Refusal :=
  let st := (srcFormat o w.opx).getD w.ty
  let ws := Ty.width st
  let wd := Ty.width w.ty
  let n := 64 / Nat.max ws wd
  let p := convPos w * n
  laneOp s o w (fun _ a b _ _ dr =>
    let rs := (List.range (64 / wd)).map (fun i =>
      if wd < ws then (if p ≤ i ∧ i < p + n then f st (elemAt ws a (i - p)) (dr i) else (elemAt wd b i, 0))
      else f st (elemAt ws a (p + i)) (dr i))
    (packWord wd (rs.map (·.1)), rs.foldl (fun fl r => fl ||| r.2) 0))

/-- `FCVT` (R156). -/
def execFcvt (w : Leaf) (s : State) : Host.Outcome State Fault Refusal :=
  convOp s .fcvt w (fun st x dr =>
    let v := decodeF (fmtOf st) x
    let (y, fl) := roundF (fmtOf w.ty) w.rm w.sat dr v
    (y, fl ||| sigFlags [v]))

/-- A float as an integer of n bits, held in range (R157). -/
def toInteger (n : Nat) (sgn : Bool) (rm : RMode) (draw : Nat) (v : FVal) : Nat × Flags :=
  let (lo, hi) := rangeOf n sgn
  match v with
  | .nan _ => (0, flagNV)
  | .inf neg => (cut n (if neg then lo else hi), flagNV)
  | .fin neg m e =>
    let (k, exact) := roundAt rm neg m e 0 draw
    let r : Int := if neg then -(k : Int) else k
    if r < lo then (cut n lo, flagNV)
    else if hi < r then (cut n hi, flagNV)
    else (cut n r, if exact then 0 else flagNX)

/-- `F2I` (R157). -/
def execF2i (w : Leaf) (s : State) : Host.Outcome State Fault Refusal :=
  convOp s .f2i w (fun st x dr => toInteger (Ty.width w.ty) w.sgn w.rm dr (decodeF (fmtOf st) x))

/-- `I2F` (R158). -/
def execI2f (w : Leaf) (s : State) : Host.Outcome State Fault Refusal :=
  convOp s .i2f w (fun st x dr =>
    let v := valueOf (Ty.width st) w.sgn x
    roundF (fmtOf w.ty) w.rm w.sat dr (.fin (decide (v < 0)) v.natAbs 0))

/-! ## Block quantisation -/

/-- The value of a finite number scaled by a power of two. -/
def FVal.scale (k : Int) : FVal → FVal
  | .fin n m e => .fin n m (e + k)
  | v => v

/-- One PB element of w bits under an exponent pair (R160). -/
def quantOne (w : Nat) (rm : RMode) (e0 e1 draw : Nat) (v : FVal) : Nat × Flags :=
  if e0 = 255 ∨ e1 = 255 then (0, 0)
  else match v with
    | .nan _ => (0, flagNV)
    | .inf _ => (0, flagNV)
    | .fin neg m e =>
      let big := 2 ^ (w - 2) - 1
      let sh (x : Nat) : Int := 127 + ((w : Int) - 3) - x
      let sb := if neg then 2 ^ (w - 2) else 0
      let (y0, ex0) := roundAt rm neg m (e + sh e0) 0 draw
      if y0 ≤ big then (sb + y0, if ex0 then 0 else flagNX)
      else
        let (y1, ex1) := roundAt rm neg m (e + sh e1) 0 draw
        let y := Nat.min y1 big
        (2 ^ (w - 1) + sb + y, if ex1 && y == y1 then 0 else flagNX)

/-- `PBQ`, the quantising form (R160). -/
def execPbq (w : Leaf) (s : State) : Host.Outcome State Fault Refusal :=
  let st := (srcFormat .pbq w.opx).getD .f32
  let ws := Ty.width st
  let wp := Ty.width w.ty
  let n := pbCount (some st)
  let p := convPos w * n
  laneOp s .pbq w (fun _ a b c _ dr =>
    let rs := (List.range (pbCapacity w.ty)).map (fun i =>
      if p ≤ i ∧ i < p + n then
        quantOne wp w.rm (elemAt 8 b 0) (elemAt 8 b 1) (dr i) (decodeF (fmtOf st) (elemAt ws a (i - p)))
      else (elemAt wp c i, 0))
    (packWord wp (rs.map (·.1)), rs.foldl (fun fl r => fl ||| r.2) 0))

/-- The exponent floor(log2 |v|) + 127 held within 0 to 254; none for zero (R159). -/
def pbExponent : FVal → Option Nat
  | .fin _ m e => if m = 0 then none else some (Nat.min ((bitLen m : Int) - 1 + e + 127).toNat 254)
  | _ => none

/-- The exponent pair of a block (R159): E1 and NV. -/
def pbScaleExp (vals : List FVal) (running : Option Nat) : Nat × Flags :=
  let done := match running with
    | some c => c % 256 == 255 || c / 256 % 256 == 255
    | none => false
  if done then (255, 0)
  else if vals.any (fun v => match v with
      | .fin _ _ _ => false
      | _ => true) then (255, flagNV)
  else
    let e1 := (vals.filterMap pbExponent).foldl Nat.max 0
    (Nat.max e1 ((running.map (fun c => c / 256 % 256)).getD 0), 0)

/-- `PBQ`, the scale form (R159). -/
def execPbqScale (w : Leaf) (s : State) : Host.Outcome State Fault Refusal :=
  let st := (srcFormat .pbqScale w.opx).getD .f32
  let ws := Ty.width st
  let n := pbCount (some st)
  laneOp s .pbqScale w (fun _ a b c _ _ =>
    let of (x : Word) : List FVal := (List.range n).map (fun i => decodeF (fmtOf st) (elemAt ws x i))
    let (e1, fl) := pbScaleExp (of a ++ if w.s2 = .none then [] else of b) (if w.s3 = .none then none else some c.toNat)
    let e0 := if e1 = 255 then 255 else e1 - (Ty.width w.ty - 2)
    (BitVec.ofNat 64 (256 * e1 + e0), fl))

/-- `PBDQ` (R161). -/
def execPbdq (w : Leaf) (s : State) : Host.Outcome State Fault Refusal :=
  let dt := (srcFormat .pbdq w.opx).getD .f32
  let wd := Ty.width dt
  let wp := Ty.width w.ty
  let n := pbCount (some dt)
  let p := convPos w * n
  laneOp s .pbdq w (fun _ a b _ _ dr =>
    let rs := (List.range n).map (fun j =>
      let el := elemAt wp a (p + j)
      let e0 := elemAt 8 b 0
      let e1 := elemAt 8 b 1
      if e0 = 255 ∨ e1 = 255 then ((fmtOf dt).canon, 0)
      else
        let e := if el / 2 ^ (wp - 1) % 2 = 1 then e1 else e0
        roundF (fmtOf dt) w.rm w.sat (dr j)
          (.fin (el / 2 ^ (wp - 2) % 2 == 1) (el % 2 ^ (wp - 2)) ((e : Int) - 127 - ((wp : Int) - 3))))
    (packWord wd (rs.map (·.1)), rs.foldl (fun fl r => fl ||| r.2) 0))

end Sys2Proof.Machine
end

