-- ==== Sys2Proof/Machine/LaneCross.lean ====
section
/-! DEFINITION. The neighbour chain and the cross-lane instructions (spec/09_neighbour_chain.md R164-R184). -/
namespace Sys2Proof.Machine

/-! ## The neighbour chain (R164-R168) -/

/-- A thread's neighbour: in the same group, in another group of the chain, or none at a chain end (R164). -/
inductive Nbr where
  | here (t : Nat)
  | far (wg idx t : Nat)
  | edge
  deriving DecidableEq, Repr

/-- The neighbour of thread t, to the right or to the left (R164). A host group is a chain of its own (R364). -/
def State.neighbour (s : State) (g : Group) (right : Bool) (t : Nat) : Nbr :=
  let k := if g.host.isSome then none else s.taskOf g
  let last := (k.map (·.ngm1)).getD 0
  let chain := (k.map (·.chain)).getD false
  if right then
    if t < 31 then .here (t + 1)
    else if g.idx < last then .far g.wg (g.idx + 1) 0
    else if chain && decide (g.wg + 1 < (k.map (fun k => shapeWgs k.shape)).getD 0) then .far (g.wg + 1) 0 0
    else .edge
  else if 0 < t then .here (t - 1)
  else if 0 < g.idx ∧ k.isSome then .far g.wg (g.idx - 1) 31
  else if chain && decide (0 < g.wg) then .far (g.wg - 1) last 31
  else .edge

/-- A request of a thread at a FIFO bank has no place in the sequential order yet, and its register was written after it:
who reads the register follows the request (R168, R217). -/
def State.fifoBefore (s : State) (gid : Nat) (u : Group) (t reg : Nat) : Bool :=
  s.groves.any (fun e => e.2.banks.any (fun b => (b.2.pushq ++ b.2.popq).any (fun q =>
    q.gid == gid && q.ts.contains t && SMap.get {} q.seen (laneKey reg t) != u.lreg reg t)))

/-- What a chain read of register `reg` of a thread of another group of the cluster finds (R165-R168); nothing while it
waits. DESIGN CHOICE (log entry 74): a read that begins after its supplier has ended finds no register. -/
def State.chainRes (s : State) (g : Group) (wg idx t reg : Nat) : Option ChainGot :=
  match (s.groupsIn g.cid).find? (fun e => e.2.wg == wg && e.2.idx == idx) with
  | none => some (.mark .brk)
  | some (i, u) =>
    if u.core.isNone || u.evicted || u.halted then none
    else if 8 * u.chunks ≤ reg then some (.mark .brk)
    else if u.isEmpty reg t || s.fifoBefore i u t reg then none
    else some (s.chainGot u t reg)

/-! ## The form of the instructions (R170-R172) -/

/-- The supplier registers of the reading threads (R171): none while one is to be waited for, else the threads that go on
and the faults of the others. -/
def supply (g : Group) (n : Nat) (trap : Bool) (sup : Nat → List Nat) (ts : List Nat) : Option (List Nat × List TFault) :=
  if !trap && ts.any (fun t => (sup t).any (g.isEmpty n)) then none
  else
    let bad (t : Nat) : Option TFault := (sup t).findSome? (fun u =>
      if g.isEmpty n u then some { thread := t, code := .feEmpty } else (g.lreg n u).mark.map (markFault t n))
    some (ts.filter (fun t => (bad t).isNone), ts.filterMap bad)

/-- A cross-lane instruction of some slots: its own sources `own`, the operands that must resolve, the check of its
uniform operands, the suppliers of register s1, the registers it must wait to write, and its effect on the threads that
take part. -/
structure Cross where
  slots : Nat
  own : List Src
  ops : List Opnd
  chk : Group → Run → List Nat → Bool := fun _ _ _ => true
  sup : Group → Run → List Nat → Nat → List Nat := fun _ _ _ _ => []
  busy : Group → Run → List Nat → Bool

/-- A cross-lane instruction issues and executes (R112, R170-R172). DEDUCED (log entry 87): `NONUNIFORM` is found before
the wait for the supplier's register, and waits for the destination. -/
def crossOp (s : State) (w : Leaf) (k : Cross) (f : LCtx → Group → Run → List Nat → State → State) :
    Host.Outcome State Fault Refusal :=
  runLeaf s w.ctl (fun c g r s =>
    if c.takers = 0 then .done s k.slots []
    else match readable g r c.takers k.own k.ops with
      | none => .wait
      | some (ts, fs) =>
        if !k.chk g r ts then if k.busy g r ts then .wait else .done s k.slots (fs ++ allFault ts .nonuniform)
        else match supply g (regOf g r 0 w.s1) (w.em.getLsbD 0) (k.sup g r ts) ts with
          | none => .wait
          | some (ts, fs') =>
            if k.busy g r ts then .wait else .done (f c g r ts s) k.slots (fs ++ fs'))

/-- Some thread's destination is to be filled (R112 step 4). -/
def destBusy (w : Leaf) (g : Group) (r : Run) (ts : List Nat) : Bool := ts.any (fun t => dstWaits g r t [w.d])
/-- The sources with their empty modes: those of the numbers given that are there. -/
def srcList (w : Leaf) (ns : List Nat) : List Src :=
  (ns.map (fun n => match n with
    | 1 => (w.s1, w.em.getLsbD 0)
    | 2 => (w.s2, w.em.getLsbD 1)
    | _ => (w.s3, w.em.getLsbD 2))).filter (fun x => x.1 != .none)
/-- Results written to the destination. -/
def writeAll (g r0 : Group) (r : Run) (d : Opnd) (xs : List (Nat × Word)) : Group :=
  xs.foldl (fun (g1 : Group) x => g1.writeDest r0 r d x.1 x.2) g

/-! ## NBR (R174) -/

/-- `NBR` (R174). -/
def nbrOp (s : State) (o : LOp) (w : Leaf) (right : Bool) : Host.Outcome State Fault Refusal :=
  crossOp s w
    { slots := 1, own := srcList w [2], ops := [w.s1, w.d]
      chk := fun g r ts => uniform ts (fun t => (argB o w g r t).toNat)
      sup := fun g _ _ t => match s.neighbour g right t with
        | .here u => [u]
        | _ => []
      busy := destBusy w }
    (fun c g r ts s =>
      let n := regOf g r 0 w.s1
      s.putGroup c.gid (ts.foldl (fun (g1 : Group) t => match s.neighbour g right t with
        | .here u => g1.writeDest g r w.d t (g.lreg n u).val
        | .far wg idx u => g1.pendLane (regOf g r t w.d) t (.chainRead wg idx u n)
        | .edge => g1.writeDest g r w.d t (argB o w g r t)) g))
/-- `NBR.left` (R174). -/
def execNbrLeft (w : Leaf) (s : State) : Host.Outcome State Fault Refusal := nbrOp s .nbrLeft w false
/-- `NBR.right` (R174). -/
def execNbrRight (w : Leaf) (s : State) : Host.Outcome State Fault Refusal := nbrOp s .nbrRight w true

/-! ## SHFL, XPUT and BCST (R175-R178) -/

/-- The thread and the sub-element that selector byte i of thread t names (R175). -/
def selector (w : Leaf) (b : Word) (t i : Nat) : Nat × Nat :=
  let x := elemAt 8 b i
  (if w.opx.getLsbD 0 then t ^^^ (x % 32) else x % 32, x / 32 % (64 / Ty.width w.ty))

/-- `SHFL` (R176). -/
def execShfl (w : Leaf) (s : State) : Host.Outcome State Fault Refusal :=
  let n := Ty.width w.ty
  let sels (g : Group) (r : Run) (t : Nat) : List (Nat × Nat) :=
    (List.range (64 / n)).map (selector w (argB .shfl w g r t) t)
  crossOp s w
    { slots := 2, own := srcList w [2], ops := [w.s1, w.d], busy := destBusy w
      sup := fun g r _ t => (sels g r t).map (·.1) }
    (fun c g r ts s =>
      let k := regOf g r 0 w.s1
      s.putGroup c.gid (writeAll g g r w.d (ts.map (fun t =>
        (t, packWord n ((sels g r t).map (fun x => elemAt n (g.lreg k x.1).val x.2)))))))

/-- The pushes of `XPUT` in their order: source thread and sub-element, destination thread and sub-element, value
(R177). -/
def pushes (w : Leaf) (g : Group) (r : Run) (ts : List Nat) : List (Nat × (Nat × Nat) × Nat) :=
  let n := Ty.width w.ty
  ts.flatMap (fun t => (List.range (64 / n)).map (fun i =>
    (t, selector w (argB .xput w g r t) t i, elemAt n (argA .xput w g r t) i)))

/-- Sources of the pushes that a later push overwrites (R177). -/
def lostOf : List (Nat × (Nat × Nat) × Nat) → List Nat
  | [] => []
  | x :: r => if r.any (fun y => y.2.1 == x.2.1) then x.1 :: lostOf r else lostOf r

/-- `XPUT` (R177). -/
def execXput (w : Leaf) (s : State) : Host.Outcome State Fault Refusal :=
  let n := Ty.width w.ty
  let hit (g : Group) (r : Run) (ts : List Nat) : List Nat :=
    allThreads.filter (fun u => (pushes w g r ts).any (fun x => x.2.1.1 == u))
  crossOp s w
    { slots := 2, own := srcList w [1, 2], ops := [w.d]
      busy := fun g r ts => (hit g r ts).any (fun u => (g.lreg (regOf g r 0 w.d) u).fe == .pending) }
    (fun c g r ts s =>
      let ps := pushes w g r ts
      let k := regOf g r 0 w.d
      let g1 := (hit g r ts).foldl (fun (g1 : Group) u =>
        g1.writeLane k u (packWord n ((List.range (64 / n)).map (fun j =>
          (((ps.filter (fun x => x.2.1 == (u, j))).getLast?).map (·.2.2)).getD (elemAt n (g.lreg k u).val j))))) g
      let g2 := match w.s3 with
        | .pred p => ts.foldl (fun (g2 : Group) t => g2.setP p.toNat t ((lostOf ps).contains t)) g1
        | _ => g1
      s.putGroup c.gid g2)

/-- Thread and sub-element that `BCST` reads (R178). -/
def bcstIndex (w : Leaf) (g : Group) (r : Run) (t : Nat) : Nat × Nat :=
  match w.imm with
  | some i => (i.toNat % 32, i.toNat / 32 % 8 % (64 / Ty.width w.ty))
  | none => ((argB .bcst w g r t).toNat % 32, (argC .bcst w g r t).toNat % 8 % (64 / Ty.width w.ty))

/-- `BCST` (R178). -/
def execBcst (w : Leaf) (s : State) : Host.Outcome State Fault Refusal :=
  let n := Ty.width w.ty
  crossOp s w
    { slots := 2, own := srcList w [2, 3], ops := [w.s1, w.d], busy := destBusy w
      chk := fun g r ts => w.imm.isSome || (uniform ts (fun t => (argB .bcst w g r t).toNat % 32)
        && uniform ts (fun t => (argC .bcst w g r t).toNat % 8))
      sup := fun g r _ t => [(bcstIndex w g r t).1] }
    (fun c g r ts s =>
      let k := regOf g r 0 w.s1
      s.putGroup c.gid (writeAll g g r w.d (ts.map (fun t =>
        let (u, i) := bcstIndex w g r t
        (t, splat n (elemAt n (g.lreg k u).val i))))))

/-! ## SCAN and RED (R179-R182) -/

/-- A step of a fold on one sub-element (R179): operations 0 to 5 are add, min, max, and, or, xor. -/
def foldElem (op : Nat) (ty : Ty) (sgn : Bool) (rm : RMode) (run x : Nat) : Nat × Flags :=
  let n := Ty.width ty
  if Ty.isInt ty then
    (match op with
      | 0 => (run + x) % 2 ^ n
      | 1 => if valueOf n sgn x < valueOf n sgn run then x else run
      | 2 => if valueOf n sgn run < valueOf n sgn x then x else run
      | 3 => run &&& x
      | 4 => run ||| x
      | _ => run ^^^ x, 0)
  else match op with
    | 1 => minMaxF (fmtOf ty) false run x
    | 2 => minMaxF (fmtOf ty) true run x
    | _ =>
      let vs := [decodeF (fmtOf ty) run, decodeF (fmtOf ty) x]
      let (v, f) := sumF rm vs
      let (y, h) := roundF (fmtOf ty) rm false 0 v
      (y, f ||| h ||| sigFlags vs)
/-- A step of a fold on every sub-element. -/
def foldWord (op : Nat) (ty : Ty) (sgn : Bool) (rm : RMode) (run x : Word) : Word × Flags :=
  let n := Ty.width ty
  let rs := (List.range (64 / n)).map (fun i => foldElem op ty sgn rm (elemAt n run i) (elemAt n x i))
  (packWord n (rs.map (·.1)), rs.foldl (fun fl r => fl ||| r.2) 0)
/-- The identity of a fold (R179). -/
def foldId (op : Nat) (ty : Ty) (sgn : Bool) : Word :=
  let n := Ty.width ty
  let (lo, hi) := rangeOf n sgn
  splat n (match Ty.isInt ty, op with
    | true, 1 => cut n hi
    | true, 2 => cut n lo
    | true, 3 => 2 ^ n - 1
    | true, _ => 0
    | false, 1 => infBits (fmtOf ty) false
    | false, 2 => infBits (fmtOf ty) true
    | false, _ => signBit (fmtOf ty) true)

/-- A fold over values in thread order: each thread's prefix, the final value, the flags (R180). -/
def foldAll (step : Word → Word → Word × Flags) (excl : Bool) : Word → Flags → List (Nat × Word) →
    List (Nat × Word) × Word × Flags
  | run, fl, [] => ([], run, fl)
  | run, fl, (t, x) :: r =>
    let (y, f) := step run x
    let (os, z, fs) := foldAll step excl y (fl ||| f) r
    ((t, if excl then run else y) :: os, z, fs)

/-- The instruction has an initial value (R179). -/
def hasInit (w : Leaf) : Bool := w.imm.isSome || w.s2 != .none
/-- The initial value that the first taking thread's s2 gives, or the identity (R179); where every taking thread has dropped
out by a fault, thread 0's s2 (DESIGN CHOICE, log entry 120). -/
def foldInit (o : LOp) (w : Leaf) (op : Nat) (g : Group) (r : Run) (ts : List Nat) : Word :=
  if hasInit w then argB o w g r (ts.headD 0) else foldId op w.ty w.sgn
/-- The initial value is the same for every thread (R172). -/
def initUniform (o : LOp) (w : Leaf) (g : Group) (r : Run) (ts : List Nat) : Bool :=
  uniform ts (fun t => (argB o w g r t).toNat)

/-- `SCAN` without chain (R180). -/
def scanOp (s : State) (o : LOp) (w : Leaf) (op : Nat) : Host.Outcome State Fault Refusal :=
  crossOp s w { slots := 1, own := srcList w [1, 2], ops := [w.d], chk := initUniform o w, busy := destBusy w }
    (fun c g r ts s =>
      let (os, _, fl) := foldAll (foldWord op w.ty w.sgn w.rm) (w.opx.getLsbD 3) (foldInit o w op g r ts) 0
        (ts.map (fun t => (t, argA o w g r t)))
      s.putGroup c.gid ((writeAll g g r w.d os).raise fl))
/-- `SCAN.add` (R180). -/
def execScanAdd (w : Leaf) (s : State) : Host.Outcome State Fault Refusal := scanOp s .scanAdd w 0
/-- `SCAN.min` (R180). -/
def execScanMin (w : Leaf) (s : State) : Host.Outcome State Fault Refusal := scanOp s .scanMin w 1
/-- `SCAN.max` (R180). -/
def execScanMax (w : Leaf) (s : State) : Host.Outcome State Fault Refusal := scanOp s .scanMax w 2
/-- `SCAN.and` (R180). -/
def execScanAnd (w : Leaf) (s : State) : Host.Outcome State Fault Refusal := scanOp s .scanAnd w 3
/-- `SCAN.or` (R180). -/
def execScanOr (w : Leaf) (s : State) : Host.Outcome State Fault Refusal := scanOp s .scanOr w 4
/-- `SCAN.xor` (R180). -/
def execScanXor (w : Leaf) (s : State) : Host.Outcome State Fault Refusal := scanOp s .scanXor w 5

/-- The results of a chained scan, once its running value is known: each taking thread's prefix, and the carry in thread
31 (R181). -/
def scanOuts (q : ScanWait) (run : Word) : List (Nat × Word) × Flags :=
  let (os, z, fl) := foldAll (foldWord q.op q.ty q.sgn q.rm) false run 0 ((threadsOf q.takers).zip q.vals)
  (os.filter (fun o => o.1 != 31) ++ [(31, z)], fl)
/-- The threads whose register a chained scan fills (R181). -/
def ScanWait.targets (q : ScanWait) : List Nat := (threadsOf q.takers).filter (· != 31) ++ [31]

/-- A chained scan goes on from its running value: the fills have their values (R181). -/
def Group.scanGo (g : Group) (q : ScanWait) (run : Word) : Group :=
  let (os, fl) := scanOuts q run
  ({ os.foldl (fun (g1 : Group) (o : Nat × Word) => g1.pendLane q.reg o.1 (.value o.2)) g with
    scans := g.scans.filter (fun x => x.key != q.key) }).raise fl

/-- `SCAN.chain` (R181). Thread 31's d receives the carry also where every taking thread has dropped out by a fault of its
own source; a d beyond the allotment names no register, and the instruction then only faults. DESIGN CHOICE (log
entry 74). -/
def execScanChain (w : Leaf) (s : State) : Host.Outcome State Fault Refusal :=
  let op := w.opx.toNat % 8
  let left (g : Group) : Nbr := s.neighbour g false 0
  let own (g : Group) : List Src := srcList w (if left g = .edge then [1, 2] else [1])
  runLeaf s w.ctl (fun c g r s =>
    if c.takers = 0 then .done s 1 []
    else match readable g r c.takers (own g) [w.d] with
      | none => .wait
      | some (ts, fs) =>
        let n := regOf g r 0 w.d
        if (resolveReg g r 0 w.d).toBool = false then .done s 1 fs
        else if destBusy w g r ts || (g.lreg n 31).fe == .pending then .wait
        else if left g = .edge && !initUniform .scanChain w g r ts then .done s 1 (fs ++ allFault ts .nonuniform)
        else
          let (key, s) := s.newId
          let q (wg idx : Nat) : ScanWait :=
            { key, leftWg := wg, leftGroup := idx, reg := n, ty := w.ty, op, sgn := w.sgn, rm := w.rm,
              takers := maskOf ts, vals := ts.map (argA .scanChain w g r) }
          match left g with
          | .far wg idx _ =>
            let g1 := (q wg idx).targets.foldl (fun (g1 : Group) t => g1.pendLane n t (.scanCarry key)) g
            .done (s.putGroup c.gid { g1 with scans := g1.scans ++ [q wg idx] }) 1 fs
          | _ => .done (s.putGroup c.gid (g.scanGo (q 0 0) (foldInit .scanChain w op g r ts))) 1 fs)

/-- `RED` (R182). -/
def redOp (s : State) (o : LOp) (w : Leaf) (op : Nat) : Host.Outcome State Fault Refusal :=
  crossOp s w { slots := 2, own := srcList w [1, 2], ops := [w.d], chk := initUniform o w, busy := destBusy w }
    (fun c g r ts s =>
      let (_, z, fl) := foldAll (foldWord op w.ty w.sgn w.rm) false (foldInit o w op g r ts) 0
        (ts.map (fun t => (t, argA o w g r t)))
      s.putGroup c.gid ((writeAll g g r w.d (ts.map (fun t => (t, z)))).raise fl))
/-- `RED.add` (R182). -/
def execRedAdd (w : Leaf) (s : State) : Host.Outcome State Fault Refusal := redOp s .redAdd w 0
/-- `RED.min` (R182). -/
def execRedMin (w : Leaf) (s : State) : Host.Outcome State Fault Refusal := redOp s .redMin w 1
/-- `RED.max` (R182). -/
def execRedMax (w : Leaf) (s : State) : Host.Outcome State Fault Refusal := redOp s .redMax w 2
/-- `RED.and` (R182). -/
def execRedAnd (w : Leaf) (s : State) : Host.Outcome State Fault Refusal := redOp s .redAnd w 3
/-- `RED.or` (R182). -/
def execRedOr (w : Leaf) (s : State) : Host.Outcome State Fault Refusal := redOp s .redOr w 4
/-- `RED.xor` (R182). -/
def execRedXor (w : Leaf) (s : State) : Host.Outcome State Fault Refusal := redOp s .redXor w 5

/-! ## VOTEL and MATCH (R183, R184) -/

/-- `VOTEL`: the taking threads' mask and those of them in which the predicate is true (R183). -/
def votelOp (s : State) (w : Leaf) (f : Mask → Mask → Word) : Host.Outcome State Fault Refusal :=
  crossOp s w { slots := 2, own := srcList w [1], ops := [w.d], busy := destBusy w } (fun c g r ts s =>
    let m := maskOf ts
    let p := match w.s1 with
      | .pred p => g.preg p.toNat
      | _ => 0
    s.putGroup c.gid (writeAll g g r w.d (ts.map (fun t => (t, f m (m &&& p))))))
/-- `VOTEL.any` (R183). -/
def execVotelAny (w : Leaf) (s : State) : Host.Outcome State Fault Refusal :=
  votelOp s w (fun _ x => if x = 0 then 0 else 1)
/-- `VOTEL.all` (R183). -/
def execVotelAll (w : Leaf) (s : State) : Host.Outcome State Fault Refusal :=
  votelOp s w (fun m x => if x = m then 1 else 0)
/-- `VOTEL.uniform` (R183). -/
def execVotelUniform (w : Leaf) (s : State) : Host.Outcome State Fault Refusal :=
  votelOp s w (fun m x => if x = m ∨ x = 0 then 1 else 0)
/-- `VOTEL.ballot` (R183). -/
def execVotelBallot (w : Leaf) (s : State) : Host.Outcome State Fault Refusal :=
  votelOp s w (fun _ x => x.setWidth 64)

/-- `MATCH` (R184). -/
def execMatchT (w : Leaf) (s : State) : Host.Outcome State Fault Refusal :=
  crossOp s w { slots := 2, own := srcList w [1], ops := [w.d], busy := destBusy w } (fun c g r ts s =>
    let v (t : Nat) : Nat :=
      let x := argA .matchT w g r t
      if w.ty = .b64 then x.toNat else elemAt 32 x w.sel.toNat
    s.putGroup c.gid (writeAll g g r w.d (ts.map (fun t =>
      (t, (maskOf (ts.filter (fun u => v u == v t))).setWidth 64)))))

/-! ## Chain reads that complete -/

/-- A chained scan whose carry has come (R181). -/
def State.scanArrive (s : State) (gid : Nat) (q : ScanWait) : ChainGot → State
  | .mark m => s.modGroup gid (fun g =>
      { q.targets.foldl (fun (g1 : Group) t => g1.fillLane q.reg t (.error m)) g with
        scans := g.scans.filter (fun x => x.key != q.key) })
  | .value ts w =>
    let s := s.modGroup gid (fun g => g.scanGo q w)
    match SMap.find? s.groups gid with
    | some g => s.raisePts g.coreN ts
    | none => s
/-- A chain read that has its value or its mark fills its destination, and its reader's later accesses follow (R165, R166,
R168). -/
def State.chainArrive (s : State) (gid : Nat) (g : Group) (reg thread : Nat) : ChainGot → State
  | .mark m => s.modGroup gid (fun g => g.fillLane reg thread (.error m))
  | .value ts w => (s.modGroup gid (fun g => g.fillLane reg thread (.ok w))).raisePts g.coreN ts

/-- A chain read whose supplier register is ready fills its destination (R165, R166, R168, R181). -/
def execChainReadFill (gid reg thread : Nat) (s : State) : Host.Outcome State Fault Refusal :=
  .next (match SMap.find? s.groups gid with
    | none => s
    | some g =>
      if g.core.isNone || g.evicted then s
      else match (g.fills.find? (fun f => f.reg == reg && f.thread == thread)).map Fill.src with
        | some (.chainRead wg idx t n) =>
          match s.chainRes g wg idx t n with
          | none => s
          | some x => s.chainArrive gid g reg thread x
        | some (.chainGot x) => s.chainArrive gid g reg thread x
        | some (.scanCarry key) =>
          match g.scans.find? (fun q => q.key == key) with
          | none => s
          | some q =>
            match q.got.or (s.chainRes g q.leftWg q.leftGroup 31 q.reg) with
            | none => s
            | some x => s.scanArrive gid q x
        | _ => s)

end Sys2Proof.Machine
end

