-- ==== Sys2Proof/Machine/LaneFloat.lean ====
section
/-! DEFINITION. The floating instructions of the lanes (spec/07_lane_arithmetic.md R127-R134). -/
namespace Sys2Proof.Machine

/-- Sum of exact values rounded once, with the flags of its inputs and of the rounding (R129, R134). -/
def roundSum (t : Ty) (rm : RMode) (draw : Nat) (vs : List FVal) (fl : Flags) : Nat × Flags :=
  let (v, f) := sumF rm vs
  let (x, g) := roundF (fmtOf t) rm false draw v
  (x, fl ||| f ||| g)

/-- The value of a pattern of a type. -/
def fval (t : Ty) (x : Nat) : FVal := decodeF (fmtOf t) x

/-- One exact result rounded, with the flags of its inputs (R129). -/
def roundOne (t : Ty) (rm : RMode) (draw : Nat) (r : FVal × Flags) (ins : List FVal) : Nat × Flags :=
  let (x, g) := roundF (fmtOf t) rm false draw r.1
  (x, r.2 ||| sigFlags ins ||| g)

/-- `FADD` (R129). -/
def execFadd (w : Leaf) (s : State) : Host.Outcome State Fault Refusal :=
  floatOp s .fadd w (fun a b _ dr =>
    let (x, y) := (fval w.ty a, fval w.ty b)
    roundSum w.ty w.rm dr [x, y] (sigFlags [x, y]))
/-- `FSUB` (R129). -/
def execFsub (w : Leaf) (s : State) : Host.Outcome State Fault Refusal :=
  floatOp s .fsub w (fun a b _ dr =>
    let (x, y) := (fval w.ty a, fval w.ty b)
    roundSum w.ty w.rm dr [x, y.negate] (sigFlags [x, y]))
/-- `FMUL` (R129). -/
def execFmul (w : Leaf) (s : State) : Host.Outcome State Fault Refusal :=
  floatOp s .fmul w (fun a b _ dr =>
    let (x, y) := (fval w.ty a, fval w.ty b)
    roundOne w.ty w.rm dr (mulF x y) [x, y])
/-- `FFMA` (R129). -/
def execFfma (w : Leaf) (s : State) : Host.Outcome State Fault Refusal :=
  floatOp s .ffma w (fun a b c dr =>
    let (x, y, z) := (fval w.ty a, fval w.ty b, fval w.ty c)
    let (p, f) := mulF x y
    roundSum w.ty w.rm dr [p, z] (f ||| sigFlags [x, y, z]))
/-- `FMIN` (R130). -/
def execFmin (w : Leaf) (s : State) : Host.Outcome State Fault Refusal :=
  floatOp s .fmin w (fun a b _ _ => minMaxF (fmtOf w.ty) false a b)
/-- `FMAX` (R130). -/
def execFmax (w : Leaf) (s : State) : Host.Outcome State Fault Refusal :=
  floatOp s .fmax w (fun a b _ _ => minMaxF (fmtOf w.ty) true a b)
/-- `FCMP` (R131). -/
def execFcmp (w : Leaf) (s : State) : Host.Outcome State Fault Refusal :=
  laneOp s .fcmp w (fun _ a b _ _ _ =>
    let n := Ty.width w.ty
    let rs := (List.range (64 / n)).map (fun i => cmpF w.cond.toNat (fval w.ty (elemAt n a i)) (fval w.ty (elemAt n b i)))
    (compareResult w (rs.map (·.1)), rs.foldl (fun fl r => fl ||| r.2) 0))
/-- `FCLASS` (R132). -/
def execFclass (w : Leaf) (s : State) : Host.Outcome State Fault Refusal :=
  floatOp s .fclass w (fun a _ _ _ => (classF (fmtOf w.ty) a, 0))
/-- `FRCP` (R133). -/
def execFrcp (w : Leaf) (s : State) : Host.Outcome State Fault Refusal :=
  floatOp s .frcp w (fun a _ _ _ => frcpF w.ty a)
/-- `FRSQ` (R133). -/
def execFrsq (w : Leaf) (s : State) : Host.Outcome State Fault Refusal :=
  floatOp s .frsq w (fun a _ _ _ => frsqF w.ty a)
/-- `FSQRT` (R129). -/
def execFsqrt (w : Leaf) (s : State) : Host.Outcome State Fault Refusal :=
  floatOp s .fsqrt w (fun a _ _ dr => roundOne w.ty w.rm dr (sqrtF (fval w.ty a)) [fval w.ty a])
/-- `FDIV` (R129). -/
def execFdiv (w : Leaf) (s : State) : Host.Outcome State Fault Refusal :=
  floatOp s .fdiv w (fun a b _ dr =>
    let (x, y) := (fval w.ty a, fval w.ty b)
    roundOne w.ty w.rm dr (divF x y) [x, y])
/-- `FEX2` (R133). -/
def execFex2 (w : Leaf) (s : State) : Host.Outcome State Fault Refusal :=
  floatOp s .fex2 w (fun a _ _ _ => fex2F w.ty a)
/-- `FLG2` (R133). -/
def execFlg2 (w : Leaf) (s : State) : Host.Outcome State Fault Refusal :=
  floatOp s .flg2 w (fun a _ _ _ => flg2F w.ty a)
/-- `FSIN` (R133). -/
def execFsin (w : Leaf) (s : State) : Host.Outcome State Fault Refusal :=
  floatOp s .fsin w (fun a _ _ _ => trigF false w.ty a)
/-- `FCOS` (R133). -/
def execFcos (w : Leaf) (s : State) : Host.Outcome State Fault Refusal :=
  floatOp s .fcos w (fun a _ _ _ => trigF true w.ty a)

/-- One f32 result of `FDOT2` (R134). -/
def dot2 (w : Leaf) (a b c : Word) (h draw : Nat) : Nat × Flags :=
  let x (i : Nat) : FVal := fval w.ty (elemAt 16 a i)
  let y (i : Nat) : FVal := fval w.ty (elemAt 16 b i)
  let z := fval .f32 (elemAt 32 c h)
  let (p, f) := mulF (x (2 * h)) (y (2 * h))
  let (q, g) := mulF (x (2 * h + 1)) (y (2 * h + 1))
  roundSum .f32 w.rm draw [p, q, z]
    (f ||| g ||| sigFlags [x (2 * h), y (2 * h), x (2 * h + 1), y (2 * h + 1), z])
/-- `FDOT2` (R134). -/
def execFdot2 (w : Leaf) (s : State) : Host.Outcome State Fault Refusal :=
  laneOp s .fdot2 w (fun _ a b c _ dr =>
    let rs := (List.range 2).map (fun h => dot2 w a b c h (dr h))
    (packWord 32 (rs.map (·.1)), rs.foldl (fun fl r => fl ||| r.2) 0))

end Sys2Proof.Machine
end

