-- ==== Sys2Proof/Machine/LaneInt.lean ====
section
/-! DEFINITION. The integer and predicate instructions of the lanes and the moves (spec/07_lane_arithmetic.md R120-R126,
R114, R115). -/
namespace Sys2Proof.Machine

/-- An exact integer result, held in range under sat, cut to the sub-element (R121). -/
def intOp (s : State) (o : LOp) (w : Leaf) (f : Int → Int → Int → Int) : Host.Outcome State Fault Refusal :=
  let n := Ty.width w.ty
  elemOp s o w (fun a b c _ =>
    let r := f (valueOf n w.sgn a) (valueOf n w.sgn b) (valueOf n w.sgn c)
    cut n (if w.sat then clampTo n w.sgn r else r))

/-- Number of set bits below 2^n. -/
def popCount : Nat → Nat → Nat
  | 0, _ => 0
  | n + 1, x => x % 2 + popCount n (x / 2)
/-- The n low bits in reverse order. -/
def revBits : Nat → Nat → Nat
  | 0, _ => 0
  | n + 1, x => x % 2 * 2 ^ n + revBits n (x / 2)
/-- Arithmetic right shift of an n-bit value; a count of n or more leaves copies of the sign (R122). -/
def sraBits (n a k : Nat) : Nat := cut n ((BitVec.ofNat n a).toInt / 2 ^ Nat.min k n)
/-- The field of a at position p, of length k (R123 `BFE`). -/
def fieldOf (n : Nat) (sgn : Bool) (a p k : Nat) : Nat :=
  if n ≤ p ∨ k = 0 then 0
  else
    let k := Nat.min k (n - p)
    cut n (valueOf k sgn (a / 2 ^ p % 2 ^ k))
/-- a inserted into b at position p, with length k (R123 `BFI`). -/
def insertField (n a b p k : Nat) : Nat :=
  if n ≤ p ∨ k = 0 then b
  else
    let k := Nat.min k (n - p)
    b - b / 2 ^ p % 2 ^ k * 2 ^ p + a % 2 ^ k * 2 ^ p
/-- A four-way dot product of bytes added to an accumulator (R125). -/
def dot4 (sa sb sc : Bool) (a b : Word) (c h : Nat) : Int :=
  (List.range 4).foldl (fun (acc : Int) j =>
    acc + valueOf 8 sa (elemAt 8 a (4 * h + j)) * valueOf 8 sb (elemAt 8 b (4 * h + j))) (valueOf 32 sc c)

/-- `IADD` (R121). -/
def execIadd (w : Leaf) (s : State) : Host.Outcome State Fault Refusal :=
  intOp s .iadd w (fun a b _ => a + b)
/-- `ISUB` (R121). -/
def execIsub (w : Leaf) (s : State) : Host.Outcome State Fault Refusal :=
  intOp s .isub w (fun a b _ => a - b)
/-- `IMUL` (R121). -/
def execImul (w : Leaf) (s : State) : Host.Outcome State Fault Refusal :=
  intOp s .imul w (fun a b _ => a * b)
/-- `IMAD` (R121). -/
def execImad (w : Leaf) (s : State) : Host.Outcome State Fault Refusal :=
  intOp s .imad w (fun a b c => a * b + c)
/-- `IMULH` (R121). -/
def execImulh (w : Leaf) (s : State) : Host.Outcome State Fault Refusal :=
  intOp s .imulh w (fun a b _ => a * b / 2 ^ Ty.width w.ty)
/-- `IMIN` (R121). -/
def execImin (w : Leaf) (s : State) : Host.Outcome State Fault Refusal :=
  intOp s .imin w (fun a b _ => if a ≤ b then a else b)
/-- `IMAX` (R121). -/
def execImax (w : Leaf) (s : State) : Host.Outcome State Fault Refusal :=
  intOp s .imax w (fun a b _ => if a ≤ b then b else a)
/-- `IABS` (R121). -/
def execIabs (w : Leaf) (s : State) : Host.Outcome State Fault Refusal :=
  elemOp s .iabs w (fun a _ _ _ =>
    let r : Int := (valueOf (Ty.width w.ty) true a).natAbs
    cut (Ty.width w.ty) (if w.sat then clampTo (Ty.width w.ty) true r else r))
/-- `AND` (R122). -/
def execAnd (w : Leaf) (s : State) : Host.Outcome State Fault Refusal :=
  laneOp s .and w (fun _ a b _ _ _ => (a &&& b, 0))
/-- `OR` (R122). -/
def execOr (w : Leaf) (s : State) : Host.Outcome State Fault Refusal :=
  laneOp s .or w (fun _ a b _ _ _ => (a ||| b, 0))
/-- `XOR` (R122). -/
def execXor (w : Leaf) (s : State) : Host.Outcome State Fault Refusal :=
  laneOp s .xor w (fun _ a b _ _ _ => (a ^^^ b, 0))
/-- `SHL` (R122). -/
def execShl (w : Leaf) (s : State) : Host.Outcome State Fault Refusal :=
  elemOp s .shl w (fun a b _ _ => if b < Ty.width w.ty then a * 2 ^ b else 0)
/-- `SHR` (R122). -/
def execShr (w : Leaf) (s : State) : Host.Outcome State Fault Refusal :=
  elemOp s .shr w (fun a b _ _ => if b < Ty.width w.ty then a / 2 ^ b else 0)
/-- `SRA` (R122). -/
def execSra (w : Leaf) (s : State) : Host.Outcome State Fault Refusal :=
  elemOp s .sra w (fun a b _ _ => sraBits (Ty.width w.ty) a b)
/-- `ROT` (R122). -/
def execRot (w : Leaf) (s : State) : Host.Outcome State Fault Refusal :=
  elemOp s .rot w (fun a b _ _ =>
    let k := b % Ty.width w.ty
    a * 2 ^ k + a / 2 ^ (Ty.width w.ty - k))
/-- `CLZ` (R122). -/
def execClz (w : Leaf) (s : State) : Host.Outcome State Fault Refusal :=
  elemOp s .clz w (fun a _ _ _ => Ty.width w.ty - bitLen a)
/-- `POPC` (R122). -/
def execPopc (w : Leaf) (s : State) : Host.Outcome State Fault Refusal :=
  elemOp s .popc w (fun a _ _ _ => popCount (Ty.width w.ty) a)
/-- `BREV` (R122). -/
def execBrev (w : Leaf) (s : State) : Host.Outcome State Fault Refusal :=
  elemOp s .brev w (fun a _ _ _ => revBits (Ty.width w.ty) a)
/-- `BFE` (R123). -/
def execBfe (w : Leaf) (s : State) : Host.Outcome State Fault Refusal :=
  elemOp s .bfe w (fun a b c _ => fieldOf (Ty.width w.ty) w.sgn a b c)
/-- `BFI` (R123). -/
def execBfi (w : Leaf) (s : State) : Host.Outcome State Fault Refusal :=
  elemOp s .bfi w (fun a b c e => insertField (Ty.width w.ty) a b c e)
/-- `ICMP` (R124). -/
def execIcmp (w : Leaf) (s : State) : Host.Outcome State Fault Refusal :=
  laneOp s .icmp w (fun _ a b _ _ _ =>
    let n := Ty.width w.ty
    (compareResult w ((List.range (64 / n)).map (fun i => intCondAt n w.cond.toNat (elemAt n a i) (elemAt n b i))), 0))
/-- `SEL` (R124). -/
def execSel (w : Leaf) (s : State) : Host.Outcome State Fault Refusal :=
  laneOp s .sel w (fun _ a b c _ _ => (if c != 0 then a else b, 0))
/-- `MOV` (R114). -/
def execMov (w : Leaf) (s : State) : Host.Outcome State Fault Refusal :=
  laneOp s .mov w (fun _ a b _ _ _ => (if w.imm.isSome then b else a, 0))
/-- `IDP4` (R125). -/
def execIdp4 (w : Leaf) (s : State) : Host.Outcome State Fault Refusal :=
  laneOp s .idp4 w (fun _ a b c _ _ =>
    let sb := w.sgn && !w.opx.getLsbD 0
    (packWord 32 ((List.range 2).map (fun h =>
      let r := dot4 w.sgn sb w.sgn a b (elemAt 32 c h) h
      cut 32 (if w.sat then clampTo 32 w.sgn r else r))), 0))
/-- `PLOP` (R126). -/
def execPlop (w : Leaf) (s : State) : Host.Outcome State Fault Refusal :=
  laneOp s .plop w (fun _ a b _ _ _ =>
    (if w.opx.getLsbD ((if a != 0 then 2 else 0) + (if b != 0 then 1 else 0)) then 1 else 0, 0))

/-- The value of `MOVI` (R115). -/
def moviValue (ty : Ty) (imm : BitVec 32) : Word :=
  match ty with
  | .b64 => imm.signExtend 64
  | _ => imm ++ imm
/-- `MOVI` (R115). -/
def execMoviLane (c : Ctl) (ty : Ty) (d : Opnd) (imm : BitVec 32) (s : State) : Host.Outcome State Fault Refusal :=
  runLeaf s c (fun c g r s =>
    match prepare g r c.takers [] [d] with
    | .wait => .wait
    | .go ts fs => .done (s.putGroup c.gid (ts.foldl (fun g1 t => g1.writeDest g r d t (moviValue ty imm)) g)) 1 fs)

end Sys2Proof.Machine
end

