-- ==== Sys2Proof/Machine/Link.lean ====
section
/-! DEFINITION. The host link's responder: device interfaces (R398, R399), SPDM (R400), and link encryption (R401,
R402). -/
namespace Sys2Proof.Machine

/-- A request of the host link is answered, unless the package is held in reset. -/
def respond (s : State) (body : State → State) : Host.Outcome State Fault Refusal :=
  .next (if s.crown.down then s else body s)
/-- An SPDM or TDISP response. -/
def State.reply (s : State) (what : String) (data : List Nat := []) : State := s.post (.spdm what data)

/-! ## Device interfaces (R398, R399) -/

/-- The number of a TDISP state in a response. -/
def TdiState.code : TdiState → Nat
  | .unlocked => 0
  | .locked => 1
  | .run => 2
  | .error => 3

/-- The interface report of a partition (R398): its number, which stands for its windows' ranges, its log settings and
its pod windows. -/
def Part.report (p : Part) : List Nat :=
  [p.num] ++ (match p.log with
    | some l => [1, l.base, l.size, l.ans, l.cons]
    | none => [0]) ++ p.windows.flatMap (fun w => [w.1, w.2.1, w.2.2])

/-- A request that a TDI's state does not allow. -/
def onTdi (n : Nat) (body : Part → State → State) (s : State) : State :=
  match SMap.find? s.parts n with
  | none => s.reply "TDISP_ERROR"
  | some p => body p s
/-- A TDI's state set. -/
def State.setTdi (s : State) (n : Nat) (t : TdiState) : State := s.modPart n (fun p => { p with tdi := t })

/-- GET_TDISP_VERSION (R398): no rule gives the number. -/
def execGetTdispVersion (tdi : Nat) (s : State) : Host.Outcome State Fault Refusal :=
  respond s (onTdi tdi (fun _ s =>
    let (w, s) := s.freeWord
    s.reply "TDISP_VERSION" [w.toNat]))
/-- GET_TDISP_CAPABILITIES (R398): no rule gives them. -/
def execGetTdispCapabilities (tdi : Nat) (s : State) : Host.Outcome State Fault Refusal :=
  respond s (onTdi tdi (fun _ s =>
    let (w, s) := s.freeWord
    s.reply "TDISP_CAPABILITIES" [w.toNat]))
/-- LOCK_INTERFACE_REQUEST (R399): not in sapling mode (R437). -/
def execLockInterfaceRequest (tdi : Nat) (s : State) : Host.Outcome State Fault Refusal :=
  respond s (onTdi tdi (fun p s =>
    if p.tdi = .unlocked ∧ s.crown.sapling = false then (s.setTdi tdi .locked).reply "LOCK_INTERFACE_RESPONSE"
    else s.reply "TDISP_ERROR"))
/-- GET_DEVICE_INTERFACE_REPORT (R398). -/
def execGetDeviceInterfaceReport (tdi : Nat) (s : State) : Host.Outcome State Fault Refusal :=
  respond s (onTdi tdi (fun p s => s.reply "DEVICE_INTERFACE_REPORT" p.report))
/-- GET_DEVICE_INTERFACE_STATE (R398). -/
def execGetDeviceInterfaceState (tdi : Nat) (s : State) : Host.Outcome State Fault Refusal :=
  respond s (onTdi tdi (fun p s => s.reply "DEVICE_INTERFACE_STATE" [p.tdi.code]))
/-- START_INTERFACE_REQUEST (R399). -/
def execStartInterfaceRequest (tdi : Nat) (s : State) : Host.Outcome State Fault Refusal :=
  respond s (onTdi tdi (fun p s =>
    if p.tdi = .locked then (s.setTdi tdi .run).reply "START_INTERFACE_RESPONSE" else s.reply "TDISP_ERROR"))
/-- STOP_INTERFACE_REQUEST (R399): an exit from RUN performs R389. -/
def execStopInterfaceRequest (tdi : Nat) (s : State) : Host.Outcome State Fault Refusal :=
  respond s (onTdi tdi (fun p s =>
    let s := if p.tdi = .run then s.erasePart tdi else s
    (s.setTdi tdi .unlocked).reply "STOP_INTERFACE_RESPONSE"))
/-- A TDI enters ERROR: R389, and back to CONFIG_UNLOCKED (R399). -/
def execTdispError (tdi : Nat) (s : State) : Host.Outcome State Fault Refusal :=
  .next (match SMap.find? s.parts tdi with
    | none => s
    | some _ => (s.erasePart tdi).setTdi tdi .unlocked)

/-! ## SPDM (R400) -/

/-- The SPDM responder's state set. -/
def State.setSpdm (s : State) (x : SpdmState) : State := s.modCrown (fun c => { c with spdm := x })
/-- An SPDM request that is out of order or asks for what the device does not have. -/
def State.spdmError (s : State) : State := s.reply "ERROR"
/-- A request that needs negotiated algorithms. -/
def onNegotiated (body : State → State) (s : State) : State :=
  if s.crown.spdm = .negotiated then body s else s.spdmError

/-- GET_VERSION (R400): SPDM 1.3; the connection begins. -/
def execGetVersion (s : State) : Host.Outcome State Fault Refusal :=
  respond s (fun s => (s.modCrown (fun c => { c with spdm := .version, sessions := [] })).reply "VERSION" [0x13])
/-- GET_CAPABILITIES (R400). -/
def execGetCapabilities (s : State) : Host.Outcome State Fault Refusal :=
  respond s (fun s => if s.crown.spdm = .start then s.spdmError else (s.setSpdm .capabilities).reply "CAPABILITIES")
/-- NEGOTIATE_ALGORITHMS (R400): SHA-512, ECDSA P-521, secp521r1 and AES-256-GCM. -/
def execNegotiateAlgorithms (o : SpdmOffer) (s : State) : Host.Outcome State Fault Refusal :=
  respond s (fun s =>
    if (s.crown.spdm = .capabilities ∨ s.crown.spdm = .negotiated) ∧ o.sha512 ∧ o.ecdsaP521 ∧ o.secp521r1 ∧ o.aes256gcm then
      (s.setSpdm .negotiated).reply "ALGORITHMS"
    else s.spdmError)
/-- GET_DIGESTS (R400): of the two certificate slots. -/
def execGetDigests (s : State) : Host.Outcome State Fault Refusal :=
  respond s (onNegotiated (fun s => s.reply "DIGESTS"
    [Config.digest 0 [Config.certificate 0], Config.digest 0 [Config.certificate 1]]))
/-- GET_CERTIFICATE (R400): slots 0 and 1. -/
def execGetCertificate (slot : Nat) (s : State) : Host.Outcome State Fault Refusal :=
  respond s (onNegotiated (fun s => if 2 ≤ slot then s.spdmError else s.reply "CERTIFICATE" [slot, Config.certificate slot]))
/-- CHALLENGE (R400): a signature over the nonce. -/
def execChallenge (slot : Nat) (nonce : Nat) (s : State) : Host.Outcome State Fault Refusal :=
  respond s (onNegotiated (fun s =>
    if 2 ≤ slot then s.spdmError else s.reply "CHALLENGE_AUTH" [slot, Config.signature [slot, nonce]]))

/-- What a command of R399 can change of a partition (R400, index 6). -/
def Part.config (p : Part) : List Nat :=
  p.report ++ [if p.system then 1 else 0, p.poolBase, p.poolCnt, p.bud.blreg, p.bud.bsram, p.bud.bob, p.bud.btag, p.bud.bgrove,
    p.bud.bstrm, p.bud.bbud, p.prio, p.lease, p.fpolicy, p.localBase, p.frames, p.localS]
    ++ (p.root.map (fun r => r.toNat)).toList ++ p.dir.elim [] (fun d => [d.1, d.2]) ++ p.ctx.elim [] (fun d => [d.1, d.2])
    ++ p.graftMap.flatMap (fun e => [e.1, e.2])
/-- The pod configuration: PODSET, wiring results, HMAP values (R400, index 5). -/
def State.podConfig (s : State) : List Nat :=
  s.crown.podset.elim [] (fun x => [x.1, x.2]) ++ s.crown.ports.flatMap (fun e => [e.1, if e.2.wrong then 1 else 0])
    ++ (List.range 8).map (fun k => (s.hmap k).toNat)
/-- The measurement of an index (R400): index 4 is 0 unless the package is in sapling mode (R437). -/
def State.measurement (s : State) (index tdi : Nat) : Option Nat :=
  match index with
  | 1 => some (Config.digest 1 [])
  | 2 => some (Config.digest 2 [])
  | 3 => some (Config.digest 3 [])
  | 4 => some (if s.crown.sapling then Config.digest 4 [1] + 1 else 0)
  | 5 => some (Config.digest 5 s.podConfig)
  | 6 => (SMap.find? s.parts tdi).map (fun p => Config.digest 6 p.config)
  | _ => none
/-- GET_MEASUREMENTS (R400). -/
def execGetMeasurements (index tdi : Nat) (s : State) : Host.Outcome State Fault Refusal :=
  respond s (onNegotiated (fun s => match s.measurement index tdi with
    | some m => s.reply "MEASUREMENTS" [index, m]
    | none => s.spdmError))

/-- KEY_EXCHANGE (R400): a session with a fresh export secret begins. -/
def execKeyExchange (sess : Nat) (s : State) : Host.Outcome State Fault Refusal :=
  respond s (onNegotiated (fun s =>
    if (SMap.find? s.crown.sessions sess).isSome then s.spdmError
    else
      let (n, s) := s.newId
      (s.modCrown (fun c => { c with sessions := SMap.put c.sessions sess { live := false, secret := n } })).reply
        "KEY_EXCHANGE_RSP" [sess]))
/-- A session ends. -/
def State.endSession (s : State) (sess : Nat) : State := s.modCrown (fun c => { c with sessions := SMap.erase c.sessions sess })
/-- FINISH (R400): the session is live if its verification passes. -/
def execFinish (sess : Nat) (ok : Bool) (s : State) : Host.Outcome State Fault Refusal :=
  respond s (fun s => match SMap.find? s.crown.sessions sess with
    | some x =>
      if x.live then s.spdmError
      else if ok then
        (s.modCrown (fun c => { c with sessions := SMap.mod c.sessions sess (fun x => { x with live := true }) })).reply
          "FINISH_RSP" [sess]
      else (s.endSession sess).spdmError
    | none => s.spdmError)
/-- A request inside a live session. -/
def onSession (sess : Nat) (body : Session → State → State) (s : State) : State :=
  match SMap.find? s.crown.sessions sess with
  | some x => if x.live then body x s else s.spdmError
  | none => s.spdmError
/-- KEY_UPDATE (R400). -/
def execKeyUpdate (sess : Nat) (s : State) : Host.Outcome State Fault Refusal :=
  respond s (onSession sess (fun _ s =>
    (s.modCrown (fun c => { c with sessions := SMap.mod c.sessions sess (fun x => { x with updates := x.updates + 1 }) })).reply
      "KEY_UPDATE_ACK" [sess]))
/-- HEARTBEAT (R400). -/
def execHeartbeat (sess : Nat) (s : State) : Host.Outcome State Fault Refusal :=
  respond s (onSession sess (fun _ s => s.reply "HEARTBEAT_ACK" [sess]))
/-- END_SESSION (R400): keys wrapped in it are accepted no more (R396). -/
def execEndSession (sess : Nat) (s : State) : Host.Outcome State Fault Refusal :=
  respond s (onSession sess (fun _ s => (s.endSession sess).reply "END_SESSION_ACK" [sess]))

/-! ## Link encryption (R401, R402) -/

/-- One direction of a port (R402): the slot in use, the package's keys, and while an old slot retires what is still to be
acknowledged of what was sent under it; in direction 0 the package transmits, in direction 1 the module's head. -/
def Port.side (p : Port) (dir : Nat) : Nat × SMap (BitVec 256) × Option (List (Nat × Nat)) :=
  if dir = 0 then (p.slotTx, p.keyTx, p.retiringTx) else (p.slotRx, p.keyRx, p.retiringRx)
/-- One direction of a port changed. -/
def Port.setSide (p : Port) (dir : Nat) (x : Nat × SMap (BitVec 256) × Option (List (Nat × Nat))) : Port :=
  if dir = 0 then { p with slotTx := x.1, keyTx := x.2.1, retiringTx := x.2.2 }
  else { p with slotRx := x.1, keyRx := x.2.1, retiringRx := x.2.2 }

/-- A key slot of the head at the module's end of a port (R401). -/
def State.farKey (s : State) (h dir slot : Nat) : Option (BitVec 256) :=
  (s.portModule h).bind (fun m => SMap.find? (s.head m h).keys (2 * dir + slot))
/-- A key slot of the head at the module's end of a port set or erased (R401, R402). -/
def State.setFarKey (s : State) (h dir slot : Nat) (k : Option (BitVec 256)) : State :=
  match s.portModule h with
  | none => s
  | some m =>
    let x := s.head m h
    s.putHead m h { x with keys := match k with
      | some k => SMap.put x.keys (2 * dir + slot) k
      | none => SMap.erase x.keys (2 * dir + slot) }

/-- A slot of one direction may be programmed at an end that holds `old` there: the idle one, or one that has no key
(R401, R402). -/
def State.mayProgram (s : State) (h dir slot : Nat) (old : Option (BitVec 256)) : Bool :=
  let x := (s.podPort h).side dir
  decide (h < 6) && decide (dir < 2) && decide (slot < 2) && ((slot != x.1 && x.2.2.isNone) || old.isNone)

/-- A key is programmed into a slot of the package's end of a port (R401, R402). -/
def State.programPort (s : State) (h dir slot : Nat) (key : BitVec 256) : State :=
  let (cur, keys, ret) := (s.podPort h).side dir
  if s.mayProgram h dir slot (SMap.find? keys slot) then
    (s.modPort h (fun p => p.setSide dir (cur, SMap.put keys slot key, ret))).reply "IDE_KM_RSP"
  else s.spdmError
/-- A key is programmed into a slot of the module's end of a port (R401, R402). -/
def State.programHead (s : State) (h dir slot : Nat) (key : BitVec 256) : State :=
  if (s.portModule h).isSome && s.mayProgram h dir slot (s.farKey h dir slot) then
    (s.setFarKey h dir slot (some key)).reply "IDE_KM_RSP"
  else s.spdmError

/-- The key of a slot at the end that transmits in a direction, and at the end that receives. -/
def State.keyEnds (s : State) (h dir slot : Nat) : Option (BitVec 256) × Option (BitVec 256) :=
  let near := SMap.find? ((s.podPort h).side dir).2.1 slot
  if dir = 0 then (near, s.farKey h dir slot) else (s.farKey h dir slot, near)

/-- The package's stream operations that travel in a direction of a port: sent there, or answered from there. -/
def State.inFlight (s : State) (h dir : Nat) : List (Nat × Nat) :=
  s.streams.flatMap (fun e => (e.2.ops.filter (fun o => o.state == 1 + dir && (match o.dest with
    | .modul m => s.portTo m == some h
    | .host => false))).map (fun o => (e.1, o.seq)))

/-- IDE_KM over a live session (R401): a TDI has its stream in RUN (DEDUCED, log entry 124). -/
def execIdeKm (t : IdeTarget) (key : BitVec 256) (s : State) : Host.Outcome State Fault Refusal :=
  respond s (fun s =>
    if !s.crown.sessions.any (fun e => e.2.live) then s.spdmError
    else match t with
      | .hostLink => (s.modCrown (fun c => { c with linkKey := some key })).reply "IDE_KM_RSP"
      | .tdi n =>
        if ((SMap.find? s.parts n).map (·.tdi)) != some .run then s.spdmError
        else (s.modCrown (fun c => { c with tdiKeys := SMap.put c.tdiKeys n key })).reply "IDE_KM_RSP"
      | .podPort h dir slot => s.programPort h dir slot key
      | .moduleHead h dir slot => s.programHead h dir slot key)

/-- The idle slot of one direction of a port is set in use (R402): refused as busy while the old slot retires. A receiver
that has another key there, or none, meets an integrity failure, which takes the link down. -/
def execPodKeyRotation (port dir : Nat) (s : State) : Host.Outcome State Fault Refusal :=
  respond s (fun s =>
    let (cur, keys, ret) := (s.podPort port).side dir
    let (tx, rx) := s.keyEnds port dir (1 - cur)
    let (tx0, rx0) := s.keyEnds port dir cur
    if ret.isSome then s.post (.answer false none [])
    else if 6 ≤ port ∨ 2 ≤ dir ∨ tx.isNone then s.refuse
    else (s.modPort port (fun p =>
      let p := p.setSide dir (1 - cur, keys, if tx0.isSome || rx0.isSome then some (s.inFlight port dir) else none)
      if rx = tx then p else p.fall s.cycle)).answer)

/-- The old slot of one direction of a port retires once all that was sent under it is acknowledged, and its key is
erased at both ends (R402). -/
def execKeySlotRetire (port dir : Nat) (s : State) : Host.Outcome State Fault Refusal :=
  .next (
    let (cur, keys, ret) := (s.podPort port).side dir
    match ret with
    | none => s
    | some l =>
      if l.all (fun x => (s.ownOp x.1 x.2).all (fun o => o.state != 1 + dir)) then
        (s.modPort port (fun p => p.setSide dir (cur, SMap.erase keys (1 - cur), none))).setFarKey port dir (1 - cur) none
      else s)

end Sys2Proof.Machine
end

