-- ==== Sys2Proof/Machine/Service.lean ====
section
/-! DEFINITION. The package's own commands and events: the pod (R327, R335, R350), graft maps (R356), HMAP (R375,
R376), bring-up, spares and wear (R437-R442), power and heat (R443, R444), and package reset. -/
namespace Sys2Proof.Machine

/-! ## The pod (R335, R350, R356) -/

/-- PODSET (R335): while every pod port is in reset. -/
def execPodset (v : Via) (order pkg : Nat) (s : State) : Host.Outcome State Fault Refusal :=
  mailbox s v true (fun s =>
    if order < 2 ∨ 5 < order ∨ podSize order ≤ pkg ∨ s.crown.ports.any (fun e => e.2.up) then s.refuse
    else (s.modCrown (fun c => { c with podset := some (order, pkg) })).answer)

/-- Bytes of a transport region of a module with k heads (R335). -/
def regionSize (k : Nat) : Nat := k * (k - 1) * 2 * (64 + 128 * 1024)
/-- The port is one that the pod uses (R3). -/
def State.podUses (s : State) (h : Nat) : Bool := (s.portModule h).isSome

/-- PODTRANSPORT (R335). -/
def execPodtransport (v : Via) (port base size : Nat) (s : State) : Host.Outcome State Fault Refusal :=
  mailbox s v false (fun s =>
    if !s.podUses port || decide (size < regionSize ((s.crown.podset.map (·.1)).getD 0 + 1)) then s.refuse
    else (s.modPort port (fun p => { p with region := some (base, size) })).answer)

/-- PODWIN (R335). -/
def execPodwin (v : Via) (part port base size : Nat) (s : State) : Host.Outcome State Fault Refusal :=
  mailbox s v false (onUnlocked part (fun _ s =>
    if !s.podUses port || base % 65536 != 0 || size % 65536 != 0 then s.refuse
    else (s.modPart part (fun p => { p with windows := SMap.put p.windows port (base, size) })).answer))

/-- PODSTAT (R335): the lost modules, the lost heads as pairs, and for each module the relay that the package of its
parameter chooses plus one, 0 for none; each list after its length. DESIGN CHOICE (log entry 80): the form of the
answer, and that a package outside the pod is refused. -/
def execPodstat (a : PodstatArg) (s : State) : Host.Outcome State Fault Refusal :=
  mailbox s a.via false (fun s =>
    let n := (s.crown.podset.map (fun x => podSize x.1)).getD 0
    let t : State := s.modCrown (fun c => { c with podset := c.podset.map (fun x => (x.1, a.pkg)) })
    if n ≠ 0 ∧ n ≤ a.pkg then s.refuse
    else s.answer ([s.crown.lostMods.length] ++ s.crown.lostMods ++ [s.crown.lostHeads.length]
      ++ s.crown.lostHeads.flatMap (fun h => [h.1, h.2])
      ++ [n] ++ (List.range n).map (fun m => if (t.modulePort m).isSome then 0 else (t.relay m).elim 0 (· + 1))))

/-- GRAFTMAP (R356). -/
def execGraftmap (v : Via) (part rpkg rpart : Nat) (s : State) : Host.Outcome State Fault Refusal :=
  mailbox s v false (onUnlocked part (fun _ s =>
    if 31 ≤ rpkg ∨ 16 ≤ rpart then s.refuse
    else (s.modPart part (fun p => { p with graftMap := SMap.put p.graftMap rpkg rpart })).answer))

/-- The restoration of a lost module: its stream contexts are empty (R350). -/
def execModuleRestore (v : Via) (m : Nat) (s : State) : Host.Outcome State Fault Refusal :=
  mailbox s v false (fun s =>
    if !s.modLost m then s.refuse
    else
      let s := s.modCrown (fun c => { c with
        lostMods := c.lostMods.filter (· != m), lostHeads := c.lostHeads.filter (fun h => h.1 != m) })
      ({ s with heads := s.heads.filter (fun e => e.1 / 8 != m) }).answer)

/-! ## HMAP (R375, R376) -/

/-- HMAPGET (R375). -/
def execHmapget (v : Via) (stack : Nat) (s : State) : Host.Outcome State Fault Refusal :=
  mailbox s v false (fun s => if 8 ≤ stack then s.refuse else s.answer [(s.hmap stack).toNat])

/-- A legal HMAP value (R375). -/
def hmapOk (w : Word) : Bool :=
  bits w.toNat 58 6 == 0 && bits w.toNat 36 16 == 0 && bits w.toNat 0 9 == 0 && decide (14 ≤ bits w.toNat 53 5)

/-- Spans of free bytes without those of a stack. -/
def cutNoise (k : Nat) (l : List (Nat × Nat × Nat)) : List (Nat × Nat × Nat) :=
  l.flatMap (fun x =>
    let lo := k * 2 ^ 36
    let hi := lo + 2 ^ 36
    let e := x.1 + x.2.1
    (if x.1 < lo then [(x.1, Nat.min e lo - x.1, x.2.2)] else []) ++
      (if hi < e then [(Nat.max x.1 hi, e - Nat.max x.1 hi, x.2.2)] else []))

/-- Non-temporal stores of a group are performed now, in order. -/
def State.settleStnts (s : State) (gid : Nat) (g : Group) : State :=
  let (ts, s) := State.stntAll g.part g.stnts s
  s.modGroup gid (fun g => { g with drainTs := g.drainTs ++ ts, stnts := [] })

/-- Every byte of a stack is zero, and no copy of its lines is left; nothing is written back (R376). -/
def State.zeroStack (s : State) (k : Nat) : State :=
  let on (l : Nat) : Bool := l / 2 ^ 29 == k
  { s with
    hbm := s.hbm.filter (fun e => e.1 / 2 ^ 36 != k)
    hbmTag := s.hbmTag.filter (fun e => e.1 / 2 ^ 31 != k)
    noise := cutNoise k s.noise
    poison := s.poison.filter (fun e => e.1 / 2 ^ 31 != k)
    resvs := s.resvs.filter (fun r => !on r.2.1)
    lines := s.lines.map (fun e => (e.1,
      if on e.1 then { e.2 with wts := e.2.rts + 1, rts := e.2.rts + 1, owner := none, grants := [], priv := none } else e.2))
    cores := s.cores.map (fun e => (e.1, { e.2 with
      l1 := e.2.l1.filter (fun x => !on x.1), dirty := e.2.dirty.filter (fun l => !on l) }))
    groves := s.groves.map (fun e => (e.1, { e.2 with copies := e.2.copies.filter (fun x => !on x.1) })) }

/-- A migration in progress reads or writes the stack (R376). -/
def State.migUses (s : State) (k : Nat) (m : Migration) : Bool :=
  m.started && (match SMap.find? s.parts m.part with
    | none => false
    | some p => match s.pageOf p m.obj m.page with
      | .error _ => false
      | .ok (d, q) => [(s.placeOf d q 0).1, (s.placeOf d { alt := m.alt, frame := m.frame } 0).1].any (fun x =>
          match x with
          | .hbm a => a / 2 ^ 36 == k
          | _ => false))

/-- HMAPSET (R376). -/
def execHmapset (v : Via) (stack : Nat) (value : Word) (s : State) : Host.Outcome State Fault Refusal :=
  mailbox s v true (fun s =>
    if 8 ≤ stack ∨ !hmapOk value ∨ s.roots.any (fun r => r.stack == some stack) ∨ s.migrations.any (s.migUses stack) then s.refuse
    else
      let hit (g : Group) : Bool := g.stnts.any (fun x => x.bytes.any (fun b => b.1 / 2 ^ 36 == stack))
      let s := (s.groupsOf hit).foldl (fun s e => s.settleStnts e.1 e.2) s
      let s := (s.modCrown (fun c => { c with hmap := SMap.set hmapReset c.hmap stack value })).zeroStack stack
      s.answer)

/-! ## Sapling mode, spares, wear (R437-R442) -/

/-- SAPLING (R437); in that mode the power cap is 3,200 W (R443). -/
def execSapling (v : Via) (s : State) : Host.Outcome State Fault Refusal :=
  mailbox s v false (fun s =>
    if !s.parts.isEmpty then s.refuse
    else (s.modCrown (fun c => { c with sapling := true, powerCap := 3200 })).answer)

/-- A command of sapling mode alone (R438). -/
def saplingOnly (s : State) (v : Via) (body : State → State) : Host.Outcome State Fault Refusal :=
  mailbox s v true (fun s => if s.crown.sapling then body s else s.refuse)

/-- A stack fails: it is marked and reported (R440). -/
def State.failStack (s : State) (k : Nat) : State :=
  if s.crown.failedStacks.contains k then s
  else (s.modCrown (fun c => { c with failedStacks := c.failedStacks ++ [k] })).post (.stackFailed k)

/-- MEMTEST (R438, R440): the stack's bytes are those of the patterns. -/
def execMemtest (v : Via) (stack : Nat) (r : TestReport) (s : State) : Host.Outcome State Fault Refusal :=
  saplingOnly s v (fun s =>
    if 8 ≤ stack then s.refuse
    else
      let s := (s.zeroStack stack).blotHbm (stack * 2 ^ 36) (2 ^ 36)
      let s := if r.failed then s.failStack stack else s
      s.answer [r.corrected, r.uncorrected, r.repairs])

/-- LINKTEST (R438): a pod port, or the host link. -/
def execLinktest (v : Via) (port : Option Nat) (r : TestReport) (s : State) : Host.Outcome State Fault Refusal :=
  saplingOnly s v (fun s =>
    if (port.map (fun h => decide (6 ≤ h))).getD false then s.refuse else s.answer [r.uncorrected, r.repairs])

/-- A unit that the spare map can name (R439). -/
def spareOk : SpareUnit → Bool
  | .core n => decide (n < 384)
  | .lane c n => decide (c < 384) && decide (n < 32)
  | .linkLane h _ => decide (h < 6)

/-- SPARESET (R438, R439): it applies from the next reset. A unit that is named again has lost its spare too. -/
def execSpareset (v : Via) (u : SpareUnit) (s : State) : Host.Outcome State Fault Refusal :=
  saplingOnly s v (fun s =>
    if !spareOk u then s.refuse
    else (s.modCrown (fun c => { c with nextSpares := c.nextSpares ++ [u] })).answer)

/-- A unit in an answer. -/
def spareCode : SpareUnit → List Nat
  | .core n => [0, n, 0]
  | .lane c n => [1, c, n]
  | .linkLane h n => [2, h, n]
/-- SPAREGET (R438). -/
def execSpareget (v : Via) (s : State) : Host.Outcome State Fault Refusal :=
  saplingOnly s v (fun s => s.answer (s.crown.nextSpares.flatMap spareCode))

/-- Spare cores that a core's number has used (R439), as failures are found one after the other: each failure of the core
that bears the number takes one, and so does its second failing lane, the spare lane among them. -/
def coreUses (u : List SpareUnit) (core : Nat) : Nat :=
  (u.foldl (fun (x : Nat × Bool) f => match f with
    | .core n => if n = core then (x.1 + 1, false) else x
    | .lane n _ => if n = core then (if x.2 then (x.1 + 1, false) else (x.1, true)) else x
    | .linkLane _ _ => x) (0, false)).1
/-- Spare cores in use on a die: for failing cores, and for cores with a second failing lane (R439). -/
def coresOut (u : List SpareUnit) (die : Nat) : Nat := ((span (96 * die) 96).map (coreUses u)).sum
/-- Failing lanes of a pod port, its spares among them (R439). -/
def linkBad (u : List SpareUnit) (h : Nat) : Nat :=
  (u.filter (fun x => match x with
    | .linkLane k _ => k == h
    | _ => false)).length
/-- Spare pod-port lanes in use: at most two of a port (R439). -/
def linksOut (u : List SpareUnit) : Nat := ((List.range 6).map (fun h => Nat.min 2 (linkBad u h))).sum
/-- The width at which a pod port trains (R439): 16 lanes and 2 spares; without its spares 8 lanes, as long as 8 are good;
0 for a port that cannot. -/
def portWidth (u : List SpareUnit) (h : Nat) : Nat := if linkBad u h ≤ 2 then 16 else if linkBad u h ≤ 10 then 8 else 0
/-- The width at which the host link trains with its failing lanes (R439): the widest of 16, 8, 4, 2 and 1 whose lanes, counted
from either end, are good (PRESUMED, log entry 127). -/
def hostWidth (bad : List Nat) : Nat :=
  ([16, 8, 4, 2, 1].find? (fun w => bad.all (fun l => decide (w ≤ l)) || bad.all (fun l => decide (l < 16 - w)))).getD 0

/-- The wear word (R442). -/
def Crown.wearWord (c : Crown) : Nat :=
  Nat.min 100 c.wear.life * 2 ^ 56 + ((List.range 4).map (fun d => Nat.min 4 (coresOut c.spares d))).sum * 2 ^ 48
    + linksOut c.spares * 2 ^ 40 + Nat.min 100 c.wear.rowrep * 2 ^ 32 + Nat.min 0xFFFF c.wear.ceday * 2 ^ 16
    + Nat.min 0xFFFF c.wear.hoth
/-- WEARGET (R441, R442): in every mode. -/
def execWearget (v : Via) (s : State) : Host.Outcome State Fault Refusal :=
  mailbox s v true (fun s => s.answer [s.crown.wearWord])

/-- The crown controller's counters move on (R442): LIFE falls; below 10 it posts a wear event, once. -/
def execWearCounterUpdate (r : WearReading) (s : State) : Host.Outcome State Fault Refusal :=
  .next (
    let s := s.modCrown (fun c => { c with
      wear := { life := Nat.min c.wear.life r.life, rowrep := Nat.max c.wear.rowrep r.rowrep, ceday := r.ceday,
                hoth := Nat.max c.wear.hoth r.hoth } })
    if s.crown.wear.life < 10 ∧ s.crown.wearPosted = false then
      (s.modCrown (fun c => { c with wearPosted := true })).post .wear
    else s)

/-! ## Power and heat (R443, R444) -/

/-- A change of what holds issue; cycles held are counted (R443). -/
def State.holdIssue (s : State) (f : State → State) : State :=
  let t := f s
  if s.issueHeld = t.issueHeld then t
  else if t.issueHeld then t.modCrown (fun c => { c with holdSince := some t.cycle })
  else t.modCrown (fun c => { c with
    heldCycles := c.heldCycles + (t.cycle - c.holdSince.getD t.cycle), holdSince := none })

/-- POWERCAP (R443): through a system partition's range. -/
def execPowercap (v : Via) (watts : Nat) (s : State) : Host.Outcome State Fault Refusal :=
  mailbox s v false (fun s =>
    if !s.viaSystem v || decide (watts < 1600) || decide (3200 < watts) then s.refuse
    else (s.modCrown (fun c => { c with powerCap := watts })).answer)

/-- Measured power: issue is held while it exceeds the cap (R443). -/
def execPowerCapHold (watts : Nat) (s : State) : Host.Outcome State Fault Refusal :=
  .next (s.holdIssue (fun s => s.modCrown (fun c => { c with powerHold := decide (c.powerCap < watts) })))

/-- The temperature of a die, compute dies 0 to 3 or I/O dies 4 and 5: issue is held from above 105 °C until it falls to 100 °C (R444). -/
def execThermalHold (die : Nat) (temp : Nat) (s : State) : Host.Outcome State Fault Refusal :=
  .next (if 6 ≤ die then s
    else s.holdIssue (fun s => s.modDie die (fun d => { d with held := decide (105 < temp) || (d.held && decide (100 < temp)) })))

/-- A die reaches 115 °C (R444): R389 for every partition, an event, and the package is held in reset. -/
def execThermalTrip (die : Nat) (temp : Nat) (s : State) : Host.Outcome State Fault Refusal :=
  .next (if 6 ≤ die ∨ temp < 115 ∨ s.crown.down then s
    else
      let s := (s.parts.map (·.1)).foldl (fun s n => s.erasePart n) s
      (s.post (.thermalTrip die)).holdIssue (fun s => s.modCrown (fun c => { c with down := true })))

/-! ## Package reset (R437, R439, R440) -/

/-- The spare map after the self-test of a reset (R439): the substitutions so far and what the test finds with them in
place, so that a spare that fails counts (DEDUCED, log entry 127). -/
def sparesAfter (old : List SpareUnit) (r : ResetReport) : List SpareUnit :=
  (old ++ (r.badLanes.map (fun x => SpareUnit.lane x.1 x.2) ++ r.badCores.map SpareUnit.core
    ++ r.badLinkLanes.map (fun x => SpareUnit.linkLane x.1 x.2)).eraseDups).filter spareOk
/-- The pod ports after a reset (R439): with the width that their lanes allow; one that cannot train is down from then on
(R350). -/
def portsAfter (u : List SpareUnit) : SMap Port :=
  ((List.range 6).filter (fun h => portWidth u h != 16)).map (fun h =>
    (h, { width := portWidth u h, downSince := if portWidth u h = 0 then some 0 else none }))
/-- Some die has more failing cores than spares: the package does not leave reset (R439). -/
def tooFewSpares (u : List SpareUnit) : Bool := (List.range 4).any (fun d => decide (4 < coresOut u d))

/-- Package reset (R203, R375, R437, R439, R440, R443): everything at its reset value but the memories, the modules, the
host's memory, and what the crown controller keeps across resets. -/
def State.packageReset (s : State) (r : ResetReport) : State :=
  let u := sparesAfter s.crown.nextSpares r
  let bad := tooFewSpares u
  let c : Crown := {
    spares := u, nextSpares := u, ports := portsAfter u, hostWidth := hostWidth r.badHostLanes, sapling := r.strap, unserviceable := bad, down := bad, wear := s.crown.wear,
    wearPosted := s.crown.wearPosted, lostMods := s.crown.lostMods, lostHeads := s.crown.lostHeads, events := s.crown.events }
  let t : State := { State.reset with
    schedule := s.schedule, fresh := s.fresh, nextId := s.nextId, hbm := s.hbm, hbmTag := s.hbmTag, noise := s.noise,
    poison := s.poison, hostMem := s.hostMem, modMem := s.modMem, modTag := s.modTag, modPoison := s.modPoison,
    heads := s.heads, crown := c }
  let t := r.badStacks.foldl (fun t k => if k < 8 then t.failStack k else t) t
  if bad then t.post .unserviceable else t

/-- A package reset (R437, R439): not of a package that a thermal trip holds in reset, which a reset through the mailbox
releases (R444). -/
def execPackageReset (r : ResetReport) (s : State) : Host.Outcome State Fault Refusal :=
  .next (if s.crown.down && !s.crown.unserviceable then s else s.packageReset r)

/-- A reset through the mailbox (R444): it releases a package that is held in reset. -/
def execMailboxReset (v : Via) (r : ResetReport) (s : State) : Host.Outcome State Fault Refusal :=
  .next (if s.crown.down then s.packageReset r
    else if !s.viaOk v then s
    else if s.crown.sapling then s.refuse
    else s.packageReset r)

end Sys2Proof.Machine
end

