-- ==== Sys2Proof/Machine/StemAlu.lean ====
section
/-! DEFINITION. The stem words that compute: three-register and immediate arithmetic, constants, comparison
(spec/05_stem.md R85-R88). They set no flags and raise no faults. -/
namespace Sys2Proof.Machine

/-- A stem ALU word: a[d] takes a function of a[x] and a[t] (R85). -/
def stemAlu (s : State) (d x t : BitVec 5) (f : Word → Word → Word) : Host.Outcome State Fault Refusal :=
  stemSet s (fun g => g.setA d.toNat (f (g.areg x.toNat) (g.areg t.toNat)))
/-- A multiplication (R85): its value is final 4 cycles after its issue (R77). -/
def stemMul (s : State) (d x t : BitVec 5) (f : Word → Word → Word) : Host.Outcome State Fault Refusal :=
  stemSet s (fun g => { g.setA d.toNat (f (g.areg x.toNat) (g.areg t.toNat)) with
    late := SMap.put g.late d.toNat (s.cycle + 4) })
/-- An immediate word: a[d] takes a function of a[x] (R86). -/
def stemImm (s : State) (d x : BitVec 5) (f : Word → Word) : Host.Outcome State Fault Refusal :=
  stemSet s (fun g => g.setA d.toNat (f (g.areg x.toNat)))

/-- The count of a shift: bits [5:0] (R85). -/
def shiftCount (y : Word) : Nat := y.toNat % 64
/-- High half of a signed product (R85). -/
def mulHigh (x y : Word) : Word := BitVec.ofInt 64 (x.toInt * y.toInt / 2 ^ 64)
/-- High half of an unsigned product (R85). -/
def mulHighU (x y : Word) : Word := BitVec.ofNat 64 (x.toNat * y.toNat / 2 ^ 64)

/-- `ADD` (R85). -/
def execAdd (d x t : BitVec 5) (s : State) : Host.Outcome State Fault Refusal :=
  stemAlu s d x t (fun x y => x + y)
/-- `SUB` (R85). -/
def execSub (d x t : BitVec 5) (s : State) : Host.Outcome State Fault Refusal :=
  stemAlu s d x t (fun x y => x - y)
/-- `MUL` (R85). -/
def execMul (d x t : BitVec 5) (s : State) : Host.Outcome State Fault Refusal :=
  stemMul s d x t (fun x y => x * y)
/-- `MULH` (R85). -/
def execMulh (d x t : BitVec 5) (s : State) : Host.Outcome State Fault Refusal :=
  stemMul s d x t (fun x y => mulHigh x y)
/-- `MULHU` (R85). -/
def execMulhu (d x t : BitVec 5) (s : State) : Host.Outcome State Fault Refusal :=
  stemMul s d x t (fun x y => mulHighU x y)
/-- `AND` (R85). -/
def execStemAnd (d x t : BitVec 5) (s : State) : Host.Outcome State Fault Refusal :=
  stemAlu s d x t (fun x y => x &&& y)
/-- `OR` (R85). -/
def execStemOr (d x t : BitVec 5) (s : State) : Host.Outcome State Fault Refusal :=
  stemAlu s d x t (fun x y => x ||| y)
/-- `XOR` (R85). -/
def execStemXor (d x t : BitVec 5) (s : State) : Host.Outcome State Fault Refusal :=
  stemAlu s d x t (fun x y => x ^^^ y)
/-- `SHL` (R85). -/
def execStemShl (d x t : BitVec 5) (s : State) : Host.Outcome State Fault Refusal :=
  stemAlu s d x t (fun x y => x <<< shiftCount y)
/-- `SHR` (R85). -/
def execStemShr (d x t : BitVec 5) (s : State) : Host.Outcome State Fault Refusal :=
  stemAlu s d x t (fun x y => x >>> shiftCount y)
/-- `SRA` (R85). -/
def execStemSra (d x t : BitVec 5) (s : State) : Host.Outcome State Fault Refusal :=
  stemAlu s d x t (fun x y => x.sshiftRight (shiftCount y))
/-- `MIN` (R85). -/
def execMin (d x t : BitVec 5) (s : State) : Host.Outcome State Fault Refusal :=
  stemAlu s d x t (fun x y => if x.slt y then x else y)
/-- `MAX` (R85). -/
def execMax (d x t : BitVec 5) (s : State) : Host.Outcome State Fault Refusal :=
  stemAlu s d x t (fun x y => if x.slt y then y else x)
/-- `MINU` (R85). -/
def execMinu (d x t : BitVec 5) (s : State) : Host.Outcome State Fault Refusal :=
  stemAlu s d x t (fun x y => if x.ult y then x else y)
/-- `MAXU` (R85). -/
def execMaxu (d x t : BitVec 5) (s : State) : Host.Outcome State Fault Refusal :=
  stemAlu s d x t (fun x y => if x.ult y then y else x)
/-- `SEL` (R85). -/
def execStemSel (d : BitVec 5) (q : BitVec 3) (x t : BitVec 5) (s : State) : Host.Outcome State Fault Refusal :=
  stemSet s (fun g => g.setA d.toNat (if g.qreg q.toNat then g.areg x.toNat else g.areg t.toNat))

/-- `ADDI` (R86). -/
def execAddi (d x : BitVec 5) (i : BitVec 16) (s : State) : Host.Outcome State Fault Refusal :=
  stemImm s d x (fun x => x + i.signExtend 64)
/-- `ANDI` (R86). -/
def execAndi (d x : BitVec 5) (i : BitVec 16) (s : State) : Host.Outcome State Fault Refusal :=
  stemImm s d x (fun x => x &&& i.setWidth 64)
/-- `ORI` (R86). -/
def execOri (d x : BitVec 5) (i : BitVec 16) (s : State) : Host.Outcome State Fault Refusal :=
  stemImm s d x (fun x => x ||| i.setWidth 64)
/-- `XORI` (R86). -/
def execXori (d x : BitVec 5) (i : BitVec 16) (s : State) : Host.Outcome State Fault Refusal :=
  stemImm s d x (fun x => x ^^^ i.setWidth 64)
/-- `SHLI` (R86). -/
def execShli (d x : BitVec 5) (n : BitVec 6) (s : State) : Host.Outcome State Fault Refusal :=
  stemImm s d x (fun x => x <<< n.toNat)
/-- `SHRI` (R86). -/
def execShri (d x : BitVec 5) (n : BitVec 6) (s : State) : Host.Outcome State Fault Refusal :=
  stemImm s d x (fun x => x >>> n.toNat)
/-- `SRAI` (R86). -/
def execSrai (d x : BitVec 5) (n : BitVec 6) (s : State) : Host.Outcome State Fault Refusal :=
  stemImm s d x (fun x => x.sshiftRight n.toNat)
/-- `MOVI` (R87). -/
def execMovi (d : BitVec 5) (i : BitVec 16) (s : State) : Host.Outcome State Fault Refusal :=
  stemSet s (fun g => g.setA d.toNat (i.signExtend 64))
/-- `MOVK` (R87): one quarter of the register, the rest kept. -/
def execMovk (d : BitVec 5) (k : BitVec 2) (i : BitVec 16) (s : State) : Host.Outcome State Fault Refusal :=
  stemSet s (fun g => g.setA d.toNat
    ((g.areg d.toNat &&& ~~~(0xFFFF#64 <<< (16 * k.toNat))) ||| (i.setWidth 64 <<< (16 * k.toNat))))
/-- `CMP` (R88). -/
def execCmp (q : BitVec 3) (c : IntCond) (x t : BitVec 5) (s : State) : Host.Outcome State Fault Refusal :=
  stemSet s (fun g => g.setQ q.toNat (intCondHolds c (g.areg x.toNat) (g.areg t.toNat)))
/-- `CMPI` (R88). -/
def execCmpi (q : BitVec 3) (c : IntCond) (x : BitVec 5) (i : BitVec 14) (s : State) :
    Host.Outcome State Fault Refusal :=
  stemSet s (fun g => g.setQ q.toNat (intCondHolds c (g.areg x.toNat) (i.signExtend 64)))

end Sys2Proof.Machine
end

