-- ==== Sys2Proof/Machine/Dispatch.lean ====
section
/-! DEFINITION. One arm for each instruction: the meaning of each constructor of `Instr`. -/
namespace Sys2Proof.Machine

/-- The effect of one instruction on the machine. -/
def exec (i : Instr) (s : State) : Host.Outcome State Fault Refusal :=
  match i with
  | .nop => Sys2Proof.Machine.execNop s
  | .safe => Sys2Proof.Machine.execSafe s
  | .lwait => Sys2Proof.Machine.execLwait s
  | .drain => Sys2Proof.Machine.execDrain s
  | .exit => Sys2Proof.Machine.execExit s
  | .halt => Sys2Proof.Machine.execHalt s
  | .brk => Sys2Proof.Machine.execBrk s
  | .gwait => Sys2Proof.Machine.execGwait s
  | .add d x t => Sys2Proof.Machine.execAdd d x t s
  | .sub d x t => Sys2Proof.Machine.execSub d x t s
  | .mul d x t => Sys2Proof.Machine.execMul d x t s
  | .mulh d x t => Sys2Proof.Machine.execMulh d x t s
  | .mulhu d x t => Sys2Proof.Machine.execMulhu d x t s
  | .stemAnd d x t => Sys2Proof.Machine.execStemAnd d x t s
  | .stemOr d x t => Sys2Proof.Machine.execStemOr d x t s
  | .stemXor d x t => Sys2Proof.Machine.execStemXor d x t s
  | .stemShl d x t => Sys2Proof.Machine.execStemShl d x t s
  | .stemShr d x t => Sys2Proof.Machine.execStemShr d x t s
  | .stemSra d x t => Sys2Proof.Machine.execStemSra d x t s
  | .min d x t => Sys2Proof.Machine.execMin d x t s
  | .max d x t => Sys2Proof.Machine.execMax d x t s
  | .minu d x t => Sys2Proof.Machine.execMinu d x t s
  | .maxu d x t => Sys2Proof.Machine.execMaxu d x t s
  | .stemSel d q x t => Sys2Proof.Machine.execStemSel d q x t s
  | .addi d x imm0 => Sys2Proof.Machine.execAddi d x imm0 s
  | .andi d x imm0 => Sys2Proof.Machine.execAndi d x imm0 s
  | .ori d x imm0 => Sys2Proof.Machine.execOri d x imm0 s
  | .xori d x imm0 => Sys2Proof.Machine.execXori d x imm0 s
  | .shli d x n => Sys2Proof.Machine.execShli d x n s
  | .shri d x n => Sys2Proof.Machine.execShri d x n s
  | .srai d x n => Sys2Proof.Machine.execSrai d x n s
  | .movi d imm0 => Sys2Proof.Machine.execMovi d imm0 s
  | .movk d k imm0 => Sys2Proof.Machine.execMovk d k imm0 s
  | .cmp q c x t => Sys2Proof.Machine.execCmp q c x t s
  | .cmpi q c x imm0 => Sys2Proof.Machine.execCmpi q c x imm0 s
  | .padd d x t => Sys2Proof.Machine.execPadd d x t s
  | .paddi d x imm0 => Sys2Proof.Machine.execPaddi d x imm0 s
  | .prst d x m => Sys2Proof.Machine.execPrst d x m s
  | .psize d x => Sys2Proof.Machine.execPsize d x s
  | .sld d x imm0 => Sys2Proof.Machine.execSld d x imm0 s
  | .sst d x imm0 => Sys2Proof.Machine.execSst d x imm0 s
  | .br q n disp => Sys2Proof.Machine.execBr q n disp s
  | .jmp disp => Sys2Proof.Machine.execJmp disp s
  | .call disp => Sys2Proof.Machine.execCall disp s
  | .ret x => Sys2Proof.Machine.execRet x s
  | .loop c disp => Sys2Proof.Machine.execLoop c disp s
  | .lrun off => Sys2Proof.Machine.execLrun off s
  | .rfal d v => Sys2Proof.Machine.execRfal d v s
  | .voteAny d p => Sys2Proof.Machine.execVoteAny d p s
  | .voteAll d p => Sys2Proof.Machine.execVoteAll d p s
  | .voteUniform d p => Sys2Proof.Machine.execVoteUniform d p s
  | .sread d n => Sys2Proof.Machine.execSread d n s
  | .swriteFaultCode x => Sys2Proof.Machine.execSwriteFaultCode x s
  | .swriteFaultAddr x => Sys2Proof.Machine.execSwriteFaultAddr x s
  | .swriteLease x => Sys2Proof.Machine.execSwriteLease x s
  | .trap code => Sys2Proof.Machine.execTrap code s
  | .srsd x => Sys2Proof.Machine.execSrsd x s
  | .strmBind w x => Sys2Proof.Machine.execStrmBind w x s
  | .strmJoin wa wb => Sys2Proof.Machine.execStrmJoin wa wb s
  | .cp b m => Sys2Proof.Machine.execCp b m s
  | .cp2 b m => Sys2Proof.Machine.execCp2 b m s
  | .gth b m => Sys2Proof.Machine.execGth b m s
  | .qjoin m => Sys2Proof.Machine.execQjoin m s
  | .waita b c sp => Sys2Proof.Machine.execWaita b c sp s
  | .task b => Sys2Proof.Machine.execTask b s
  | .tgraph b => Sys2Proof.Machine.execTgraph b s
  | .tgraphResume b => Sys2Proof.Machine.execTgraphResume b s
  | .bar t => Sys2Proof.Machine.execBar t s
  | .wgbar => Sys2Proof.Machine.execWgbar s
  | .txbExp x t => Sys2Proof.Machine.execTxbExp x t s
  | .txbArr x => Sys2Proof.Machine.execTxbArr x s
  | .txbWait x t => Sys2Proof.Machine.execTxbWait x t s
  | .srmodeCache bank => Sys2Proof.Machine.execSrmodeCache bank s
  | .srmodeScratch bank => Sys2Proof.Machine.execSrmodeScratch bank s
  | .srmodeFifo bank => Sys2Proof.Machine.execSrmodeFifo bank s
  | .obres b units ob => Sys2Proof.Machine.execObres b units ob s
  | .obrel ob => Sys2Proof.Machine.execObrel ob s
  | .obfill b ob => Sys2Proof.Machine.execObfill b ob s
  | .mx b k bsp asrc acc wide tile => Sys2Proof.Machine.execMx b k bsp asrc acc wide tile s
  | .mxwait tile => Sys2Proof.Machine.execMxwait tile s
  | .mxwaitAll => Sys2Proof.Machine.execMxwaitAll s
  | .grow n => Sys2Proof.Machine.execGrow n s
  | .shrink n => Sys2Proof.Machine.execShrink n s
  | .xset x limit base => Sys2Proof.Machine.execXset x limit base s
  | .mqpush b slot wait => Sys2Proof.Machine.execMqpush b slot wait s
  | .mqpop b slot wait => Sys2Proof.Machine.execMqpop b slot wait s
  | .mredFadd b slot => Sys2Proof.Machine.execMredFadd b slot s
  | .mredBfadd b slot => Sys2Proof.Machine.execMredBfadd b slot s
  | .mredIadd b slot => Sys2Proof.Machine.execMredIadd b slot s
  | .mredFmax b slot => Sys2Proof.Machine.execMredFmax b slot s
  | .mredFmin b slot => Sys2Proof.Machine.execMredFmin b slot s
  | .kload b => Sys2Proof.Machine.execKload b s
  | .kdrop p h => Sys2Proof.Machine.execKdrop p h s
  | .iadd w => Sys2Proof.Machine.execIadd w s
  | .isub w => Sys2Proof.Machine.execIsub w s
  | .imul w => Sys2Proof.Machine.execImul w s
  | .imad w => Sys2Proof.Machine.execImad w s
  | .imulh w => Sys2Proof.Machine.execImulh w s
  | .imin w => Sys2Proof.Machine.execImin w s
  | .imax w => Sys2Proof.Machine.execImax w s
  | .iabs w => Sys2Proof.Machine.execIabs w s
  | .and w => Sys2Proof.Machine.execAnd w s
  | .or w => Sys2Proof.Machine.execOr w s
  | .xor w => Sys2Proof.Machine.execXor w s
  | .shl w => Sys2Proof.Machine.execShl w s
  | .shr w => Sys2Proof.Machine.execShr w s
  | .sra w => Sys2Proof.Machine.execSra w s
  | .rot w => Sys2Proof.Machine.execRot w s
  | .clz w => Sys2Proof.Machine.execClz w s
  | .popc w => Sys2Proof.Machine.execPopc w s
  | .brev w => Sys2Proof.Machine.execBrev w s
  | .bfe w => Sys2Proof.Machine.execBfe w s
  | .bfi w => Sys2Proof.Machine.execBfi w s
  | .icmp w => Sys2Proof.Machine.execIcmp w s
  | .sel w => Sys2Proof.Machine.execSel w s
  | .mov w => Sys2Proof.Machine.execMov w s
  | .moviLane c ty d imm => Sys2Proof.Machine.execMoviLane c ty d imm s
  | .idp4 w => Sys2Proof.Machine.execIdp4 w s
  | .plop w => Sys2Proof.Machine.execPlop w s
  | .fadd w => Sys2Proof.Machine.execFadd w s
  | .fsub w => Sys2Proof.Machine.execFsub w s
  | .fmul w => Sys2Proof.Machine.execFmul w s
  | .ffma w => Sys2Proof.Machine.execFfma w s
  | .fmin w => Sys2Proof.Machine.execFmin w s
  | .fmax w => Sys2Proof.Machine.execFmax w s
  | .fcmp w => Sys2Proof.Machine.execFcmp w s
  | .fclass w => Sys2Proof.Machine.execFclass w s
  | .frcp w => Sys2Proof.Machine.execFrcp w s
  | .frsq w => Sys2Proof.Machine.execFrsq w s
  | .fsqrt w => Sys2Proof.Machine.execFsqrt w s
  | .fdiv w => Sys2Proof.Machine.execFdiv w s
  | .fex2 w => Sys2Proof.Machine.execFex2 w s
  | .flg2 w => Sys2Proof.Machine.execFlg2 w s
  | .fsin w => Sys2Proof.Machine.execFsin w s
  | .fcos w => Sys2Proof.Machine.execFcos w s
  | .fdot2 w => Sys2Proof.Machine.execFdot2 w s
  | .fcvt w => Sys2Proof.Machine.execFcvt w s
  | .f2i w => Sys2Proof.Machine.execF2i w s
  | .i2f w => Sys2Proof.Machine.execI2f w s
  | .pbq w => Sys2Proof.Machine.execPbq w s
  | .pbqScale w => Sys2Proof.Machine.execPbqScale w s
  | .pbdq w => Sys2Proof.Machine.execPbdq w s
  | .bra c s1 disp recdisp => Sys2Proof.Machine.execBra c s1 disp recdisp s
  | .join w => Sys2Proof.Machine.execJoin w s
  | .lend w => Sys2Proof.Machine.execLend w s
  | .lexit w => Sys2Proof.Machine.execLexit w s
  | .ltrap w => Sys2Proof.Machine.execLtrap w s
  | .lbrk w => Sys2Proof.Machine.execLbrk w s
  | .ldg w => Sys2Proof.Machine.execLdg w s
  | .stg w => Sys2Proof.Machine.execStg w s
  | .stnt w => Sys2Proof.Machine.execStnt w s
  | .ldp w => Sys2Proof.Machine.execLdp w s
  | .stp w => Sys2Proof.Machine.execStp w s
  | .ldl w => Sys2Proof.Machine.execLdl w s
  | .stl w => Sys2Proof.Machine.execStl w s
  | .ldk w => Sys2Proof.Machine.execLdk w s
  | .pref w => Sys2Proof.Machine.execPref w s
  | .fpush w => Sys2Proof.Machine.execFpush w s
  | .fpop w => Sys2Proof.Machine.execFpop w s
  | .atomAdd w => Sys2Proof.Machine.execAtomAdd w s
  | .atomAnd w => Sys2Proof.Machine.execAtomAnd w s
  | .atomOr w => Sys2Proof.Machine.execAtomOr w s
  | .atomXor w => Sys2Proof.Machine.execAtomXor w s
  | .atomMin w => Sys2Proof.Machine.execAtomMin w s
  | .atomMax w => Sys2Proof.Machine.execAtomMax w s
  | .atomExch w => Sys2Proof.Machine.execAtomExch w s
  | .atomFadd w => Sys2Proof.Machine.execAtomFadd w s
  | .atomFmin w => Sys2Proof.Machine.execAtomFmin w s
  | .atomFmax w => Sys2Proof.Machine.execAtomFmax w s
  | .acas w => Sys2Proof.Machine.execAcas w s
  | .lr w => Sys2Proof.Machine.execLr w s
  | .sc w => Sys2Proof.Machine.execSc w s
  | .atompAdd w => Sys2Proof.Machine.execAtompAdd w s
  | .atompAnd w => Sys2Proof.Machine.execAtompAnd w s
  | .atompOr w => Sys2Proof.Machine.execAtompOr w s
  | .atompXor w => Sys2Proof.Machine.execAtompXor w s
  | .atompMin w => Sys2Proof.Machine.execAtompMin w s
  | .atompMax w => Sys2Proof.Machine.execAtompMax w s
  | .atompExch w => Sys2Proof.Machine.execAtompExch w s
  | .atompFadd w => Sys2Proof.Machine.execAtompFadd w s
  | .atompFmin w => Sys2Proof.Machine.execAtompFmin w s
  | .atompFmax w => Sys2Proof.Machine.execAtompFmax w s
  | .nbrLeft w => Sys2Proof.Machine.execNbrLeft w s
  | .nbrRight w => Sys2Proof.Machine.execNbrRight w s
  | .shfl w => Sys2Proof.Machine.execShfl w s
  | .xput w => Sys2Proof.Machine.execXput w s
  | .bcst w => Sys2Proof.Machine.execBcst w s
  | .scanAdd w => Sys2Proof.Machine.execScanAdd w s
  | .scanMin w => Sys2Proof.Machine.execScanMin w s
  | .scanMax w => Sys2Proof.Machine.execScanMax w s
  | .scanAnd w => Sys2Proof.Machine.execScanAnd w s
  | .scanOr w => Sys2Proof.Machine.execScanOr w s
  | .scanXor w => Sys2Proof.Machine.execScanXor w s
  | .scanChain w => Sys2Proof.Machine.execScanChain w s
  | .redAdd w => Sys2Proof.Machine.execRedAdd w s
  | .redMin w => Sys2Proof.Machine.execRedMin w s
  | .redMax w => Sys2Proof.Machine.execRedMax w s
  | .redAnd w => Sys2Proof.Machine.execRedAnd w s
  | .redOr w => Sys2Proof.Machine.execRedOr w s
  | .redXor w => Sys2Proof.Machine.execRedXor w s
  | .votelAny w => Sys2Proof.Machine.execVotelAny w s
  | .votelAll w => Sys2Proof.Machine.execVotelAll w s
  | .votelUniform w => Sys2Proof.Machine.execVotelUniform w s
  | .votelBallot w => Sys2Proof.Machine.execVotelBallot w s
  | .matchT w => Sys2Proof.Machine.execMatchT w s
  | .femkTest w => Sys2Proof.Machine.execFemkTest w s
  | .femkEmpty w => Sys2Proof.Machine.execFemkEmpty w s
  | .femkFull w => Sys2Proof.Machine.execFemkFull w s
  | .xmovSet w => Sys2Proof.Machine.execXmovSet w s
  | .xmovAdd w => Sys2Proof.Machine.execXmovAdd w s
  | .xmovRead w => Sys2Proof.Machine.execXmovRead w s
  | .sreadlThread w => Sys2Proof.Machine.execSreadlThread w s
  | .sreadlPair w => Sys2Proof.Machine.execSreadlPair w s
  | .sreadlFlags w => Sys2Proof.Machine.execSreadlFlags w s
  | .sreadlFlagsclr w => Sys2Proof.Machine.execSreadlFlagsclr w s
  | .zmov w => Sys2Proof.Machine.execZmov w s
  | .zld w => Sys2Proof.Machine.execZld w s
  | .grft c s1 mask region slot fb => Sys2Proof.Machine.execGrft c s1 mask region slot fb s
  | .gret c => Sys2Proof.Machine.execGret c s
  | .partcreate v p => Sys2Proof.Machine.execPartcreate v p s
  | .rootset v part ptr => Sys2Proof.Machine.execRootset v part ptr s
  | .partset v part p => Sys2Proof.Machine.execPartset v part p s
  | .localset v part base count size => Sys2Proof.Machine.execLocalset v part base count size s
  | .sysmark v part on => Sys2Proof.Machine.execSysmark v part on s
  | .partdestroy v part => Sys2Proof.Machine.execPartdestroy v part s
  | .dirset v part base count => Sys2Proof.Machine.execDirset v part base count s
  | .logset v part base size ans cons => Sys2Proof.Machine.execLogset v part base size ans cons s
  | .objinv v part obj page => Sys2Proof.Machine.execObjinv v part obj page s
  | .pmigrate v part obj page alt frame => Sys2Proof.Machine.execPmigrate v part obj page alt frame s
  | .podset v order pkg => Sys2Proof.Machine.execPodset v order pkg s
  | .podtransport v port base size => Sys2Proof.Machine.execPodtransport v port base size s
  | .podwin v part port base size => Sys2Proof.Machine.execPodwin v part port base size s
  | .podstat a => Sys2Proof.Machine.execPodstat a s
  | .graftmap v part rpkg rpart => Sys2Proof.Machine.execGraftmap v part rpkg rpart s
  | .hmapget v stack => Sys2Proof.Machine.execHmapget v stack s
  | .hmapset v stack value => Sys2Proof.Machine.execHmapset v stack value s
  | .ctxset v part base size => Sys2Proof.Machine.execCtxset v part base size s
  | .preempt v part rcb => Sys2Proof.Machine.execPreempt v part rcb s
  | .resume v part rcb => Sys2Proof.Machine.execResume v part rcb s
  | .haltedGroupResume v g => Sys2Proof.Machine.execHaltedGroupResume v g s
  | .haltedGroupKill v g => Sys2Proof.Machine.execHaltedGroupKill v g s
  | .moduleRestore v m => Sys2Proof.Machine.execModuleRestore v m s
  | .sapling v => Sys2Proof.Machine.execSapling v s
  | .memtest v stack r => Sys2Proof.Machine.execMemtest v stack r s
  | .linktest v port r => Sys2Proof.Machine.execLinktest v port r s
  | .spareset v u => Sys2Proof.Machine.execSpareset v u s
  | .spareget v => Sys2Proof.Machine.execSpareget v s
  | .wearget v => Sys2Proof.Machine.execWearget v s
  | .powercap v watts => Sys2Proof.Machine.execPowercap v watts s
  | .mailboxReset v r => Sys2Proof.Machine.execMailboxReset v r s
  | .getTdispVersion tdi => Sys2Proof.Machine.execGetTdispVersion tdi s
  | .getTdispCapabilities tdi => Sys2Proof.Machine.execGetTdispCapabilities tdi s
  | .lockInterfaceRequest tdi => Sys2Proof.Machine.execLockInterfaceRequest tdi s
  | .getDeviceInterfaceReport tdi => Sys2Proof.Machine.execGetDeviceInterfaceReport tdi s
  | .getDeviceInterfaceState tdi => Sys2Proof.Machine.execGetDeviceInterfaceState tdi s
  | .startInterfaceRequest tdi => Sys2Proof.Machine.execStartInterfaceRequest tdi s
  | .stopInterfaceRequest tdi => Sys2Proof.Machine.execStopInterfaceRequest tdi s
  | .getVersion => Sys2Proof.Machine.execGetVersion s
  | .getCapabilities => Sys2Proof.Machine.execGetCapabilities s
  | .negotiateAlgorithms o => Sys2Proof.Machine.execNegotiateAlgorithms o s
  | .getDigests => Sys2Proof.Machine.execGetDigests s
  | .getCertificate slot => Sys2Proof.Machine.execGetCertificate slot s
  | .challenge slot nonce => Sys2Proof.Machine.execChallenge slot nonce s
  | .getMeasurements index tdi => Sys2Proof.Machine.execGetMeasurements index tdi s
  | .keyExchange sess => Sys2Proof.Machine.execKeyExchange sess s
  | .finish sess ok => Sys2Proof.Machine.execFinish sess ok s
  | .keyUpdate sess => Sys2Proof.Machine.execKeyUpdate sess s
  | .heartbeat sess => Sys2Proof.Machine.execHeartbeat sess s
  | .endSession sess => Sys2Proof.Machine.execEndSession sess s
  | .ideKm t key => Sys2Proof.Machine.execIdeKm t key s
  | .podKeyRotation port dir => Sys2Proof.Machine.execPodKeyRotation port dir s
  | .keySlotRetire port dir => Sys2Proof.Machine.execKeySlotRetire port dir s
  | .barWrite part addr bytes => Sys2Proof.Machine.execBarWrite part addr bytes s
  | .taskTake part rcb => Sys2Proof.Machine.execTaskTake part rcb s
  | .taskListReread part rcb => Sys2Proof.Machine.execTaskListReread part rcb s
  | .placementAttempt p => Sys2Proof.Machine.execPlacementAttempt p s
  | .backoffExpiry cid => Sys2Proof.Machine.execBackoffExpiry cid s
  | .taskCompletion tid => Sys2Proof.Machine.execTaskCompletion tid s
  | .nodeLaunch graph node => Sys2Proof.Machine.execNodeLaunch graph node s
  | .nodeComplete graph node => Sys2Proof.Machine.execNodeComplete graph node s
  | .issueArbitration core lane => Sys2Proof.Machine.execIssueArbitration core lane s
  | .leafRunStart gid => Sys2Proof.Machine.execLeafRunStart gid s
  | .leafFill gid slot => Sys2Proof.Machine.execLeafFill gid slot s
  | .fillArrival gid reg thread => Sys2Proof.Machine.execFillArrival gid reg thread s
  | .chainReadFill gid reg thread => Sys2Proof.Machine.execChainReadFill gid reg thread s
  | .growDeadlockEviction core => Sys2Proof.Machine.execGrowDeadlockEviction core s
  | .growReadmission gid lane => Sys2Proof.Machine.execGrowReadmission gid lane s
  | .tableWalk core part obj page => Sys2Proof.Machine.execTableWalk core part obj page s
  | .pageRequestRecord part obj page tag => Sys2Proof.Machine.execPageRequestRecord part obj page tag s
  | .consaddrWrite part count => Sys2Proof.Machine.execConsaddrWrite part count s
  | .pageAnswer part tag w => Sys2Proof.Machine.execPageAnswer part tag w s
  | .clusterSwitchOut cid => Sys2Proof.Machine.execClusterSwitchOut cid s
  | .migrationCopyEnd part obj page => Sys2Proof.Machine.execMigrationCopyEnd part obj page s
  | .ptsIdleAdvance core => Sys2Proof.Machine.execPtsIdleAdvance core s
  | .timestampWrapAdjust => Sys2Proof.Machine.execTimestampWrapAdjust s
  | .lrReservationExpiry gid thread => Sys2Proof.Machine.execLrReservationExpiry gid thread s
  | .stntPerform gid k => Sys2Proof.Machine.execStntPerform gid k s
  | .fifoRequestServe grove bank pop => Sys2Proof.Machine.execFifoRequestServe grove bank pop s
  | .waitaReread gid => Sys2Proof.Machine.execWaitaReread gid s
  | .txbWaitReread gid => Sys2Proof.Machine.execTxbWaitReread gid s
  | .routeTagRelease tid tag => Sys2Proof.Machine.execRouteTagRelease tid tag s
  | .engineOpStart grove q => Sys2Proof.Machine.execEngineOpStart grove q s
  | .engineOpPerformed grove q => Sys2Proof.Machine.execEngineOpPerformed grove q s
  | .txbDecrement grove q n => Sys2Proof.Machine.execTxbDecrement grove q n s
  | .obFillComplete core ob => Sys2Proof.Machine.execObFillComplete core ob s
  | .matrixArbitration grove => Sys2Proof.Machine.execMatrixArbitration grove s
  | .passRetire grove pass => Sys2Proof.Machine.execPassRetire grove pass s
  | .streamOpSend sid => Sys2Proof.Machine.execStreamOpSend sid s
  | .streamOpArrival m head src => Sys2Proof.Machine.execStreamOpArrival m head src s
  | .streamClose m head sid => Sys2Proof.Machine.execStreamClose m head sid s
  | .streamAck sid seq => Sys2Proof.Machine.execStreamAck sid seq s
  | .streamCtxTimeout m head sid => Sys2Proof.Machine.execStreamCtxTimeout m head sid s
  | .backInvalidate port line => Sys2Proof.Machine.execBackInvalidate port line s
  | .mqpopRetry gid => Sys2Proof.Machine.execMqpopRetry gid s
  | .relayForward m msg => Sys2Proof.Machine.execRelayForward m msg s
  | .portTraining port m head => Sys2Proof.Machine.execPortTraining port m head s
  | .moduleFatalError m => Sys2Proof.Machine.execModuleFatalError m s
  | .moduleLinkTimeout port => Sys2Proof.Machine.execModuleLinkTimeout port s
  | .moduleLossNotice m => Sys2Proof.Machine.execModuleLossNotice m s
  | .budSend core => Sys2Proof.Machine.execBudSend core s
  | .budArrival die recv b => Sys2Proof.Machine.execBudArrival die recv b s
  | .budQueueTimeout b => Sys2Proof.Machine.execBudQueueTimeout b s
  | .hostGroupStart die recv core lane => Sys2Proof.Machine.execHostGroupStart die recv core lane s
  | .returnApply b => Sys2Proof.Machine.execReturnApply b s
  | .refusalNotice b => Sys2Proof.Machine.execRefusalNotice b s
  | .hostGroupOverrun gid => Sys2Proof.Machine.execHostGroupOverrun gid s
  | .rootNodeBind graph node => Sys2Proof.Machine.execRootNodeBind graph node s
  | .rootBurstArrival b => Sys2Proof.Machine.execRootBurstArrival b s
  | .rootNodeComplete graph node => Sys2Proof.Machine.execRootNodeComplete graph node s
  | .hbmColumnCommand stack ch pc => Sys2Proof.Machine.execHbmColumnCommand stack ch pc s
  | .bulkStarvationRelief stack ch pc => Sys2Proof.Machine.execBulkStarvationRelief stack ch pc s
  | .clusterSave cid => Sys2Proof.Machine.execClusterSave cid s
  | .safepointWatchdog cid => Sys2Proof.Machine.execSafepointWatchdog cid s
  | .powerCapHold watts => Sys2Proof.Machine.execPowerCapHold watts s
  | .thermalHold die temp => Sys2Proof.Machine.execThermalHold die temp s
  | .thermalTrip die temp => Sys2Proof.Machine.execThermalTrip die temp s
  | .packageReset r => Sys2Proof.Machine.execPackageReset r s
  | .wearCounterUpdate r => Sys2Proof.Machine.execWearCounterUpdate r s
  | .reservedWord w => Sys2Proof.Machine.execReservedWord w s
  | .stemFetch => Sys2Proof.Machine.execStemFetch s
  | .debugRead privileged w => Sys2Proof.Machine.execDebugRead privileged w s
  | .tdispError tdi => Sys2Proof.Machine.execTdispError tdi s
  | .integrityFailure port => Sys2Proof.Machine.execIntegrityFailure port s
  | .headLossReport m head lost => Sys2Proof.Machine.execHeadLossReport m head lost s

end Sys2Proof.Machine
end

