-- ==== Sys2Proof/Machine/Ready.lean ====
section
/-! DEFINITION. Which leaf slots of a lane would wait under R112 (R186, R188): each is tried, without effect, before the
lane arbitrates. -/
namespace Sys2Proof.Machine

/-- The instruction at a leaf slot tried: whether it would wait (R112 steps 2 and 4), and whether the rules of memory order
hold it back (R217, R337, R343). -/
def State.wouldWait (s : State) (gid k : Nat) : Bool × Bool :=
  match SMap.find? s.groups gid with
  | none => (false, false)
  | some g =>
    match (g.slot k).map g.leafWord with
    | some (.instr _ next i) =>
      match exec i { s.modGroup gid (fun g => { g with stuck := [], behind := [] }) with cur := some (.leaf gid k next) } with
      | .next s => ((SMap.find? s.groups gid).map (fun g => (g.stuck.contains k, g.behind.contains k))).getD (false, false)
      | _ => (false, false)
    | _ => (false, false)

/-- The leaf slots of a lane's groups that would wait or are held back are noted (R186). -/
def State.noteStuck (s : State) (core lane : Nat) : State :=
  (s.onLane core lane).foldl (fun s e =>
    let s := (if s.slotOpen core lane then s.startPend e.1 else s).passPadding e.1
    match SMap.find? s.groups e.1 with
    | none => s
    | some g =>
      let found := if s.mayIssue g then [0, 1].map (fun k => (k, s.wouldWait e.1 k)) else []
      s.modGroup e.1 (fun g => { g with
        stuck := (found.filter (fun x => x.2.1)).map (·.1), behind := (found.filter (fun x => x.2.2)).map (·.1) })) s

/-- The state in which an event takes place: a lane's readiness is found before it arbitrates (R186). -/
def State.readied (s : State) (i : Instr) : State :=
  match i with
  | .issueArbitration core lane => if s.slotOpen core lane then s.noteStuck core lane else s
  | _ => s

end Sys2Proof.Machine
end

