-- ==== Sys2Proof/Machine/Step.lean ====
section
/-! DEFINITION. One step of the machine: the party chosen by the state acts. A stem word is fetched, decoded and
executed; a leaf instruction that arbitration chose executes; a turn of the schedule is an issue of a stem unit, an
event, or a cache's drop (log entry 2). -/
namespace Sys2Proof.Machine

/-- The stem word of a group executes. -/
def stepStem (gid : Nat) (s : State) : Host.Outcome State Fault Refusal := exec (s.stemWord gid).1 (s.stemWord gid).2

/-- The leaf instruction that arbitration chose executes (R187). -/
def stepLeaf (gid slot : Nat) (s : State) : Host.Outcome State Fault Refusal :=
  match s.leafNext gid slot with
  | some (_, i) => exec i s
  | none => .next { s with cur := none }

/-- What a turn of the schedule does. -/
def stepTurn (a : Act) (s : State) : Host.Outcome State Fault Refusal :=
  match a with
  | .stem core =>
    match s.pickStem core with
    | some (gid, s) => stepStem gid { s with cur := some (.stem gid) }
    | none => .next s
  | .event i => if isEvent i then exec i (s.readied i) else .next s
  | .dropL1 core line => .next (s.dropCopyL1 core line)
  | .dropGrove grove line => .next (s.dropCopyGrove grove line)
  | .dropOtlb core key => .next (s.dropOtlb core key)
  | .dropPort die key => .next (s.dropPort die key)
  | .dropCode gid off => .next (s.dropCode gid off)

/-- One step of the machine. -/
def step (s : State) : Host.Outcome State Fault Refusal :=
  match s.cur with
  | some (.stem gid) => stepStem gid s
  | some (.leaf gid slot _) => stepLeaf gid slot s
  | none =>
    match s.schedule with
    | t :: r => stepTurn t.act (({ s with schedule := r } : State).pass t.dt)
    | [] =>
      let s := s.pass 1
      match s.defaultParty with
      | some (gid, s) => stepStem gid { s with cur := some (.stem gid) }
      | none => .next s

/-- The state with a word where the next step fetches its instruction. Words of other widths than a stem word's are no
instruction of the table. -/
def State.withFetchWord (s : State) (_nbits w : Nat) : State := s.installWord (BitVec.ofNat 32 w)

end Sys2Proof.Machine
end

