-- ==== Sys2Proof/Safety.lean ====
section
/-! DEFINITION. What a run must keep (the canonical form of every memory, and no stop), and the situations in which
claims speak of an instruction: a group at its stem word, a group at an instruction of a leaf slot, a command that its
mailbox range may give. -/
namespace Sys2Proof.Machine

/-- A memory is in its canonical form: addresses strictly rising, no entry of zero. -/
abbrev Memory.wf (m : SMap Byte) : Bool := SMap.wf 0 m

/-- Every memory of the machine is in its canonical form. -/
def State.memWf (s : State) : Bool :=
  Memory.wf s.hbm && Memory.wf s.hostMem && Memory.wf s.modMem && Memory.wf s.sram

/-- The party that the state has chosen is there: the group of a stem word, or a group with a run and a path in the slot
whose instruction arbitration chose. -/
def State.partyOk (s : State) : Bool :=
  match s.cur with
  | none => true
  | some (.stem gid) => (SMap.find? s.groups gid).isSome
  | some (.leaf gid slot _) =>
    match SMap.find? s.groups gid with
    | some g => g.run.isSome && (g.slot slot).isSome
    | none => false

/-- Every byte of every memory reads as before, under every key. -/
def SameBytes (s t : State) : Prop :=
  (∀ k a, t.hbmByte k a = s.hbmByte k a) ∧ (∀ a, t.sramByte a = s.sramByte a)
    ∧ (∀ k m a, t.modByte k m a = s.modByte k m a) ∧ ∀ a, SMap.get 0 t.hostMem a = SMap.get 0 s.hostMem a

/-- Everything of a state that lies outside the groups, the memories and the choice of the party is as before. -/
def SameOutside (s t : State) : Prop :=
  t.cores = s.cores ∧ t.groves = s.groves ∧ t.dies = s.dies ∧ t.parts = s.parts ∧ t.tasks = s.tasks
    ∧ t.clusters = s.clusters ∧ t.streams = s.streams ∧ t.graphs = s.graphs ∧ t.roots = s.roots ∧ t.lines = s.lines
    ∧ t.resvs = s.resvs ∧ t.budsOut = s.budsOut ∧ t.crown = s.crown

/-- A run of `k` steps stops nowhere. -/
def runsOn : Nat → State → Bool
  | 0, _ => true
  | k + 1, s =>
    match step s with
    | .next t => runsOn k t
    | .fault _ => false
    | .refused _ => false

/-! ## Stem words -/

/-- The machine with no party chosen, as it stands while an instruction executes. -/
def State.freed (s : State) : State := { s with cur := none }

/-- The word of group `gid` executes, and no held fault comes before it (R273). -/
def StemReady (s : State) (gid : Nat) (g : Group) : Prop :=
  s.cur = some (.stem gid) ∧ SMap.find? s.groups gid = some g ∧ g.dueHeld = none

/-- A group whose stem word, issued in cycle `c`, is complete (R77, R78): it stands at the next word, waits for nothing,
and its next word is ready in the next cycle. -/
def Group.stemDone (g : Group) (c : Nat) : Group := g.stemMove (pcPlus g.pc 4) c 1

/-- A group that its stem word, issued in cycle `c`, sends to another address (R91); the word there is ready 2 cycles
later (R77). -/
def Group.stemAt (g : Group) (pc : Word) (c : Nat) : Group := g.stemMove pc c 2

/-- The machine after a stem word that changed nothing but its group, to `g` before the word ends. -/
def State.stemDone (s : State) (gid : Nat) (g : Group) : State := s.freed.putGroup gid (g.stemDone s.cycle)

/-- The machine after the stem word of group `gid`, which stood as `g`, has done `s'` and ends (R78). -/
def State.stemEnd (s' : State) (gid : Nat) (g : Group) : State := s'.stemPass gid g.pc

/-- The machine after the stem word of group `gid` has done `s'` and waits where it stands: it has issued, and the stem
unit of its core is free for other groups (R77). -/
def State.stemWait (s' : State) (gid : Nat) : State := s'.modGroup gid (fun g => g.stemHold s'.cycle)

/-- What a fault of a stem word in cycle `c` leaves of its group when the policy goes on (R81, R408): the code and the
address of the word, and nothing else but that the word is complete. -/
def Group.stemFaulted (g : Group) (f : FaultInfo) (c : Nat) : Group :=
  ({ g with faultCode := f.word, faultAddr := f.addr } : Group).stemDone c

/-- A fault of the group goes on under its domain's policy (R408): its task and its cluster are there. -/
def FaultGoesOn (s : State) (g : Group) : Prop :=
  ∃ t c, SMap.find? s.tasks g.tid = some t ∧ SMap.find? s.clusters g.cid = some c ∧ t.eff.policy = 1

/-- The group is privileged (R76): its task was taken from a system partition. -/
def Privileged (s : State) (g : Group) : Prop := ∃ t, SMap.find? s.tasks g.tid = some t ∧ t.privileged = true

/-- A queue word whose pointer and slot pass the checks of R346, on pages that are there in one module that has not been
lost: its descriptor names the capacity, the pages the module and the addresses. -/
def QueueReady (s : State) (gid : Nat) (g : Group) (ptr : Word) (slot : Nat) (push : Bool) : Prop :=
  ∃ (pt : Part) (d : Desc) (h : Option Nat) (m a tier : Nat) (as : List Nat) (u v : State),
    SMap.find? s.parts g.part = some pt ∧ s.freed.coreDesc g.coreN g.part (ptrObj ptr) = (.ok d, u)
    ∧ u.findPage (coreDie g.coreN) g pt (ptrObj ptr) d 0 true = (.place (.modul h m a) tier, v) ∧ (tier = 1 ∨ tier = 2)
    ∧ v.redPlaces g pt ptr d ((List.range ((d.size + 65535) / 65536)).map (65536 * ·)) = .ok (.ok (as.map (fun x => (m, x))))
    ∧ d.w = true ∧ d.a = true ∧ (push = true ∨ d.r = true)
    ∧ ptrNA ptr = false ∧ ptrNW ptr = false ∧ keyClass pt d ≠ .open_ ∧ sealFault (keyClass pt d) = none
    ∧ ptrOff ptr = 0 ∧ 72 ≤ d.size ∧ d.size % 8 = 0 ∧ (s.slotStream g slot).isSome = true
    ∧ v.podBlocked gid = false ∧ v.afterRuns gid g = true

/-- A module reduction whose operands pass the checks of R349, on pages that are there: destination and counter in one
module, the source in HBM, the count within its bound, each part inside its object and aligned. -/
def ReductionReady (s : State) (gid : Nat) (g : Group) (b slot esz : Nat) : Prop :=
  let dst := g.areg b
  let src := g.areg (b + 1)
  let n := (g.areg (b + 2)).toNat
  let ctr := g.areg (b + 3)
  let die := coreDie g.coreN
  let at_ (x : Word) (k : Nat) : PostAddr := { at_ := { sp := false, val := x }, rb := k }
  let ps := (redPieces (ptrOff dst) (n + 1) 0 n).map (fun q => ptrOff dst + 4 * q.1)
  ∃ (p : Part) (dd ds dc : Desc) (m : Nat) (as : List Nat) (a : Nat),
    SMap.find? s.parts g.part = some p ∧ s.postDesc g.coreN p { sp := false, val := dst } = .ok (some dd)
    ∧ s.postDesc g.coreN p { sp := false, val := src } = .ok (some ds)
    ∧ s.postDesc g.coreN p { sp := false, val := ctr } = .ok (some dc)
    ∧ s.redPlaces g p dst dd ps = .ok (.ok (as.map (fun x => (m, x))))
    ∧ s.redPlaces g p ctr dc [ptrOff ctr] = .ok (.ok [(m, a)])
    ∧ (∀ t ∈ s.postTiers die p (at_ dst (4 * n)) dd, t = 1 ∨ t = 2) ∧ (∀ t ∈ s.postTiers die p (at_ src (esz * n)) ds, t = 0)
    ∧ (∀ t ∈ s.postTiers die p (at_ ctr 8) dc, t = 1 ∨ t = 2)
    ∧ Xlat.fault .uePoison ∉ s.postPages die p (at_ dst (4 * n)) dd ∧ Xlat.fault .uePoison ∉ s.postPages die p (at_ ctr 8) dc
    ∧ (dd.w && dd.a && !ptrNW dst && !ptrNA dst && !ptrNE dst) = true ∧ (ds.r && ds.e && !ptrNE src) = true
    ∧ (dc.w && dc.a && !ptrNW ctr && !ptrNA ctr && !ptrNE ctr) = true
    ∧ (∀ d ∈ [dd, ds, dc], keyClass p d ≠ .open_ ∧ sealFault (keyClass p d) = none)
    ∧ n ≤ 2 ^ 24 ∧ ptrOff dst + 4 * n ≤ dd.size ∧ ptrOff src + esz * n ≤ ds.size ∧ ptrOff ctr + 8 ≤ dc.size
    ∧ ptrOff dst % 4 = 0 ∧ ptrOff src % esz = 0 ∧ ptrOff ctr % 8 = 0 ∧ (s.slotStream g slot).isSome = true
    ∧ s.podBlocked gid = false ∧ s.afterRuns gid g = true

/-- The machine in which the group's post acts: the group has waited for its leaf runs and for its non-temporal stores
(R200, R324). -/
def State.posting (s : State) (gid : Nat) (g : Group) : State :=
  (s.freed.putGroup gid (g.synced s.cycle)).drainNow gid (g.synced s.cycle)

/-- The group as its post finds it. -/
def Group.posting (g : Group) (c : Nat) : Group := { g.synced c with drainTs := [] }

/-! ## Leaf instructions -/

/-- The threads of a slot's path that take an instruction with some guards (R44): those that a replay still has to
finish, where one is due (R290). -/
def takersOf (g : Group) (slot : Nat) (p : Path) (ctl : Ctl) : Mask :=
  let m := p.mask &&& guardMask g ctl
  match g.redo with
  | some (k, x) => if k = slot then m &&& x else m
  | none => m

/-- An instruction of a slot of group `gid` executes in run `r`: `p` is the slot's path, `next` the offset after the
instruction. -/
def LeafReady (s : State) (gid slot next : Nat) (g : Group) (r : Run) (p : Path) : Prop :=
  s.cur = some (.leaf gid slot next) ∧ SMap.find? s.groups gid = some g ∧ g.run = some r ∧ g.slot slot = some p

/-- What the instruction executes with. -/
def leafCtx (gid slot next : Nat) (g : Group) (p : Path) (ctl : Ctl) : LCtx :=
  { gid, slot, off := p.off, next, takers := takersOf g slot p ctl, mask := p.mask }

/-- The machine after an instruction of a slot that has done `s'` in `n` instruction slots, with the faults `fs`. -/
def State.leafEnd (s' : State) (c : LCtx) (ctl : Ctl) (n : Nat) (fs : List TFault) : State :=
  s'.leafApply c ctl (.done s' n fs)

/-- The same for an instruction that has moved its path itself. -/
def State.leafMoved (s' : State) (c : LCtx) (ctl : Ctl) (fs : List TFault) : State := s'.leafApply c ctl (.moved s' fs)

/-- Each thread of a list, in its order, does a step of its own. -/
inductive EachThread {α : Type} (f : Nat → α → α → Prop) : List Nat → α → α → Prop where
  | nil (x : α) : EachThread f [] x x
  | cons {t : Nat} {ts : List Nat} {x y z : α} : f t x y → EachThread f ts y z → EachThread f (t :: ts) x z

/-- A memory instruction of the global space may issue for some threads (R168, R217, R337, R343): no pod-tier load or
chain read of theirs is outstanding, and no request of theirs at a FIFO bank; and where one of their accesses goes to a
pod tier, no stream of the group is full, and for a load no store of the group to the sector is on its way. -/
def GlobalReady (s : State) (gid : Nat) (g : Group) (ts : List Nat) (load : Bool) (req : Nat → AccReq) : Prop :=
  g.podLoads ts = false ∧ s.fifoWaits gid ts = false ∧
  ∀ t ∈ ts, ∀ pl tier d, (s.freed.checkAccess g.coreN g (req t)).1 = .ok pl tier d → isPod pl = true →
    s.podBlocked gid = false ∧ (load = true → s.ownStoresPend gid pl = false)

/-- The machine after an instruction of a slot for whose threads `ts` the operands are ready, with the faults `fs` of
the others: each of those threads has its result in the destination, and the flags of the results are raised (R112, R118,
R127). -/
def laneDone (s : State) (gid slot next : Nat) (g : Group) (r : Run) (p : Path) (w : Leaf) (ts : List Nat)
    (fs : List TFault) (f : Nat → Word × Flags) : Host.Outcome State Fault Refusal :=
  let c := leafCtx gid slot next g p w.ctl
  .next (s.freed.leafApply c w.ctl (.done (s.freed.putGroup gid (ts.foldl (fun (g1 : Group) t =>
    (g1.writeDest g r w.d t (f t).1).raise (f t).2) ({ g with srseed := srState g c w.rm } : Group))) 1 fs))

/-- The draws by sub-element of thread t for an instruction under `.sr` (R152, R153). -/
def drawsOf (gid slot next : Nat) (g : Group) (p : Path) (w : Leaf) (t : Nat) : Nat → Nat :=
  srDraw (srState g (leafCtx gid slot next g p w.ctl) w.rm) t

/-! ## Commands -/

/-- A command through a range that may give it executes: no reset holds the package (R444), and sapling mode does not
refuse the command (R438). -/
def CommandReady (s : State) (v : Via) (inSapling : Bool) : Prop :=
  s.crown.down = false ∧ s.viaOk v = true ∧ (inSapling = true ∨ s.crown.sapling = false)

end Sys2Proof.Machine
end

