-- ==== Sys2Proof/Certificates/Slice0/Obligations.lean ====
section
/-! DEFINITION. The statements for the provers, and the words they share. Each docstring names the rules of spec/ that
its statement formalises. -/

open Sys2Proof Sys2Proof.Machine

/-! ## Encoding -/

/-- Every stem word that the encoder writes has 32 bits and decodes to its instruction: all operands at every value that
the encoding admits (R34-R41). -/
def Obligations.StemWordDecodesToItsInstruction : Prop :=
  ∀ (i : Instr) (w : Nat), i.wf = true → encodeStem i = some w →
    w < 2 ^ 32 ∧ decodeStem (BitVec.ofNat 32 w) = .ok i

/-- Every stem word that the decoder accepts is the one word of a well-formed instruction: no bit is dropped, no reserved
word passes (R41). -/
def Obligations.AcceptedStemWordIsTheEncodersWord : Prop :=
  ∀ (w : BitVec 32) (i : Instr), decodeStem w = .ok i → i.wf = true ∧ encodeStem i = some w.toNat

/-- A leaf instruction stored in class 10 decodes to itself, with every field (R43-R56). -/
def Obligations.StoredLeafInstructionDecodesToItself : Prop :=
  ∀ (i : Instr) (w : Nat), i.wf = true → encodeLeaf i = some w →
    w < 2 ^ 96 ∧ decodeLeaf w = .ok i ∧ decodeStored 0x80 (leBytes 12 w) = .ok i

/-- The zero-operand group takes the values of fn that R38 lists, and every other value is reserved. Words written out
from the encoding tables and from the spec's own examples decode to what they stand for (R85, R87, R88, R99): a check of
single words. -/
def Obligations.ExampleWordsDecode : Prop :=
  decodeStem 0x00000000#32 = .ok .nop ∧ decodeStem 0x00000007#32 = .ok .gwait
    ∧ decodeStem 0x04221B0F#32 = .ok (.stemSel 1 3 2 3) ∧ decodeStem 0x2862BEEF#32 = .ok (.movk 3 2 0xBEEF)
    ∧ decodeStem 0x30913FFF#32 = .ok (.cmpi 1 .lt 4 (-1)) ∧ decodeStem 0x78000501#32 = .ok (.trap 0x0501)
    ∧ (∀ fn : BitVec 11, ∀ x ∈ [(0, Instr.nop), (1, .safe), (2, .lwait), (3, .drain), (4, .exit), (5, .halt), (6, .brk),
        (7, .gwait)], fn.toNat = x.1 → decodeStem (fn.setWidth 32) = .ok x.2)
    ∧ ∀ fn : BitVec 11, 8 ≤ fn.toNat → ∃ e, decodeStem (fn.setWidth 32) = .error e

/-! ## Arithmetic of the stem (R85-R88) -/

/-- Each stem ALU word writes the result of its row of R85 to a[d], goes to the next word, and changes nothing else.
Each immediate word writes the result of its row of R86, `MOVI` its sign-extended immediate, and `MOVK` sets
a[d][16k+15:16k] to its immediate and keeps every other bit of a[d] (R87). `CMP` and `CMPI` write their condition,
signed or unsigned, to q[q] and change nothing else (R88). Their words, for every value of each field, are those of R85
to R88. -/
def Obligations.StemArithmeticWordsWriteTheirResults : Prop :=
  (∀ (s : State) (gid : Nat) (g : Group) (d x t : BitVec 5) (q : BitVec 3), StemReady s gid g →
      let a := g.areg x.toNat
      let b := g.areg t.toNat
      let n := b.toNat % 64
      let done (v : Word) : Host.Outcome State Fault Refusal := .next (s.stemDone gid (g.setA d.toNat v))
      let later (v : Word) : Host.Outcome State Fault Refusal :=
        .next (s.stemDone gid { g.setA d.toNat v with late := SMap.put g.late d.toNat (s.cycle + 4) })
      exec (.add d x t) s = done (BitVec.ofNat 64 (a.toNat + b.toNat))
      ∧ exec (.sub d x t) s = done (BitVec.ofInt 64 (a.toInt - b.toInt))
      ∧ exec (.mul d x t) s = later (BitVec.ofNat 64 (a.toNat * b.toNat))
      ∧ exec (.mulh d x t) s = later (BitVec.ofInt 64 (a.toInt * b.toInt / 2 ^ 64))
      ∧ exec (.mulhu d x t) s = later (BitVec.ofNat 64 (a.toNat * b.toNat / 2 ^ 64))
      ∧ exec (.stemAnd d x t) s = done (a &&& b)
      ∧ exec (.stemOr d x t) s = done (a ||| b)
      ∧ exec (.stemXor d x t) s = done (a ^^^ b)
      ∧ exec (.stemShl d x t) s = done (BitVec.ofNat 64 (a.toNat * 2 ^ n))
      ∧ exec (.stemShr d x t) s = done (BitVec.ofNat 64 (a.toNat / 2 ^ n))
      ∧ exec (.stemSra d x t) s = done (BitVec.ofInt 64 (a.toInt / 2 ^ n))
      ∧ exec (.min d x t) s = done (if a.toInt ≤ b.toInt then a else b)
      ∧ exec (.max d x t) s = done (if a.toInt ≤ b.toInt then b else a)
      ∧ exec (.minu d x t) s = done (if a.toNat ≤ b.toNat then a else b)
      ∧ exec (.maxu d x t) s = done (if a.toNat ≤ b.toNat then b else a)
      ∧ exec (.stemSel d q x t) s = done (if g.qreg q.toNat then a else b))
  ∧ ((∀ (s : State) (gid : Nat) (g : Group) (d x : BitVec 5) (i : BitVec 16) (n : BitVec 6), StemReady s gid g →
        let a := g.areg x.toNat
        let done (v : Word) : Host.Outcome State Fault Refusal := .next (s.stemDone gid (g.setA d.toNat v))
        exec (.addi d x i) s = done (BitVec.ofInt 64 (a.toInt + i.toInt))
        ∧ exec (.andi d x i) s = done (BitVec.ofNat 64 (a.toNat &&& i.toNat))
        ∧ exec (.ori d x i) s = done (BitVec.ofNat 64 (a.toNat ||| i.toNat))
        ∧ exec (.xori d x i) s = done (BitVec.ofNat 64 (a.toNat ^^^ i.toNat))
        ∧ exec (.shli d x n) s = done (BitVec.ofNat 64 (a.toNat * 2 ^ n.toNat))
        ∧ exec (.shri d x n) s = done (BitVec.ofNat 64 (a.toNat / 2 ^ n.toNat))
        ∧ exec (.srai d x n) s = done (BitVec.ofInt 64 (a.toInt / 2 ^ n.toNat))
        ∧ exec (.movi d i) s = done (BitVec.ofInt 64 i.toInt))
    ∧ (∀ (s : State) (gid : Nat) (g : Group) (d : BitVec 5) (k : BitVec 2) (i : BitVec 16), StemReady s gid g →
        ∃ v : Word, exec (.movk d k i) s = .next (s.stemDone gid (g.setA d.toNat v)) ∧
          ∀ n, n < 64 → v.getLsbD n =
            (if 16 * k.toNat ≤ n ∧ n < 16 * k.toNat + 16 then i.getLsbD (n - 16 * k.toNat) else (g.areg d.toNat).getLsbD n)))
  ∧ (∀ (s : State) (gid : Nat) (g : Group) (q : BitVec 3) (x t : BitVec 5) (i : BitVec 14), StemReady s gid g →
      let a := g.areg x.toNat
      let holds (c : IntCond) (y : Word) : Bool :=
        match c with
        | .eq => decide (a.toNat = y.toNat) | .ne => decide (a.toNat ≠ y.toNat)
        | .lt => decide (a.toInt < y.toInt) | .le => decide (a.toInt ≤ y.toInt)
        | .gt => decide (y.toInt < a.toInt) | .ge => decide (y.toInt ≤ a.toInt)
        | .ltu => decide (a.toNat < y.toNat) | .leu => decide (a.toNat ≤ y.toNat)
        | .gtu => decide (y.toNat < a.toNat) | .geu => decide (y.toNat ≤ a.toNat)
      ∀ c : IntCond,
        exec (.cmp q c x t) s = .next (s.stemDone gid (g.setQ q.toNat (holds c (g.areg t.toNat))))
        ∧ exec (.cmpi q c x i) s = .next (s.stemDone gid (g.setQ q.toNat (holds c (i.signExtend 64)))))
  ∧ ∀ (d x t : BitVec 5) (q : BitVec 3) (i : BitVec 16) (j : BitVec 14) (n : BitVec 6) (k : BitVec 2),
      let is (w : Nat) (y : Instr) : Prop := decodeStem (BitVec.ofNat 32 w) = .ok y
      let sa (op fn : Nat) : Nat := 2 ^ 26 * op + 2 ^ 21 * d.toNat + 2 ^ 16 * x.toNat + 2 ^ 11 * t.toNat + fn
      let si (op imm : Nat) : Nat := 2 ^ 26 * op + 2 ^ 21 * d.toNat + 2 ^ 16 * x.toNat + imm
      is (sa 1 0) (.add d x t) ∧ is (sa 1 1) (.sub d x t) ∧ is (sa 1 2) (.mul d x t) ∧ is (sa 1 3) (.mulh d x t)
      ∧ is (sa 1 4) (.mulhu d x t) ∧ is (sa 1 5) (.stemAnd d x t) ∧ is (sa 1 6) (.stemOr d x t)
      ∧ is (sa 1 7) (.stemXor d x t) ∧ is (sa 1 8) (.stemShl d x t) ∧ is (sa 1 9) (.stemShr d x t)
      ∧ is (sa 1 10) (.stemSra d x t) ∧ is (sa 1 11) (.min d x t) ∧ is (sa 1 12) (.max d x t)
      ∧ is (sa 1 13) (.minu d x t) ∧ is (sa 1 14) (.maxu d x t) ∧ is (sa 1 (2 ^ 8 * q.toNat + 15)) (.stemSel d q x t)
      ∧ is (si 2 i.toNat) (.addi d x i) ∧ is (si 3 i.toNat) (.andi d x i) ∧ is (si 4 i.toNat) (.ori d x i)
      ∧ is (si 5 i.toNat) (.xori d x i) ∧ is (si 6 n.toNat) (.shli d x n) ∧ is (si 7 n.toNat) (.shri d x n)
      ∧ is (si 8 n.toNat) (.srai d x n) ∧ is (2 ^ 26 * 9 + 2 ^ 21 * d.toNat + i.toNat) (.movi d i)
      ∧ is (2 ^ 26 * 10 + 2 ^ 21 * d.toNat + 2 ^ 16 * k.toNat + i.toNat) (.movk d k i)
      ∧ ∀ y ∈ [(0, IntCond.eq), (1, .ne), (2, .lt), (3, .le), (4, .gt), (5, .ge), (6, .ltu), (7, .leu), (8, .gtu),
          (9, .geu)],
        is (2 ^ 26 * 11 + 2 ^ 21 * q.toNat + 2 ^ 16 * x.toNat + 2 ^ 11 * t.toNat + y.1) (.cmp q y.2 x t)
        ∧ is (2 ^ 26 * 12 + 2 ^ 23 * q.toNat + 2 ^ 19 * y.1 + 2 ^ 14 * x.toNat + j.toNat) (.cmpi q y.2 x j)

/-! ## Control of the stem (R78-R100) -/

/-- `BR`, `JMP`, `CALL`, `RET` and `LOOP` send the stem where R91 and R92 say: a displacement moves only bits [39:0] of
the word's address. The word of `LOOP` is that of R92. -/
def Obligations.StemBranchesSetThePc : Prop :=
  ∀ (s : State) (gid : Nat) (g : Group) (q : BitVec 3) (n : Bool) (d22 : BitVec 22) (d21 : BitVec 21) (c x : BitVec 5),
    StemReady s gid g →
    let off : Int := ((g.pc.toNat % 2 ^ 40 : Nat) : Int)
    let at_ (k : Int) : Word :=
      BitVec.ofNat 64 (g.pc.toNat / 2 ^ 40 * 2 ^ 40 + ((off + k) % 2 ^ 40).toNat)
    let goes (g : Group) (pc : Word) : Host.Outcome State Fault Refusal := .next (s.freed.putGroup gid (g.stemAt pc s.cycle))
    let falls (g : Group) : Host.Outcome State Fault Refusal :=
      .next (s.freed.putGroup gid (g.stemMove (at_ 4) s.cycle 1))
    let left := g.areg c.toNat - 1
    exec (.br q n d22) s = (if (g.qreg q.toNat).xor n then goes g (at_ (4 * d22.toInt)) else falls g)
    ∧ exec (.jmp d22) s = goes g (at_ (4 * d22.toInt))
    ∧ exec (.call d22) s = goes (g.setA 31 (at_ 4)) (at_ (4 * d22.toInt))
    ∧ exec (.ret x) s = goes g (g.areg x.toNat)
    ∧ exec (.loop c d21) s = (if left = 0 then falls (g.setA c.toNat left)
        else goes (g.setA c.toNat left) (at_ (4 * d21.toInt)))
    ∧ decodeStem (BitVec.ofNat 32 (2 ^ 26 * 0x18 + 2 ^ 21 * c.toNat + d21.toNat)) = .ok (.loop c d21)

/-- The words that only change their own group complete with the change of their rules: `NOP` none, `SWRITE` the
register (R81, R98), `SRSD` the seed once no run is held (R100), `XSET` base and limit (R108); `SAFE`, `LWAIT` and
`GWAIT` pass when what they wait for is over (R82, R362); a group that has waited for its runs keeps the cycle, for the
stem accesses that follow their accesses (R90). What a stem word waits for keeps it where it stands, with
nothing executed; it has issued, and leaves the stem unit to other groups (R77, R78, R82, R93, R97-R100). -/
def Obligations.PlainControlWordsCompleteOrWait : Prop :=
  (∀ (s : State) (gid : Nat) (g : Group) (x : BitVec 5) (j : BitVec 2) (l : BitVec 8) (b : BitVec 7), StemReady s gid g →
      let a := g.areg x.toNat
      let done (g : Group) : Host.Outcome State Fault Refusal := .next (s.stemDone gid g)
      let idle := g.run = none ∧ g.pend = none
      exec .nop s = done g
      ∧ exec (.swriteFaultCode x) s = done { g with faultCode := BitVec.ofNat 32 a.toNat }
      ∧ exec (.swriteFaultAddr x) s = done { g with faultAddr := a }
      ∧ (a ≠ 0 → exec (.swriteLease x) s =
          done { g with lease := if a.toNat ≤ 255 then BitVec.ofNat 8 a.toNat else 255 })
      ∧ (a = 0 → exec (.swriteLease x) s = done { g with lease := BitVec.ofNat 8 (s.effOf g).lease })
      ∧ (idle → exec (.srsd x) s =
          done { g.synced s.cycle with srseed := if a.toNat % 2 ^ 32 = 0 then 0x6D2B79F5 else BitVec.ofNat 32 a.toNat })
      ∧ exec (.xset j l b) s =
          done { g with x := SMap.put g.x j.toNat { base := b.toNat, limit := l.toNat, fresh := true } }
      ∧ (idle → exec .lwait s = done (g.synced s.cycle))
      ∧ (g.buds = 0 → exec .gwait s = done g)
      ∧ (idle → g.fills = [] → g.buds = 0 → exec .safe s = done (g.synced s.cycle)))
  ∧ (∀ (s : State) (gid : Nat) (g : Group), StemReady s gid g →
      let waits : Host.Outcome State Fault Refusal := .next (s.freed.putGroup gid (g.stemHold s.cycle))
      (g.buds ≠ 0 → exec .gwait s = waits)
      ∧ (g.run.isSome = true ∨ g.pend.isSome = true →
          (∀ i ∈ ([.lwait, .safe, .exit, .sread 0 .srseed, .sread 0 .active] : List Instr), exec i s = waits)
          ∧ (∀ (d : BitVec 5) (p : BitVec 3) (v : BitVec 7) (n : BitVec 5),
              exec (.voteAny d p) s = waits ∧ exec (.voteAll d p) s = waits ∧ exec (.voteUniform d p) s = waits
              ∧ exec (.rfal d v) s = waits ∧ exec (.srsd d) s = waits ∧ exec (.grow n) s = waits
              ∧ exec (.shrink n) s = waits))
      ∧ (g.pend.isSome = true → ∀ off, exec (.lrun off) s = waits))

/-- `SREAD` reads each special register of R79, zero-extended, and completes: PTS as it stands in the cycle of the read
(R306, R309), and SRSEED and ACTIVE once every earlier run has ended. `RFAL` reads the first active thread's register,
`VOTE` the active threads' predicate, and each completes (R96, R97). -/
def Obligations.StemReadsOfSpecialRegistersAndLanes : Prop :=
  (∀ (s : State) (gid : Nat) (g : Group) (k : Task) (c : Cluster) (d : BitVec 5), StemReady s gid g →
      SMap.find? s.tasks g.tid = some k → SMap.find? s.clusters g.cid = some c →
      let core := g.core.getD 0
      let reads (n : SReg) (v : Word) : Prop := exec (.sread d n) s = .next (s.stemDone gid (g.setA d.toNat v))
      let nat (n : SReg) (v : Nat) : Prop := reads n (BitVec.ofNat 64 v)
      nat .group g.idx ∧ nat .wg g.wg ∧ nat .cluster c.idx ∧ nat .ngroups (k.ngm1 + 1)
      ∧ nat .nwg (match k.shape with
          | 0 => 1 | 1 => 2 | 2 => 4 | 3 => 8 | _ => 16)
      ∧ nat .nclusters k.ncl ∧ reads .task k.no ∧ nat .core (core % 4) ∧ nat .grove (core / 4 % 24)
      ∧ nat .die (core / 96) ∧ nat .pkg s.pkg ∧ nat .pts (s.pts core).toNat ∧ nat .cycle s.cycle
      ∧ reads .rcb k.rcb ∧ reads .args k.args ∧ reads .localp (localPtr g.frame)
      ∧ nat .faultCode g.faultCode.toNat ∧ reads .faultAddr g.faultAddr ∧ nat .lease g.lease.toNat
      ∧ (g.run = none → g.pend = none →
          let later (n : SReg) (v : Nat) : Prop :=
            exec (.sread d n) s = .next (s.stemDone gid ((g.synced s.cycle).setA d.toNat (BitVec.ofNat 64 v)))
          later .srseed g.srseed.toNat ∧ later .active g.active.toNat))
  ∧ (∀ (s : State) (gid : Nat) (g : Group) (d : BitVec 5) (v : BitVec 7) (p : BitVec 3), StemReady s gid g →
      g.run = none → g.pend = none →
      let done (x : Word) : Host.Outcome State Fault Refusal :=
        .next (s.stemDone gid ((g.synced s.cycle).setA d.toNat x))
      let act := (List.range 32).filter (fun t => g.active.getLsbD t)
      let holds (t : Nat) : Bool := (g.preg p.toNat).getLsbD t
      let one (b : Bool) : Word := if b then 1 else 0
      (v.toNat < 8 * g.chunks → act = [] → exec (.rfal d v) s = done 0)
      ∧ (∀ t r, v.toNat < 8 * g.chunks → act = t :: r → (g.lreg v.toNat t).fe = .full →
          (g.lreg v.toNat t).mark = none → exec (.rfal d v) s = done (g.lreg v.toNat t).val)
      ∧ exec (.voteAny d p) s = done (one (act.any holds))
      ∧ exec (.voteAll d p) s = done (one (act.all holds))
      ∧ exec (.voteUniform d p) s = done (one (act.all holds || act.all (fun t => !holds t))))

/-- `LRUN` starts a run with a copy of a0 to a31, the index settings and the lease, or makes it pending behind the run
in progress (R93, R94, R98, R108). `HALT` in a privileged group stops it, and the crown controller posts the event
that names it (R84); `EXIT` issues and, once everything it waits for is over, ends the group with its reservations, at
the earliest in the cycle after (R83); `DRAIN` waits for the group's non-temporal stores (R324). -/
def Obligations.RunsStartAndGroupsHaltExitAndDrain : Prop :=
  (∀ (s : State) (gid : Nat) (g : Group) (off : BitVec 21), StemReady s gid g → g.pend = none →
      let r : Run := { off := off.toNat, a := g.a, x := g.x, lease := g.lease }
      ∃ g' : Group, exec (.lrun off) s = .next (s.stemDone gid g') ∧ g'.a = g.a ∧ g'.v = g.v ∧ g'.p = g.p ∧ g'.q = g.q ∧
        (g.run = none → g'.run = some r ∧ g'.pend = none ∧ g'.slot1 = none ∧ g'.stack = []
          ∧ g'.slot0 = some { off := off.toNat, mask := 0xFFFFFFFF, jrec := none })
        ∧ (∀ r0, g.run = some r0 → g'.run = some r0 ∧ g'.pend = some r ∧ g'.slot0 = g.slot0 ∧ g'.slot1 = g.slot1
          ∧ g'.stack = g.stack))
  ∧ ((∀ (s : State) (gid : Nat) (g : Group), StemReady s gid g → Privileged s g →
        exec .halt s = .next ((s.stemDone gid { g with halted := true }).post (.halt (s.nameOf g))))
    ∧ (∀ (s : State) (gid : Nat) (g : Group), StemReady s gid g → g.blocked = false →
        exec .exit s = .next (s.freed.putGroup gid (g.stemHold s.cycle)))
    ∧ (∀ (s : State) (gid : Nat) (g : Group), StemReady s gid g → g.blocked = true → g.issueEnd ≤ s.cycle →
        g.run = none → g.pend = none → g.fills = [] → g.buds = 0 → s.stntsDone gid g = true →
        s.enginePosted gid = false → s.streamPosted gid = false → s.matrixPosted gid = false →
        s.pushPosted gid = false → g.held = [] →
        ∃ t, exec .exit s = .next t ∧ SMap.find? t.groups gid = none ∧ ∀ r ∈ t.resvs, r.2.2.1 ≠ gid)
    ∧ (∀ (s : State) (gid : Nat) (g : Group), StemReady s gid g →
        (s.stntsDone gid g = false → exec .drain s = .next (s.freed.putGroup gid (g.stemHold s.cycle)))
        ∧ (s.stntsDone gid g = true → g.drainTs = [] → exec .drain s = .next (s.stemDone gid { g with drainTs := [] }))
        ∧ (s.stntsDone gid g = true → ∃ t, exec .drain s = .next t ∧
            SMap.find? t.groups gid = some (({ g with drainTs := [] } : Group).stemDone s.cycle))))

/-- `BRK`, `TRAP` and a reserved word take their fault at the word (R41, R82, R99): where the policy goes on,
FAULT_CODE and FAULT_ADDR are written as R81 says, and the word is complete with nothing else of its group changed. A
privileged form in a group that is not privileged takes the fault `PRIV` and does nothing else: no other group, no
partition, task, cluster, stream, reservation or bud, and no byte of a module or of the host, changes (R41). A stem fetch
that fails takes its fault at the word, an absent page parks the group, and a word that is there is left for a later step
(R42). That a word whose page lies behind a port that carries no traffic is left for a later step, too, is the model's
choice (log entry 98). -/
def Obligations.StemTrapsAndFailedFetchesFault : Prop :=
  ((∀ (s : State) (gid : Nat) (g : Group) (code : BitVec 16) (w : BitVec 32), StemReady s gid g → FaultGoesOn s g →
        let taken (i : Instr) (f : FaultInfo) (n : Nat) : Prop := f.word = BitVec.ofNat 32 n ∧ f.addr = g.pc ∧
          ∃ t, exec i s = .next t ∧ SMap.find? t.groups gid = some (g.stemFaulted f s.cycle) ∧
            ∀ k, k ≠ gid → SMap.find? t.groups k = SMap.find? s.groups k
        taken .brk (g.fault .brk) 0xFF000021
        ∧ taken (.trap code) { g.fault .trap with sw := code.toNat } (0xFF000020 + 256 * code.toNat)
        ∧ taken (.reservedWord w) (g.fault .illegal) 0xFF000001)
    ∧ (∀ (s : State) (gid : Nat) (g : Group) (b : BitVec 5) (p : BitVec 4) (h : BitVec 8), StemReady s gid g →
        FaultGoesOn s g → ¬ Privileged s g →
        ∀ i ∈ [Instr.halt, Instr.kload b, Instr.kdrop p h], exec i s = .next (s.freed.stemFault gid (g.fault .priv)) ∧
          let t := s.freed.stemFault gid (g.fault .priv)
          SMap.find? t.groups gid = some (g.stemFaulted (g.fault .priv) s.cycle) ∧ t.parts = s.parts ∧ t.tasks = s.tasks
          ∧ (∀ k, k ≠ gid → SMap.find? t.groups k = SMap.find? s.groups k) ∧ t.clusters = s.clusters
          ∧ t.streams = s.streams ∧ t.resvs = s.resvs ∧ t.budsOut = s.budsOut ∧ t.modMem = s.modMem
          ∧ t.hostMem = s.hostMem))
  ∧ (∀ (s u : State) (gid : Nat) (g : Group), StemReady s gid g →
      (∀ w, s.freed.fetchStem g = (.word w, u) → exec .stemFetch s = .next (u.unissue gid g))
      ∧ (s.freed.fetchStem g = (.cut, u) → exec .stemFetch s = .next (u.unissue gid g))
      ∧ (∀ c, s.freed.fetchStem g = (.fault c, u) → SMap.find? u.groups gid = some g → FaultGoesOn u g →
          ∃ t f, exec .stemFetch s = .next t ∧ f.code = c ∧ f.addr = g.pc ∧
            SMap.find? t.groups gid = some (g.stemFaulted f s.cycle))
      ∧ (∀ m, s.freed.fetchStem g = (.miss m, u) → SMap.find? u.groups gid = some g →
          ∃ t, exec .stemFetch s = .next t ∧ SMap.find? t.groups gid = some { g.stemIssue u.cycle with
            blocked := false, park := some { slot := none, mask := 0, misses := [m.miss], failed := g.retry }
            retry := [], redo := none }))

/-- A fault of an idempotent task's group under policy 10 restarts its cluster (R408, R410): every group of the cluster
goes, and the cluster stands for placement with one more restart. A held fault is raised before the group's next word
executes (R273, R348): the word is not executed, and the stem unit's turn is free again. That it is raised at a word that
has issued and waits, too, is the model's choice (log entry 89). -/
def Obligations.FaultsRestartClustersAndComeBeforeWords : Prop :=
  (∀ (s : State) (gid : Nat) (g : Group) (t : Task) (c : Cluster), StemReady s gid g → g.host = none →
      SMap.find? s.tasks g.tid = some t → SMap.find? s.clusters g.cid = some c → t.eff.policy = 2 → t.idem = true →
      c.restarts < 3 → c.tid = g.tid → t.dead = false →
      ∃ u, exec .brk s = .next u ∧ SMap.find? u.groups gid = none ∧
        (∀ k h, SMap.find? s.groups k = some h → h.cid = g.cid → h.host = none → SMap.find? u.groups k = none) ∧
        SMap.find? u.clusters g.cid = some { tid := c.tid, idx := c.idx, restarts := c.restarts + 1 })
  ∧ (∀ (s : State) (gid : Nat) (g : Group) (f : HeldFault) (i : Instr), s.cur = some (.stem gid) →
      SMap.find? s.groups gid = some g → g.dueHeld = some f → FaultGoesOn s g → (encodeStem i).isSome = true →
      ∃ u, exec i s = .next u ∧ SMap.find? u.groups gid = some { g with
        held := g.held.erase f, faultAddr := f.addr, stemIssued := g.stemIssued && g.blocked
        faultCode := FaultInfo.word { code := f.code, addr := f.addr, info := f.info } })

/-- `GROW` and `SHRINK` change the group's chunks by n; registers that come read zero and full, registers below stay
(R103). A deadlock of `GROW`s on a core is noted when every resident group is blocked, and 32 cycles later the
youngest begins to be evicted; a group whose save may be written is evicted at its `GROW`; an evicted group that fits
a lane again returns there, with the chunks that it asked for, and its `GROW` is complete (R104-R106). The note, and the
32 cycles counted from the step that makes it, are the model's choice (log entry 15). -/
def Obligations.GrowAndShrinkChangeTheAllotment : Prop :=
  (∀ (s : State) (gid : Nat) (g : Group) (n : BitVec 5), StemReady s gid g → g.run = none → g.pend = none →
      (g.chunks + n.toNat ≤ 16 → s.groupFitsAlone g { lreg := n.toNat + s.clusterChunks g.cid } = true →
        s.growFits gid g.coreN g.lane g n.toNat n.toNat = true →
        ∃ t g', exec (.grow n) s = .next t ∧ SMap.find? t.groups gid = some g' ∧ g'.chunks = g.chunks + n.toNat ∧
          g'.pc = pcPlus g.pc 4 ∧
          (∀ k th, th < 32 → k < 8 * g.chunks → g'.lreg k th = g.lreg k th) ∧
          ∀ k th, th < 32 → 8 * g.chunks ≤ k → g'.lreg k th = {})
      ∧ (n.toNat < g.chunks → (∀ f ∈ g.fills, f.reg < 8 * (g.chunks - n.toNat)) →
        ∃ t g', exec (.shrink n) s = .next t ∧ SMap.find? t.groups gid = some g' ∧ g'.chunks = g.chunks - n.toNat ∧
          g'.pc = pcPlus g.pc 4 ∧
          ∀ k th, th < 32 → k < 8 * (g.chunks - n.toNat) → g'.lreg k th = g.lreg k th))
  ∧ ((∀ (s : State) (core : Nat), (s.residents core).find? (fun e => e.2.evicting) = none → s.growDead core = true →
        ((s.core core).growStuck = none →
          exec (.growDeadlockEviction core) s =
            .next (s.modCore core (fun c => { c with growStuck := some s.cycle })))
        ∧ (∀ t e, (s.core core).growStuck = some t → t + 32 ≤ s.cycle → s.youngest (s.residents core) = some e →
          exec (.growDeadlockEviction core) s =
            .next (((s.modGroup e.1 (fun g => { g with evicting := true })).clearGrowStuck core).evict e.1)))
    ∧ (∀ (s : State) (core gid : Nat) (g : Group), (s.residents core).find? (fun e => e.2.evicting) = some (gid, g) →
        SMap.find? s.groups gid = some g → s.saveReady gid g = true →
        ∃ t h, exec (.growDeadlockEviction core) s = .next t ∧ SMap.find? t.groups gid = some h ∧ h.evicted = true
          ∧ h.evicting = false ∧ h.pc = g.pc ∧ h.chunks = g.chunks ∧ (∀ r, h.areg r = g.areg r)
          ∧ ∀ k, k ≠ gid → (SMap.find? t.groups k).map (·.pc) = (SMap.find? s.groups k).map (·.pc))
    ∧ ∀ (s : State) (gid lane core n pos : Nat) (g : Group), SMap.find? s.groups gid = some g → g.core = some core →
        g.wait = .grow n → s.placesFit gid core lane g = true → s.stopping g = false → s.freePos core lane = some pos → g.evicted = true → lane < 32 → g.fifoAgain = [] →
        s.growFits gid core lane g (g.chunks + n) (g.chunks - Nat.min g.chunks 2 + n) = true →
        ∃ t h, exec (.growReadmission gid lane) s = .next t ∧ SMap.find? t.groups gid = some h ∧ h.evicted = false
          ∧ h.chunks = g.chunks + n ∧ h.lane = lane ∧ h.pos = pos ∧ h.core = some core ∧ h.pc = pcPlus g.pc 4)

/-! ## Pointers and memory of the stem -/

/-- The pointer words read the object's descriptor and write their result where its rights and bounds allow it
(R285-R288): only bits [39:0] of a pointer move, `PRST` only sets its bits, `PSIZE` gives the size; a word whose
descriptor the core's OTLB lacks does not issue before a walk has brought it. `SLD` reads eight
bytes and `SST` stores a[d]'s eight bytes, little-endian, where the checks of R89 find the word in HBM; both take the
fault of the first check of R89 that fails: OBJ_INVALID, RIGHTS, BOUNDS, MISALIGN, the fault of a sealed layout key,
STREAM_SEQ; then that of the page (PAGE_FAIL, UE_POISON), MODULE_LOST, and for `SLD` a poisoned sector's UE_POISON.
Where the page list itself is poisoned, UE_POISON comes with the descriptor (R283). -/
def Obligations.PointerAndWordAccessesOfTheStem : Prop :=
  (∀ (s u : State) (gid : Nat) (g : Group) (d x t : BitVec 5) (i : BitVec 16) (m : BitVec 3) (k : Desc) (pt : Part),
      StemReady s gid g → SMap.find? s.parts g.part = some pt →
      let p := g.areg x.toNat
      let off : Nat := p.toNat % 2 ^ 40
      let high : Nat := p.toNat / 2 ^ 40 * 2 ^ 40
      let done (w : Word) : Host.Outcome State Fault Refusal := .next (s.stemDone gid (g.setA d.toNat w))
      let inside (o : Int) : Prop := 0 ≤ o ∧ o ≤ (k.size : Int)
      let moved (o : Int) : Word := BitVec.ofNat 64 (high + o.toNat % 2 ^ 40)
      (s.otlbDesc g.coreN pt (ptrObj p) = none → s.freed.coreDesc g.coreN g.part (ptrObj p) = (.ok k, u) →
        ∀ j ∈ [Instr.padd d x t, .paddi d x i, .prst d x m, .psize d x],
          exec j s = .next (u.unissue gid g))
      ∧ (s.otlbDesc g.coreN pt (ptrObj p) = some (.ok k) →
      (anyRight p k = true →
        (inside ((off : Int) + (g.areg t.toNat).toInt) →
          exec (.padd d x t) s = done (moved ((off : Int) + (g.areg t.toNat).toInt)))
        ∧ (inside ((off : Int) + i.toInt) → exec (.paddi d x i) s = done (moved ((off : Int) + i.toInt)))
        ∧ exec (.psize d x) s = done (BitVec.ofNat 64 k.size))
      ∧ (inside (off : Int) → exec (.prst d x m) s = done (p ||| (m.setWidth 64 <<< 61)))))
  ∧ ((∀ (s u v : State) (gid : Nat) (g : Group) (d x : BitVec 5) (i : BitVec 16) (pt : Part) (a tier : Nat) (k : Desc)
        (bs : List Byte), StemReady s gid g → s.afterRuns gid g = true → SMap.find? s.parts g.part = some pt →
        let p := g.areg x.toNat
        let e : Int := ptrOff p + i.toInt
        let rd : AccReq := { ptr := p, e, n := 8, align := 8, needR := true, kind := .read }
        let wr : AccReq := { ptr := p, e, n := 8, align := 8, needW := true, wr := true,
                             unbound := (s.slotStream g 0).isNone, kind := .write }
        (s.freed.checkAccess g.coreN g rd = (.ok (.hbm a) tier k, u) →
          u.coreRead pt.keyId g.coreN g.lease .normal a 8 = (bs, v) →
          exec (.sld d x i) s = .next ((v.putGroup gid (g.setA d.toNat (BitVec.ofNat 64 (wordOf bs)))).stemEnd gid g))
        ∧ (s.freed.checkAccess g.coreN g wr = (.ok (.hbm a) tier k, u) →
          exec (.sst d x i) s = .next
            ((u.coreWrite pt.keyId g.coreN .normal (addrBytes a (bytesOf 8 (g.areg d.toNat).toNat))).stemEnd gid g)))
    ∧ (∀ (s u v : State) (gid : Nat) (g : Group) (d x : BitVec 5) (i : BitVec 16) (pt : Part) (store : Bool),
        StemReady s gid g → s.afterRuns gid g = true → FaultGoesOn s g → SMap.find? s.parts g.part = some pt →
        let p := g.areg x.toNat
        let e : Int := ptrOff p + i.toInt
        let faults (c : Code) : Prop := ∃ t, exec (if store then .sst d x i else .sld d x i) s = .next t ∧
          SMap.find? t.groups gid = some (g.stemFaulted (g.fault c (p + i.signExtend 64)) s.cycle)
        (∀ c, s.freed.coreDesc g.coreN g.part (ptrObj p) = (.error c, u) → faults c)
        ∧ ∀ k page, s.freed.coreDesc g.coreN g.part (ptrObj p) = (.ok k, u) →
          u.findPage (coreDie g.coreN) g pt (ptrObj p) k e.toNat store = (page, v) →
          let right : Bool := if store then k.w && !ptrNW p else k.r
          let fits : Prop := 0 ≤ e ∧ e + 8 ≤ (k.size : Int)
          (0 ≤ e → e < (k.size : Int) → page = .fault .uePoison → faults .uePoison)
          ∧ (e < 0 ∨ (k.size : Int) ≤ e ∨ page ≠ .fault .uePoison →
            (right = false → faults .rights)
            ∧ (right = true → ¬ fits → faults .bounds)
            ∧ (right = true → fits → e % 8 ≠ 0 → faults .misalign)
            ∧ (right = true → fits → e % 8 = 0 → ∀ c, sealFault (keyClass pt k) = some c → faults c)
            ∧ (right = true → fits → e % 8 = 0 → sealFault (keyClass pt k) = none →
              (∀ c, page = .fault c → faults c)
              ∧ ∀ pl tier, page = .place pl tier →
                let unbound : Prop := store = true ∧ tier ≠ 0 ∧ (s.slotStream g 0).isNone = true
                (unbound → faults .streamSeq)
                ∧ (¬ unbound → v.placeLost pl = true → faults .moduleLost)
                ∧ (store = false → v.placeLost pl = false → v.placeBad pl 8 = true → faults .uePoison)))))

/-- `WAITA` on HBM or scratch: the word's value goes to a[b] where the condition holds, else the group sleeps; a later
read wakes it (R218). The three instructions of a transaction barrier on a readable object (R230): `TXB.EXP` adds to
PEND, `TXB.ARR` lowers REMAIN, each followed by the completion check; `TXB.WAIT` passes when the phase has changed, else
sleeps until the object's bytes have changed. `WGBAR` (R225) and `BAR` (R227): an arrival waits, the last one completes
the episode, and a released group passes; a route tag's release comes 96 cycles later and raises the pts of the group's
core to the latest that any participant's core had at its arrival (R424). A barrier word arrives, and a word on a
transaction barrier acts, once the accesses of the leaf runs before it have taken their places (R90). That a group asleep
at `TXB.WAIT` wakes only where the object's bytes have changed is the model's choice (log entry 95). -/
def Obligations.SynchronisationWordsPassOrSleep : Prop :=
  (∀ (s u : State) (gid : Nat) (g : Group) (b : BitVec 5) (c : WaitCond) (pt : Part) (a tier : Nat) (k : Desc),
      StemReady s gid g → g.wait ≠ .sleep → s.afterRuns gid g = true → SMap.find? s.parts g.part = some pt →
      let p := g.areg b.toNat
      let y := g.areg (b.toNat + 1)
      let rd : AccReq := { ptr := p, e := ptrOff p, n := 8, align := 8, needR := true, badTiers := [2, 3], kind := .read }
      let holds (x : Word) : Prop := match c with
        | .eq => x = y | .ne => x ≠ y | .geu => y.toNat ≤ x.toNat | .ge => y.toInt ≤ x.toInt
      let out (v : State) (x : Word) : Prop :=
        ∀ sp, (sp = true → s.checkScratch g p.toInt 8 8 = .ok a ∧ s.sramBad a 8 = false ∧
                s.freed.scratchRead g.coreN a 8 = (bytesOf 8 x.toNat, v)) →
          (sp = false → s.freed.checkAccess g.coreN g rd = (.ok (.hbm a) tier k, u) ∧ v = u.lrTimes g.coreN (lineOf a) g.lease ∧
                v.hbmBytes pt.keyId a 8 = bytesOf 8 x.toNat) →
          (holds x → exec (.waita b c sp) s = .next ((v.putGroup gid (g.setA b.toNat x)).stemEnd gid g))
          ∧ (¬ holds x → exec (.waita b c sp) s = .next ((v.putGroup gid { g with wait := .sleep }).stemWait gid))
      (∀ v x, out v x)
      ∧ ∀ (r : State) (h : Group), SMap.find? r.groups gid = some h → h.wait = .sleep →
          exec (.waitaReread gid) r = .next (r.putGroup gid { h with wait := .woken }))
  ∧ (∀ (s : State) (gid : Nat) (g : Group) (x y : BitVec 5) (a : Nat) (b : Txb), StemReady s gid g → s.afterRuns gid g = true →
      s.checkScratch g (g.areg x.toNat).toInt 16 16 = .ok a → s.txbAt a = .ok b →
      let n := (g.areg y.toNat).toNat
      let checked (b : Txb) : Txb :=
        if b.remain = 0 ∧ b.pend = 0 then { b with phase := 1 - b.phase, remain := b.expect } else b
      let stores (b : Txb) : Host.Outcome State Fault Refusal :=
        .next ((s.freed.scratchWrite g.coreN a (bytesOf 16 (checked b).word)).stemEnd gid g)
      (b.pend + n < 2 ^ 40 → exec (.txbExp x y) s = stores { b with pend := b.pend + n })
      ∧ (b.remain ≠ 0 → exec (.txbArr x) s = stores { b with remain := b.remain - 1 })
      ∧ ((∀ o x, g.wait ≠ .txbSleep o x) → b.phase ≠ n % 2 →
          exec (.txbWait x y) s = .next ((s.freed.scratchRead g.coreN a 16).2.stemEnd gid g))
      ∧ ((∀ o x, g.wait ≠ .txbSleep o x) → b.phase = n % 2 → exec (.txbWait x y) s =
          .next (((s.freed.scratchRead g.coreN a 16).2.modGroup gid (fun h => { h with
            wait := .txbSleep (g.areg x.toNat).toNat (wordOf (s.sramBytes a 16)) })).stemWait gid))
      ∧ ∀ (r : State) (h : Group) (o v c : Nat), SMap.find? r.groups gid = some h → h.wait = .txbSleep o v →
          r.scratchAddr h.cid h.wg o = some c →
          (wordOf (r.sramBytes c 16) ≠ v →
            exec (.txbWaitReread gid) r = .next (r.putGroup gid { h with wait := .woken }))
          ∧ (wordOf (r.sramBytes c 16) = v → exec (.txbWaitReread gid) r = .next (r.putGroup gid h)))
  ∧ ((∀ (s : State) (gid : Nat) (g : Group) (t : BitVec 3) (k : Task), StemReady s gid g →
        SMap.find? s.tasks g.tid = some k → s.afterRuns gid g = true →
        (g.wait = .wgbarDone → exec .wgbar s = .next (s.stemDone gid g))
        ∧ (g.wait = .none →
            exec .wgbar s = .next (((s.freed.putGroup gid { g with wait := .wgbar }).wgbarCheck g.cid g.wg).stemWait gid))
        ∧ (∀ n c p, g.wait = .barDone n c p → c ≤ s.cycle →
            exec (.bar t) s = .next ((s.freed.raisePts g.coreN p).stemEnd gid g))
        ∧ (∀ n c p, g.wait = .barDone n c p → s.cycle < c →
            exec (.bar t) s = .next (s.freed.putGroup gid (g.stemHold s.cycle)))
        ∧ (g.wait = .none → t.toNat < k.tags →
            exec (.bar t) s = .next (((s.freed.putGroup gid { g with wait := .bar t.toNat (s.pts g.coreN) }).barCheck
              g.tid t.toNat).stemWait gid))
        ∧ (∀ n c p, g.wait = .barDone n c p → c ≤ s.cycle → ∃ u, exec (.routeTagRelease g.tid n) s = .next u ∧
            SMap.find? u.groups gid = some { g with wait := .barDone n 0 p }))
    ∧ (∀ (s : State) (cid wg tid t gid : Nat) (g : Group), SMap.find? s.groups gid = some g → g.host = none →
        (g.cid = cid → g.wg = wg → (∀ h, (∃ k, (k, h) ∈ s.groups) → h.cid = cid → h.wg = wg → h.host = none → h.wait = .wgbar) →
          SMap.find? (s.wgbarCheck cid wg).groups gid =
            some { g with wait := .wgbarDone, nextAt := s.cycle + 1 })
        ∧ (g.tid = tid → (∀ h, (∃ k, (k, h) ∈ s.groups) → h.tid = tid → h.host = none → ∃ p, h.wait = .bar t p) →
          ∃ p, SMap.find? (s.barCheck tid t).groups gid =
              some { g with wait := .barDone t (s.cycle + 96) p, nextAt := s.cycle + 96 }
            ∧ ((∀ k h q, (k, h) ∈ s.groups → h.tid = tid → h.host = none → h.wait = .bar t q → q.toNat < 2 ^ 23) →
              (∃ k h, (k, h) ∈ s.groups ∧ h.tid = tid ∧ h.host = none ∧ h.wait = .bar t p)
              ∧ ∀ k h q, (k, h) ∈ s.groups → h.tid = tid → h.host = none → h.wait = .bar t q → q.toNat ≤ p.toNat))))

/-- `SRMODE` switches a bank that no workgroup's window uses (R205-R207): from cache mode to scratch or FIFO mode, and
back, and between scratch and FIFO mode; a switch to FIFO mode needs 64 units and charges them, and leaving it gives them
back. A switched bank has the mode that was asked for and no FIFO entry; every other bank, of every grove, is as it was. -/
def Obligations.SrmodeSwitchesAFreeBank : Prop :=
  (∀ (s : State) (gid : Nat) (g : Group) (bank : BitVec 4), StemReady s gid g →
      let gr := g.coreN / 4
      let b := bank.toNat
      let x := (s.grove gr).bank b
      let units : Charge := { sram := 64 }
      (x.mode = .cache →
        exec (.srmodeCache bank) s = .next (s.freed.stemEnd gid g)
        ∧ exec (.srmodeScratch bank) s = .next ((s.freed.switchBank gr b .scratch g.cid g.wg).stemEnd gid g)
        ∧ (s.groupFits g units = true → exec (.srmodeFifo bank) s =
            .next (((s.freed.chargeBy g units).switchBank gr b .fifo g.cid g.wg).stemEnd gid g)))
      ∧ (x.mode = .scratch → exec (.srmodeScratch bank) s = .next (s.freed.stemEnd gid g))
      ∧ (x.mode = .scratch → s.bankInUse gr b = false →
          exec (.srmodeCache bank) s = .next ((s.freed.switchBank gr b .cache g.cid g.wg).stemEnd gid g)
          ∧ (s.groupFits g units = true → exec (.srmodeFifo bank) s =
            .next (((s.freed.chargeBy g units).switchBank gr b .fifo g.cid g.wg).stemEnd gid g)))
      ∧ (x.mode = .fifo → x.owner = g.cid → exec (.srmodeFifo bank) s = .next (s.freed.stemEnd gid g))
      ∧ (x.mode = .fifo → x.owner = g.cid → x.entries = [] → x.pushq = [] → x.popq = [] →
          exec (.srmodeCache bank) s = .next
            (((s.freed.switchBank gr b .cache g.cid g.wg).reclaimBy g units).stemEnd gid g)
          ∧ exec (.srmodeScratch bank) s = .next
            (((s.freed.switchBank gr b .scratch g.cid g.wg).reclaimBy g units).stemEnd gid g)))
  ∧ (∀ (s : State) (gr b : Nat) (m : BankMode) (cid wg : Nat),
      let y := ((s.switchBank gr b m cid wg).grove gr).bank b
      (y.mode = m ∧ y.entries = [] ∧ y.pushq = [] ∧ y.popq = [] ∧ (m = .fifo → y.owner = cid ∧ y.ownerWg = wg))
      ∧ ∀ gr' b', (gr', b') ≠ (gr, b) →
        ((s.switchBank gr b m cid wg).grove gr').bank b' = (s.grove gr').bank b')

/-! ## Posts of the stem: streams, queues, engines, matrix unit, tasks, keys -/

/-- `STRM.BIND` of an identifier that the checks of R340 accept, in a free slot, binds it; naming the slot's own
identifier changes nothing; 2^64 - 1 leaves a free slot free. `STRM.JOIN` makes the later operations of one slot wait for
the earlier ones of the other (R341); with a slot unbound, or one slot twice, it changes nothing. -/
def Obligations.StreamWordsBindAndJoinSlots : Prop :=
  (∀ (s : State) (gid : Nat) (g : Group) (w : BitVec 3) (x : BitVec 5), StemReady s gid g →
      let id := (g.areg x.toNat).toNat
      (SMap.find? g.wslots w.toNat = some id → exec (.strmBind w x) s = .next (s.stemDone gid g))
      ∧ (SMap.find? g.wslots w.toNat = none → id = 2 ^ 64 - 1 → exec (.strmBind w x) s = .next (s.stemDone gid g))
      ∧ (SMap.find? g.wslots w.toNat = none → id ≠ 2 ^ 64 - 1 → s.bindFault g id = none →
          ∃ t, exec (.strmBind w x) s = .next t
            ∧ SMap.find? t.groups gid = some (({ g with wslots := SMap.put g.wslots w.toNat id } : Group).stemDone s.cycle)
            ∧ SMap.find? t.streams id = some { gid, slot := w.toNat, part := g.part, rcb := s.rcbOf g, path := s.pathOf g }
            ∧ ∀ k, k ≠ id → SMap.find? t.streams k = SMap.find? s.streams k))
  ∧ (∀ (s : State) (gid : Nat) (g : Group) (wa wb : BitVec 3), StemReady s gid g →
      (∀ a b x, SMap.find? g.wslots wa.toNat = some a → SMap.find? g.wslots wb.toNat = some b → wa ≠ wb →
        SMap.find? s.streams a = some x →
        exec (.strmJoin wa wb) s = .next
          { s.stemDone gid g with streams := SMap.put s.streams a { x with join := x.join ++ [(b, s.nextId)] } })
      ∧ (SMap.find? g.wslots wa.toNat = none ∨ SMap.find? g.wslots wb.toNat = none →
          exec (.strmJoin wa wb) s = .next (s.stemDone gid g))
      ∧ (wa = wb → exec (.strmJoin wa wb) s = .next (s.stemDone gid g)))

/-- A queue word whose checks pass sends its operation on the slot's stream; one that waits for its answer takes the
answer to its registers when it has come (R346, R347). A module reduction whose checks pass enters one operation for
each sector of its destination, in order, with the kind of the reduction, the address of its first element there, the
count and where its elements stand in the source; then one increment of the counter by 1; and it goes on (R349). The
parts cover the elements 0 to n - 1 once each, in order, and none leaves its sector. An operation whose turn has come
first reads its source elements, as an engine reads, and holds them from then on. -/
def Obligations.ModuleQueueAndReductionWordsSend : Prop :=
  (∀ (s u : State) (gid : Nat) (g : Group) (b : BitVec 5) (slot : BitVec 3) (wait : Bool) (m cap : Nat)
      (a : List Nat), StemReady s gid g →
      s.afterRuns gid g = true →
      let sid := (u.slotStream g slot.toNat).getD 0
      let sent (op : ModOp) (addr : Word) : Nat × State :=
        u.streamPut gid slot.toNat sid g.part (u.rcbOf g) (.modul m) op addr 0
      let waits (p : Nat × State) : State :=
        (p.2.modGroup gid (fun g => { g with wait := .mq sid p.1 })).stemWait gid
      let push : ModOp := .push a cap (g.areg (b.toNat + 1))
      (g.wait = .none → s.freed.mqCheck g (g.areg b.toNat) slot.toNat true = (.ok (.ok (m, a, cap)), u) →
        u.podBlocked gid = false →
        exec (.mqpush b slot wait) s =
          .next (if wait then waits (sent push g.pc) else (sent push g.pc).2.stemEnd gid g))
      ∧ (g.wait = .none → s.freed.mqCheck g (g.areg b.toNat) slot.toNat false = (.ok (.ok (m, a, cap)), u) →
        u.podBlocked gid = false → exec (.mqpop b slot wait) s = .next (waits (sent (.pop a cap wait) (g.areg b.toNat))))
      ∧ (∀ ok x, g.wait = .mqDone ok x →
          exec (.mqpush b slot wait) s = .next (s.stemDone gid (g.setA (b.toNat + 2) x)))
      ∧ (∀ x, g.wait = .mqDone true x →
          exec (.mqpop b slot wait) s = .next (s.stemDone gid ((g.setA b.toNat 1).setA (b.toNat + 1) x)))
      ∧ (∀ x, g.wait = .mqDone false x →
          exec (.mqpop b slot false) s = .next (s.stemDone gid ((g.setA b.toNat 0).setA (b.toNat + 1) 0)))
      ∧ ∀ (r : State) (h : Group) (c md l : Nat), SMap.find? r.groups gid = some h → h.wait = .mqSleep c md l →
          c + 1024 ≤ r.cycle → exec (.mqpopRetry gid) r = .next (r.putGroup gid { h with wait := .woken }))
  ∧ ((∀ (s : State) (gid : Nat) (g : Group) (b : BitVec 5) (slot : BitVec 3) (p : Part) (dd dc : Desc)
      (ds cs : List (Nat × Nat)) (e : Instr × RedOp) (x : Stream) (sid : Nat), StemReady s gid g → s.afterRuns gid g = true →
      e ∈ [(Instr.mredFadd b slot, RedOp.fadd), (.mredBfadd b slot, .bfadd), (.mredIadd b slot, .iadd),
           (.mredFmax b slot, .fmax), (.mredFmin b slot, .fmin)] →
      let a (i : Nat) : Word := g.areg (b.toNat + i)
      let n := bits (a 2).toNat 0 25
      let ps := redPieces (ptrOff (a 0)) (n + 1) 0 n
      SMap.find? s.parts g.part = some p → s.slotStream g slot.toNat = some sid → SMap.find? s.streams sid = some x →
      s.redCheck g p (a 0) (a 1) (a 3) (a 2) (redSize e.2) true = .ok (dd, dc) →
      s.redPlaces g p (a 0) dd (ps.map (fun q => ptrOff (a 0) + 4 * q.1)) = .ok (.ok ds) →
      s.redPlaces g p (a 3) dc [ptrOff (a 3)] = .ok (.ok cs) → s.podBlocked gid = false →
      (∀ o ∈ x.ops, ∀ i, i ≤ n → o.seq ≠ (x.counter + i) % 2 ^ 32) →
      let size := redSize e.2
      let part (q : (Nat × Nat) × (Nat × Nat)) : Option Dest × ModOp × Option SSrc :=
        (some (.modul q.2.1), .redu e.2 q.2.2 (List.replicate q.1.2 0),
         some { obj := ptrObj (a 1), off := ptrOff (a 1) + size * q.1.1, count := q.1.2, size, ts := s.pts g.coreN
                lease := g.lease })
      let count (c : Nat × Nat) : Option Dest × ModOp × Option SSrc :=
        (some (.modul c.1), .atom [{ thr := 0, addr := c.2, n := 8, fn := .op .add 1 false }], none)
      ∃ t y new, exec e.1 s = .next t ∧ SMap.find? t.groups gid = some (g.stemDone s.cycle) ∧ t.hbm = s.hbm
        ∧ t.modMem = s.modMem ∧ SMap.find? t.streams sid = some y ∧ y.ops = x.ops ++ new
        ∧ new.map (fun o => (some o.dest, o.op, o.src)) = (ps.zip ds).map part ++ cs.map count
        ∧ ∀ o ∈ new, o.gid = gid ∧ o.addr = g.pc ∧ o.state = 0)
    ∧ (∀ off n : Nat, off % 4 = 0 →
        let ps := redPieces off (n + 1) 0 n
        ps.flatMap (fun q => (List.range q.2).map (q.1 + ·)) = List.range n
        ∧ ∀ q ∈ ps, 0 < q.2 ∧ (off + 4 * q.1) / 32 = (off + 4 * (q.1 + q.2 - 1)) / 32)
    ∧ ∀ (s u : State) (sid : Nat) (x : Stream) (o : SOp) (q : SSrc) (p : Part) (k : RedOp) (d : Nat) (xs : List Word)
        (bs : List Byte) (t : Time), SMap.find? s.streams sid = some x → x.ops.find? (fun o => o.state == 0) = some o →
        s.mayBeSent x o = true → SMap.find? s.parts o.part = some p → o.src = some q → o.op = .redu k d xs →
        q.miss = none → q.failed = false →
        let n := q.count * q.size
        s.awayFrom0 p q.obj [q.off, q.off + n - 1] = false →
        State.engSpan p { die := 0, lease := q.lease } q.obj (n + 1) q.off n [] q.ts s = .ok (bs, t) u →
        exec (.streamOpSend sid) s = .next (u.modOp sid o.seq (fun y => { y with
          src := none
          op := match y.op with
            | .redu k d _ => .redu k d ((List.range q.count).map (fun i =>
                BitVec.ofNat 64 (wordOf ((bs.drop (q.size * i)).take q.size))))
            | op => op })))

/-- `CP`, `CP2` and `GTH` whose checks pass post their operation at the end of its queue, and `QJOIN` a fence in each
queue that it names; the other queues stay (R264-R270). -/
def Obligations.EngineWordsPostToTheirQueues : Prop :=
  ∀ (s : State) (gid : Nat) (g : Group) (b : BitVec 5) (m : EngMods) (p : Part) (keys : List Nat) (f : BitVec 5),
    StemReady s gid g → s.afterRuns gid g = true → SMap.find? s.parts g.part = some p →
    let gr := g.coreN / 4
    let regs (i : Nat) : Word := g.areg (b.toNat + i)
    let posts (i : Instr) (q : Nat) (k : EngBlock) : Prop :=
      s.postCheck p (postReq m k g.coreN (4096 * s.scrOf g) (s.slotStream g m.slot.toNat).isSome) = .ok keys →
      ((s.grove gr).queue q).length < 64 →
      ∃ t, exec i s = .next t ∧ SMap.find? t.groups gid = some (g.stemDone s.cycle)
        ∧ (t.grove gr).queue q = (s.grove gr).queue q
            ++ [.op (engOp m k keys gid g.cid g.wg g.part g.pc (s.pts g.coreN) g.lease s.nextId)]
        ∧ ∀ r, r ≠ q → (t.grove gr).queue r = (s.grove gr).queue r
    posts (.cp b m) m.q.toNat (cpBlock m regs) ∧ posts (.cp2 b m) m.q.toNat (cp2Block m regs)
    ∧ posts (.gth b m) 4 (gthBlock m regs)
    ∧ ((∀ q, q < 5 → f.getLsbD q = true → ((s.grove gr).queue q).length < 64) →
      ∃ t, exec (.qjoin f) s = .next t ∧ SMap.find? t.groups gid = some (g.stemDone s.cycle)
        ∧ ∀ q, q < 5 → (t.grove gr).queue q = (s.grove gr).queue q
            ++ (if f.getLsbD q then [.fence gid g.cid s.nextId f] else []))

/-- The words on operand-buffer ranges, by a group that holds its slice (R239-R242): a reservation is made, a fill is
posted, a range that nothing uses is released. `MX` whose checks pass enters a pass for its tile in the grove's table
(R243-R250), and `MXWAIT` goes on when no pass that it names is left (R256). -/
def Obligations.OperandBufferAndMatrixWordsAct : Prop :=
  (∀ (s : State) (gid : Nat) (g : Group) (b : BitVec 5) (n : BitVec 8) (ob : BitVec 4) (p : Part) (r : Range) (d : Desc)
      (w : Wg), StemReady s gid g → s.afterRuns gid g = true → s.holdsSlice g = true → SMap.find? s.parts g.part = some p →
      s.wg? g.cid g.wg = some w →
      let a (i : Nat) : Word := g.areg (b.toNat + i)
      let set (u : State) (rs : SMap Range) : State := u.modWg g.cid g.wg (fun w => { w with ranges := rs })
      (SMap.find? w.ranges ob.toNat = none → parseShape (a 0) (a 1).toNat (a 2).toNat (a 3).toNat n.toNat = some r →
        (w.ranges.map (fun e => e.2.units)).sum + r.units ≤ s.obuOf g → s.rangeSrc g.coreN p r = .ok d →
        exec (.obres b n ob) s = .next ((set s.freed (SMap.put w.ranges ob.toNat
          { r with keyh := if d.lkey then some d.keyh else none, isSealed := d.isSealed })).stemEnd gid g))
      ∧ (SMap.find? w.ranges ob.toNat = some r → s.fillCheck g.coreN p r = none → a 0 = BitVec.allOnes 64 →
        ∃ t f, exec (.obfill b ob) s = .next t ∧ SMap.find? t.groups gid = some (g.stemDone s.cycle)
          ∧ (t.grove (g.coreN / 4)).obFills = (s.grove (g.coreN / 4)).obFills ++ [f] ∧ f.gid = gid ∧ f.ob = ob.toNat
          ∧ f.core = g.coreN ∧ f.txb = none
          ∧ (t.wg? g.cid g.wg).map (·.ranges) = some (SMap.put w.ranges ob.toNat { r with st := .filling }))
      ∧ ((∀ x ∈ (s.grove (g.coreN / 4)).passes, x.names g.coreN ob.toNat = false) →
        (∀ f ∈ (s.grove (g.coreN / 4)).obFills, ¬ (f.core = g.coreN ∧ f.ob = ob.toNat)) →
        exec (.obrel ob) s = .next ((set s.freed (SMap.erase w.ranges ob.toNat)).stemEnd gid g)))
  ∧ (∀ (s : State) (gid : Nat) (g : Group) (b : BitVec 5) (k : BitVec 10) (bsp : Bool) (asrc : ASrc) (acc wide : Bool)
      (tile : BitVec 6) (x y : MxOpnd), StemReady s gid g → s.afterRuns gid g = true → s.holdsSlice g = true →
      let r (i : Nat) : Nat := (g.areg (b.toNat + i)).toNat
      let kk := 16 * k.toNat
      let gr := s.grove (g.coreN / 4)
      let i : Instr := .mx b k bsp asrc acc wide tile
      (wide = true → s.wideOk g = true) → parseOpnd asrc (r 0) (r 1) (s.rangeOf g) = some x →
      parseOpnd (if bsp then .sp else .ob) (r 2) (r 3) (s.rangeOf g) = some y →
      mxChecks (some x) (some y) (s.rangeOf g) kk (if wide then 32 else 16) (4096 * s.scrOf g) g.chunks = none →
      gr.passes.length < 32 →
      (x.kind = .lr → g.run = none ∧ g.pend = none ∧ firstMark g x.reg (laneRegs x kk) = none ∧
        ∀ q ∈ span x.reg (laneRegs x kk), ∀ t, t < 32 → g.isEmpty q t = false) →
      (∃ t q, exec i s = .next t ∧ SMap.find? t.groups gid = some (g.stemDone s.cycle)
          ∧ (t.grove (g.coreN / 4)).passes = gr.passes ++ [q] ∧ q.gid = gid ∧ q.core = g.coreN ∧ q.tile = tile.toNat
          ∧ q.k = kk ∧ q.acc = acc ∧ q.wide = wide ∧ q.granted = none ∧ q.a = x.src g kk ∧ q.b = y.src g kk)
      ∧ ((∀ q ∈ gr.passes, ¬ (q.gid = gid ∧ q.tile = tile.toNat)) → g.held = [] →
          exec (.mxwait tile) s = .next (s.stemDone gid g))
      ∧ ((∀ q ∈ gr.passes, q.gid ≠ gid) → (∀ f ∈ gr.obFills, f.gid ≠ gid) → g.held = [] →
          exec .mxwaitAll s = .next (s.stemDone gid g)))

/-- `TASK` links a task descriptor into the list of a region that its group may post to: it writes the descriptor to
TLHEAD where the list is empty, else to the NEXT of the list's last descriptor; then it raises WORK by 1 and answers
WORK's old value (R200). `TGRAPH` whose checks pass starts its graph, which then runs with GSTATE 1; every node's state
and count of predecessors is written afresh and GDONE is 0; `.resume` of a faulted graph leaves the nodes that are done
as they are, counts only the others among the predecessors, and keeps GDONE (R201). A store of the device writes the
eight bytes of its word and no other byte. -/
def Obligations.TaskAndTgraphWordsPostWork : Prop :=
  (∀ (s u v w : State) (gid : Nat) (g : Group) (b : BitVec 5) (a a' tr tr' : Nat) (k k' : Desc) (at_ : Word) (ts : Time),
      StemReady s gid g → s.postReady gid g = true →
      let h := g.synced s.cycle
      let own := (s.posting gid g).rcbOf h
      let r := if g.areg b.toNat = 0 then own else g.areg b.toNat
      let d := g.areg (b.toNat + 1)
      (s.posting gid g).checkAccess g.coreN h (structReq r 256 256 true) = (.ok (.hbm a) tr k, u) →
      (u.chain g.part r).any (fun y => samePtr y own) = true →
      u.checkAccess g.coreN h (structReq d 256 256 false) = (.ok (.hbm a') tr' k', v) →
      v.linkAt g.part r (v.pts g.coreN) = (.ok (at_, ts), w) →
      let w1 := w.devWrite g.part at_ ts d
      let t1 := tmax ts (w1.wordTime g.part at_)
      let old : Word := BitVec.ofNat 64 (w1.rcbWord g.part r 0)
      let w2 := w1.devWrite g.part r t1 (old + 1)
      exec (.task b) s = .next (((w2.raisePts g.coreN (tmax t1 (w2.wordTime g.part r))).modGroup gid
        (fun g => g.setA b.toNat old)).stemEnd gid g))
  ∧ (∀ (s : State) (part : Nat) (r : Word) (t : Time),
      let tail (d : Word) : Prop := ∃ t' u, s.linkAt part r t = (.ok (d, t'), u)
      (s.devRead part (r + 0x28) = some 0 → tail (r + 0x28))
      ∧ ∀ (d : Word) (ds : List Word), s.devRead part (r + 0x28) = some d →
          let l := d :: ds
          l.length ≤ 2 ^ 32 → (∀ y ∈ l, y ≠ 0 ∧ s.devBad part y 8 = false) →
          (∀ i, i < l.length → s.devRead part (l.getD i 0) = some (l.getD (i + 1) 0)) →
          tail (l.getD (l.length - 1) 0))
  ∧ (∀ (s u v : State) (gid : Nat) (g : Group) (b : BitVec 5) (a a' tr tr' : Nat) (k k' : Desc) (p : Part) (resume : Bool),
      StemReady s gid g → s.postReady gid g = true →
      let h := g.synced s.cycle
      let own := u.rcbOf h
      let x := g.areg b.toNat
      let r := if g.areg (b.toNat + 1) = 0 then own else g.areg (b.toNat + 1)
      (s.posting gid g).checkAccess g.coreN h (structReq x 64 64 true) = (.ok (.hbm a) tr k, u) →
      u.checkAccess g.coreN h (structReq r 256 256 true) = (.ok (.hbm a') tr' k', v) →
      (v.chain g.part r).any (fun y => samePtr y own) = true → SMap.find? v.parts g.part = some p →
      let g0 : Graph := { part := g.part, rcb := r, ptr := x, nodes := 0, ts := v.pts g.coreN, order := 0 }
      let gr : Graph := { g0 with nodes := Nat.min 1024 (bits (v.graphWord g0 0) 0 16) }
      let room := k.size - ptrOff x
      v.missIn h p (ptrObj x) k (ptrOff x) (Nat.min room (nodeOff gr.nodes)) = none →
      v.missIn h p (ptrObj x) k (ptrOff x) (Nat.min room (v.graphSize gr)) = none →
      let w0 := v.devTouchSpan g.part x (Nat.min room (v.graphSize gr))
      let st := bits (w0.graphWord gr 0x18) 0 8
      (st = 0 ∨ st = 2 ∨ st = 3) → w0.graphValid gr room = true →
      let again : Bool := resume && st == 3
      let w := w0.newId.2
      let ns := (List.range gr.nodes).filter (fun i => !(again && w.nodeState gr i == 3))
      let preds (i : Nat) : Nat := (ns.map (fun j => (w.nodeSucc gr j).count i)).sum
      let w1 := ns.foldl (fun y i => y.graphMod gr (nodeOff i + 0x10) (fun _ => preds i * 2 ^ 16)) w
      let w2 := (ns.filter (fun i => w1.nodeKind gr i == 0 && preds i != 0)).foldl (fun y i =>
        y.setTaskState g.part (BitVec.ofNat 64 (y.graphWord gr (nodeOff i))) 1) w1
      let w3 := if again then w2 else w2.graphMod gr 0x20 (fun _ => 0)
      let w4 := w3.graphMod gr 0x18 (fun _ => 1)
      let w5 := w4.raisePts g.coreN (w4.wordTime g.part (x + 0x18))
      exec (if resume then .tgraphResume b else .tgraph b) s = .next
        ({ w5 with graphs := SMap.put w5.graphs v.nextId { gr with order := v.nextId, ts := w5.pts g.coreN } }.stemEnd gid g))
  ∧ (∀ (s : State) (pt : Part) (ptr : Word) (a : Nat) (t : Time) (w : Word), SMap.find? s.parts pt.num = some pt →
      s.devAddr pt.num ptr = some a → a % 8 = 0 → s.hbmGone a = false →
      let holds (u : State) (w : Word) : Prop :=
        (∀ j, j < 8 → u.hbmByte pt.keyId (a + j) = (bytesOf 8 w.toNat).getD j 0)
        ∧ ∀ y, y < a ∨ a + 8 ≤ y → u.hbmByte pt.keyId y = s.hbmByte pt.keyId y
      holds (s.devWrite pt.num ptr t w) w
      ∧ ∀ f : Nat → Nat, ∀ gr : Graph, ∀ off, gr.part = pt.num → gr.ptr + BitVec.ofNat 64 off = ptr →
        holds (s.graphMod gr off f) (BitVec.ofNat 64 (f (s.graphWord gr off))))

/-- `KLOAD` of a blob that every step of R396 accepts installs its key pair, keeps the blob's SEQ as its session's last,
and completes. `KDROP` of a free handle does nothing. Of an installed handle, it makes the handle dropping and stops what
uses the key: each engine operation of the partition that passed the key's check, and each fill of a range under it, that
had not failed takes KEY_INVALID, and a migration copy under it is abandoned; the word waits while a stopped operation's
writes are on their way. Then each range that names the handle, resident or saved, is stale and holds nothing, the handle
is free, and the word completes (R397). -/
def Obligations.KeyWordsInstallAndDrop : Prop :=
  (∀ (s u1 u2 u3 u4 u5 : State) (gid : Nat) (g : Group) (b : BitVec 5) (pt p : Part)
      (pl : Place) (a a' t t' t'' : Nat) (d d' d'' : Desc) (x y : List Byte) (f : Blob) (k : Handle),
      StemReady s gid g → Privileged s g → s.afterRuns gid g = true →
      let hn := (g.areg b.toNat).toNat
      let ptr := g.areg (b.toNat + 1)
      let n := (g.areg (b.toNat + 2)).toNat
      hn < 256 → n < 16 → SMap.find? s.parts g.part = some pt →
      (s.freed.checkAccess g.coreN g (blobReq ptr 0 128)) = (.ok pl t d, u1) →
      u1.checkAccess g.coreN g (blobReq ptr 0 64) = (.ok (.hbm a) t' d', u2) →
      u2.checkAccess g.coreN g (blobReq ptr 64 64) = (.ok (.hbm a') t'' d'', u3) →
      u3.coreRead pt.keyId g.coreN g.lease .normal a 64 = (x, u4) →
      u4.coreRead pt.keyId g.coreN g.lease .normal a' 64 = (y, u5) →
      SMap.find? u5.parts n = some p → SMap.find? p.handles hn = none →
      u5.openBlob p hn (wordOf (x ++ y)) = some (f, k) →
      ∃ r, exec (.kload b) s = .next r ∧ SMap.find? r.groups gid = some (g.stemDone s.cycle)
        ∧ SMap.find? r.parts n = some { p with handles := SMap.put p.handles hn k }
        ∧ (SMap.find? r.crown.sessions f.sess).map (·.lastSeq) = some (some f.seq))
  ∧ (∀ (s : State) (gid : Nat) (g : Group) (q : BitVec 4) (h : BitVec 8) (p : Part), StemReady s gid g → Privileged s g →
      SMap.find? s.parts q.toNat = some p →
      (SMap.find? p.handles h.toNat = none → exec (.kdrop q h) s = .next (s.stemDone gid g))
      ∧ ∀ k, SMap.find? p.handles h.toNat = some k →
        let u := if k.st = .installed then s.freed.beginDrop q.toNat h.toNat else s.freed
        (u.keyBusy q.toNat h.toNat = true → exec (.kdrop q h) s =
          .next ((u.modGroup gid (fun g => { g with wait := .keyDrop })).stemWait gid))
        ∧ (u.keyBusy q.toNat h.toNat = false →
          exec (.kdrop q h) s = .next ((u.eraseHandle q.toNat h.toNat).stemEnd gid g)
          ∧ (s.migrations = [] → ∃ r, exec (.kdrop q h) s = .next r ∧ SMap.find? r.groups gid = some (g.stemDone s.cycle)
            ∧ SMap.find? r.parts q.toNat = some { p with handles := SMap.erase p.handles h.toNat })))
  ∧ ∀ (s : State) (part h : Nat) (p : Part) (k : Handle), SMap.find? s.parts part = some p →
      SMap.find? p.handles h = some k →
      let u := s.stopKeyUsers part h
      let v := s.beginDrop part h
      let t := s.eraseHandle part h
      (∀ gr q, (u.grove gr).queue q = ((s.grove gr).queue q).map (fun x => match x with
        | .op o => if o.part = part ∧ h ∈ o.keys then
            .op { o with failed := some (o.failed.getD .keyInvalid), miss := none, pods := [] } else x
        | .fence _ _ _ _ => x))
      ∧ (∀ gr f g c w r, f ∈ (s.grove gr).obFills → SMap.find? s.groups f.gid = some g → g.part = part →
          SMap.find? s.clusters f.cid = some c → c.wg? f.wg = some w → SMap.find? w.ranges f.ob = some r → r.keyh = some h →
          { f with failed := some (f.failed.getD .keyInvalid) } ∈ (u.grove gr).obFills)
      ∧ (((SMap.find? v.parts part).bind (fun p => SMap.find? p.handles h)).map (·.st) = some .dropping)
      ∧ (∀ m d, s.migrations = [m] → m.part = part → m.started = true → s.walkDesc p m.obj = .ok d → d.lkey = true →
          d.keyh = h → v.migrations = [])
      ∧ SMap.find? t.parts part = some { p with handles := SMap.erase p.handles h }
      ∧ ∀ cid c y, SMap.find? s.clusters cid = some c → SMap.find? s.tasks c.tid = some y → y.part = part →
          (SMap.find? t.clusters cid).map (·.wgs) = some (c.wgs.map (fun w => { w with ranges := w.ranges.map (fun r =>
            (r.1, if r.2.keyh = some h then { r.2 with st := .stale, data := [], scales := [], bad := [] } else r.2)) }))

/-! ## Arithmetic of the lanes -/

/-- The integer instructions on sub-elements of n bits (R121-R123): the exact result, held in range under `sat`, cut
to n bits. The instructions on whole registers, comparisons, selections and moves (R114, R115, R122, R124-R126). -/
def Obligations.IntegerLaneInstructionsWriteTheirResults : Prop :=
  (∀ (s : State) (gid slot next : Nat) (g : Group) (r : Run) (p : Path) (w : Leaf) (ts : List Nat) (fs : List TFault),
      LeafReady s gid slot next g r p → prepare g r (takersOf g slot p w.ctl) (leafSrcs w) [w.d] = .go ts fs →
      let n := Ty.width w.ty
      let v (x : Nat) : Int := valueOf n w.sgn x
      let held (x : Int) : Nat := cut n (if w.sat then clampTo n w.sgn x else x)
      let each (o : LOp) (i : Instr) (f : Nat → Nat → Nat → Nat → Nat) : Prop :=
        exec i s = laneDone s gid slot next g r p w ts fs (fun t =>
          (packWord n ((List.range (64 / n)).map (fun j => f (elemAt n (argA o w g r t) j) (elemAt n (argB o w g r t) j)
            (elemAt n (argC o w g r t) j) (elemAt n (argE o w g r t) j))), 0))
      each .iadd (.iadd w) (fun a b _ _ => held (v a + v b))
      ∧ each .isub (.isub w) (fun a b _ _ => held (v a - v b))
      ∧ each .imul (.imul w) (fun a b _ _ => held (v a * v b))
      ∧ each .imad (.imad w) (fun a b c _ => held (v a * v b + v c))
      ∧ each .imulh (.imulh w) (fun a b _ _ => held (v a * v b / 2 ^ n))
      ∧ each .imin (.imin w) (fun a b _ _ => held (min (v a) (v b)))
      ∧ each .imax (.imax w) (fun a b _ _ => held (max (v a) (v b)))
      ∧ each .iabs (.iabs w) (fun a _ _ _ =>
          cut n (if w.sat then clampTo n true ((valueOf n true a).natAbs : Int) else ((valueOf n true a).natAbs : Int)))
      ∧ each .shl (.shl w) (fun a b _ _ => if b < n then a * 2 ^ b else 0)
      ∧ each .shr (.shr w) (fun a b _ _ => a / 2 ^ b)
      ∧ each .sra (.sra w) (fun a b _ _ => cut n (valueOf n true a / 2 ^ min b n))
      ∧ each .rot (.rot w) (fun a b _ _ => a * 2 ^ (b % n) + a / 2 ^ (n - b % n))
      ∧ each .clz (.clz w) (fun a _ _ _ => if a = 0 then n else n - 1 - Nat.log2 a)
      ∧ each .popc (.popc w) (fun a _ _ _ => ((List.range n).filter (fun j => a.testBit j)).length)
      ∧ each .brev (.brev w) (fun a _ _ _ =>
          ((List.range n).map (fun j => if a.testBit (n - 1 - j) then 2 ^ j else 0)).sum)
      ∧ each .bfe (.bfe w) (fun a b c _ => fieldOf n w.sgn a b c)
      ∧ each .bfi (.bfi w) (fun a b c e => insertField n a b c e))
  ∧ (∀ (s : State) (gid slot next : Nat) (g : Group) (r : Run) (p : Path) (w : Leaf) (ts : List Nat) (fs : List TFault)
      (c : Ctl) (ty : Ty) (d : Opnd) (imm : BitVec 32), LeafReady s gid slot next g r p →
      (prepare g r (takersOf g slot p c) [] [d] = .go ts fs →
        exec (.moviLane c ty d imm) s = laneDone s gid slot next g r p { ctl := c, d := d } ts fs (fun _ =>
          (if ty = .b64 then BitVec.ofInt 64 imm.toInt else BitVec.ofNat 64 (imm.toNat * 2 ^ 32 + imm.toNat), 0)))
      ∧ (prepare g r (takersOf g slot p w.ctl) (leafSrcs w) [w.d] = .go ts fs →
        let n := Ty.width w.ty
        let each (o : LOp) (i : Instr) (f : Word → Word → Word → Word) : Prop :=
          exec i s = laneDone s gid slot next g r p w ts fs (fun t => (f (argA o w g r t) (argB o w g r t) (argC o w g r t), 0))
        each .and (.and w) (fun a b _ => a &&& b)
        ∧ each .or (.or w) (fun a b _ => a ||| b)
        ∧ each .xor (.xor w) (fun a b _ => a ^^^ b)
        ∧ each .sel (.sel w) (fun a b c => if c ≠ 0 then a else b)
        ∧ each .mov (.mov w) (fun a b _ => if w.imm.isSome then b else a)
        ∧ each .icmp (.icmp w) (fun a b _ => compareResult w
            ((List.range (64 / n)).map (fun j => intCondAt n w.cond.toNat (elemAt n a j) (elemAt n b j))))
        ∧ each .plop (.plop w) (fun a b _ =>
            if w.opx.toNat.testBit ((if a ≠ 0 then 2 else 0) + (if b ≠ 0 then 1 else 0)) then 1 else 0)
        ∧ each .idp4 (.idp4 w) (fun a b c => packWord 32 ((List.range 2).map (fun h =>
            let sb := w.sgn && !w.opx.getLsbD 0
            let x := valueOf 32 w.sgn (elemAt 32 c h) + ((List.range 4).map (fun j =>
              valueOf 8 w.sgn (elemAt 8 a (4 * h + j)) * valueOf 8 sb (elemAt 8 b (4 * h + j)))).sum
            cut 32 (if w.sat then clampTo 32 w.sgn x else x))))))

/-- The floating instructions on sub-elements (R129-R134): each result is that of the exact operation rounded once, or
of the function's own rule, with the flags of its inputs and of its rounding. The converters (R155-R161): the elements
at the position are converted and rounded once, the others come from the merge source; the block quantiser takes its
exponent pair. -/
def Obligations.FloatingLaneInstructionsWriteTheirResults : Prop :=
  (∀ (s : State) (gid slot next : Nat) (g : Group) (r : Run) (p : Path) (w : Leaf) (ts : List Nat) (fs : List TFault),
      LeafReady s gid slot next g r p → prepare g r (takersOf g slot p w.ctl) (leafSrcs w) [w.d] = .go ts fs →
      let n := Ty.width w.ty
      let v (x : Nat) : FVal := decodeF (fmtOf w.ty) x
      let joined (m : Nat) (rs : List (Nat × Flags)) : Word × Flags := (packWord m (rs.map (·.1)), rs.foldl (fun fl r => fl ||| r.2) 0)
      let each (o : LOp) (i : Instr) (f : Nat → Nat → Nat → Nat → Nat × Flags) : Prop :=
        exec i s = laneDone s gid slot next g r p w ts fs (fun t =>
          joined n ((List.range (64 / n)).map (fun j => f (elemAt n (argA o w g r t) j) (elemAt n (argB o w g r t) j)
            (elemAt n (argC o w g r t) j) (drawsOf gid slot next g p w t j))))
      let rounds (e : FVal × Flags) (ins : List FVal) (dr : Nat) : Nat × Flags :=
        let x := roundF (fmtOf w.ty) w.rm false dr e.1
        (x.1, e.2 ||| sigFlags ins ||| x.2)
      let sums (vs : List FVal) (fl : Flags) (dr : Nat) : Nat × Flags :=
        let e := sumF w.rm vs
        let x := roundF (fmtOf w.ty) w.rm false dr e.1
        (x.1, fl ||| e.2 ||| x.2)
      each .fadd (.fadd w) (fun a b _ dr => sums [v a, v b] (sigFlags [v a, v b]) dr)
      ∧ each .fsub (.fsub w) (fun a b _ dr => sums [v a, (v b).negate] (sigFlags [v a, v b]) dr)
      ∧ each .fmul (.fmul w) (fun a b _ dr => rounds (mulF (v a) (v b)) [v a, v b] dr)
      ∧ each .ffma (.ffma w) (fun a b c dr =>
          sums [(mulF (v a) (v b)).1, v c] ((mulF (v a) (v b)).2 ||| sigFlags [v a, v b, v c]) dr)
      ∧ each .fdiv (.fdiv w) (fun a b _ dr => rounds (divF (v a) (v b)) [v a, v b] dr)
      ∧ each .fsqrt (.fsqrt w) (fun a _ _ dr => rounds (sqrtF (v a)) [v a] dr)
      ∧ each .fmin (.fmin w) (fun a b _ _ => minMaxF (fmtOf w.ty) false a b)
      ∧ each .fmax (.fmax w) (fun a b _ _ => minMaxF (fmtOf w.ty) true a b)
      ∧ each .fclass (.fclass w) (fun a _ _ _ => (classF (fmtOf w.ty) a, 0))
      ∧ each .frcp (.frcp w) (fun a _ _ _ => frcpF w.ty a)
      ∧ each .frsq (.frsq w) (fun a _ _ _ => frsqF w.ty a)
      ∧ each .fex2 (.fex2 w) (fun a _ _ _ => fex2F w.ty a)
      ∧ each .flg2 (.flg2 w) (fun a _ _ _ => flg2F w.ty a)
      ∧ each .fsin (.fsin w) (fun a _ _ _ => trigF false w.ty a)
      ∧ each .fcos (.fcos w) (fun a _ _ _ => trigF true w.ty a)
      ∧ exec (.fcmp w) s = laneDone s gid slot next g r p w ts fs (fun t =>
          let rs := (List.range (64 / n)).map (fun j => cmpF w.cond.toNat (v (elemAt n (argA .fcmp w g r t) j))
            (v (elemAt n (argB .fcmp w g r t) j)))
          (compareResult w (rs.map (·.1)), rs.foldl (fun fl r => fl ||| r.2) 0))
      ∧ exec (.fdot2 w) s = laneDone s gid slot next g r p w ts fs (fun t =>
          joined 32 ((List.range 2).map (fun h => dot2 w (argA .fdot2 w g r t) (argB .fdot2 w g r t) (argC .fdot2 w g r t) h
            (drawsOf gid slot next g p w t h)))))
  ∧ (∀ (s : State) (gid slot next : Nat) (g : Group) (r : Run) (p : Path) (w : Leaf) (ts : List Nat) (fs : List TFault),
      LeafReady s gid slot next g r p → prepare g r (takersOf g slot p w.ctl) (leafSrcs w) [w.d] = .go ts fs →
      let joined (m : Nat) (rs : List (Nat × Flags)) : Word × Flags := (packWord m (rs.map (·.1)), rs.foldl (fun fl r => fl ||| r.2) 0)
      let src (o : LOp) (d : Ty) : Ty := (srcFormat o w.opx).getD d
      let conv (o : LOp) (i : Instr) (f : Ty → Nat → Nat → Nat × Flags) : Prop :=
        let st := src o w.ty
        let ws := Ty.width st
        let wd := Ty.width w.ty
        let n := 64 / max ws wd
        exec i s = laneDone s gid slot next g r p w ts fs (fun t =>
          joined wd ((List.range (64 / wd)).map (fun j =>
            if ws ≤ wd then f st (elemAt ws (argA o w g r t) (convPos w * n + j)) (drawsOf gid slot next g p w t j)
            else if convPos w * n ≤ j ∧ j < convPos w * n + n then
              f st (elemAt ws (argA o w g r t) (j - convPos w * n)) (drawsOf gid slot next g p w t j)
            else (elemAt wd (argB o w g r t) j, 0))))
      conv .fcvt (.fcvt w) (fun st x dr =>
        let y := roundF (fmtOf w.ty) w.rm w.sat dr (decodeF (fmtOf st) x)
        (y.1, y.2 ||| sigFlags [decodeF (fmtOf st) x]))
      ∧ conv .f2i (.f2i w) (fun st x dr => toInteger (Ty.width w.ty) w.sgn w.rm dr (decodeF (fmtOf st) x))
      ∧ conv .i2f (.i2f w) (fun st x dr =>
          let k := valueOf (Ty.width st) w.sgn x
          roundF (fmtOf w.ty) w.rm w.sat dr (.fin (decide (k < 0)) k.natAbs 0))
      ∧ exec (.pbq w) s = laneDone s gid slot next g r p w ts fs (fun t =>
          let st := src .pbq .f32
          let n := pbCount (some st)
          let m := Ty.width w.ty
          joined m ((List.range (pbCapacity w.ty)).map (fun j =>
            if convPos w * n ≤ j ∧ j < convPos w * n + n then
              quantOne m w.rm (elemAt 8 (argB .pbq w g r t) 0) (elemAt 8 (argB .pbq w g r t) 1) (drawsOf gid slot next g p w t j)
                (decodeF (fmtOf st) (elemAt (Ty.width st) (argA .pbq w g r t) (j - convPos w * n)))
            else (elemAt m (argC .pbq w g r t) j, 0))))
      ∧ exec (.pbqScale w) s = laneDone s gid slot next g r p w ts fs (fun t =>
          let st := src .pbqScale .f32
          let vals (x : Word) : List FVal :=
            (List.range (pbCount (some st))).map (fun j => decodeF (fmtOf st) (elemAt (Ty.width st) x j))
          let e := pbScaleExp (vals (argA .pbqScale w g r t) ++ (if w.s2 = .none then [] else vals (argB .pbqScale w g r t)))
            (if w.s3 = .none then none else some (argC .pbqScale w g r t).toNat)
          (BitVec.ofNat 64 (256 * e.1 + (if e.1 = 255 then 255 else e.1 - (Ty.width w.ty - 2))), e.2))
      ∧ exec (.pbdq w) s = laneDone s gid slot next g r p w ts fs (fun t =>
          let dt := src .pbdq .f32
          let n := pbCount (some dt)
          let m := Ty.width w.ty
          let e0 := elemAt 8 (argB .pbdq w g r t) 0
          let e1 := elemAt 8 (argB .pbdq w g r t) 1
          joined (Ty.width dt) ((List.range n).map (fun j =>
            let x := elemAt m (argA .pbdq w g r t) (convPos w * n + j)
            if e0 = 255 ∨ e1 = 255 then ((fmtOf dt).canon, 0)
            else roundF (fmtOf dt) w.rm w.sat (drawsOf gid slot next g p w t j)
              (.fin (x.testBit (m - 2)) (x % 2 ^ (m - 2))
                (((if x.testBit (m - 1) then e1 else e0 : Nat) : Int) - 127 - ((m : Int) - 3)))))))

/-- WHAT AN ARITHMETIC INSTRUCTION OF A LANE LEAVES (R111, R112, R118, R127): in a group at home, with no thread at fault,
each thread that takes it has its result in a full destination without a mark; every other register of every thread, the
stem's registers, the predicates that are not the destination, and every byte of memory are as they were; the lane's next
slot starts 32 cycles later at the earliest (R117). -/
def Obligations.ArithmeticLaneInstructionFrame : Prop :=
  ∀ (s : State) (gid slot next : Nat) (g : Group) (r : Run) (p : Path) (w : Leaf) (ts : List Nat) (f : Nat → Word × Flags),
    LeafReady s gid slot next g r p → g.host = none →
    prepare g r (takersOf g slot p w.ctl) (leafSrcs w) [w.d] = .go ts [] →
    ∃ t h, laneDone s gid slot next g r p w ts [] f = .next t ∧ SMap.find? t.groups gid = some h
      ∧ (∀ th ∈ ts, laneDestOk w.d = true →
          h.lreg (regOf g r th w.d) th = { val := (f th).1, fe := .full, mark := none })
      ∧ (∀ th ∈ ts, ∀ q, w.d = .pred q → q ≠ 7 → (h.preg q.toNat).getLsbD th = ((f th).1 != 0))
      ∧ (∀ th k, th < 32 → ¬ (th ∈ ts ∧ laneDestOk w.d = true ∧ k = regOf g r th w.d) → h.lreg k th = g.lreg k th)
      ∧ (∀ th q, q < 8 → th < 32 → ¬ (th ∈ ts ∧ w.d = .pred (BitVec.ofNat 3 q)) →
          (h.preg q).getLsbD th = (g.preg q).getLsbD th)
      ∧ h.a = g.a ∧ h.q = g.q ∧ h.pc = g.pc ∧ h.faultCode = g.faultCode ∧ h.faultAddr = g.faultAddr
      ∧ h.flags = ts.foldl (fun fl th => fl ||| (f th).2) g.flags ∧ h.xval = g.xval ∧ h.fills = g.fills
      ∧ t.hbm = s.hbm ∧ t.sram = s.sram ∧ t.modMem = s.modMem ∧ t.hostMem = s.hostMem
      ∧ SMap.find? (t.core g.coreN).slotAt g.lane =
          some (Nat.max ((SMap.find? (s.core g.coreN).slotAt g.lane).getD 0) (s.cycle + 32))

/-- Control of a slot's path (R138-R143). `BRA`: with every thread of the path taking, or none, the path goes on at
the target, or at the next instruction; else it splits, under a join record unless its innermost one has the same
reconvergence offset, and the taken half goes to the other slot or onto the stack; no room there is `DIVERGE_OVERFLOW`
for the path. `JOIN`, `LEND` and `LEXIT` take the taking threads off the path, `LTRAP` and `LBRK` fault them. The last
threads to arrive at a path's innermost record merge its path at the reconvergence offset, under the record's parent
(R140); threads that end leave the path, and `LEND` counts them for `ACTIVE` (R80, R141, R142). -/
def Obligations.LaneControlMovesThePath : Prop :=
  (∀ (s : State) (gid slot next : Nat) (g : Group) (r : Run) (p : Path) (c : Ctl) (w : Leaf) (b : BitVec 3)
      (disp rd : BitVec 18), LeafReady s gid slot next g r p → slot < 2 → p.mask ≠ 0 →
      let x := leafCtx gid slot next g p c
      let y := leafCtx gid slot next g p w.ctl
      let away (d : BitVec 18) : Nat := (((p.off : Int) + d.toInt) % 2 ^ 21).toNat
      let taken := x.takers &&& g.preg b.toNat
      let rest := p.mask &&& ~~~taken
      let q : Path := { off := away disp, mask := taken, jrec := p.jrec }
      let moves (g : Group) : Host.Outcome State Fault Refusal := .next ((s.freed.putGroup gid g).leafMoved x c [])
      let k := g.nextRec
      let same := match p.jrec.bind g.findRec with
        | some j => j.reconv = away rd
        | none => False
      let pushed : Group := { g with nextRec := k + 1
                                     stack := .join { id := k, reconv := away rd, expected := p.mask, arrived := 0,
                                                      parent := p.jrec } :: g.stack }
      let bra := exec (.bra c (.pred b) disp rd) s
      (taken = p.mask → bra = moves (g.setSlot slot (some { p with off := away disp })))
      ∧ (taken = 0 → bra = moves (g.setSlot slot (some { p with off := next })))
      ∧ (taken ≠ 0 → rest ≠ 0 →
        (same → g.slot (1 - slot) = none → g.stack.length ≤ 64 →
          bra = moves ((g.setSlot slot (some { p with off := next, mask := rest })).setSlot (1 - slot) (some q)))
        ∧ (same → g.slot (1 - slot) ≠ none → g.stack.length + 1 ≤ 64 →
          bra = moves { g.setSlot slot (some { p with off := next, mask := rest }) with stack := .spill q :: g.stack })
        ∧ (¬ same → g.slot (1 - slot) = none → g.stack.length + 1 ≤ 64 →
          bra = moves ((pushed.setSlot slot (some { off := next, mask := rest, jrec := some k })).setSlot (1 - slot)
            (some { q with jrec := some k })))
        ∧ (¬ same → g.slot (1 - slot) ≠ none → g.stack.length + 2 ≤ 64 →
          bra = moves { pushed.setSlot slot (some { off := next, mask := rest, jrec := some k }) with
            stack := .spill { q with jrec := some k } :: pushed.stack })
        ∧ (¬ same → 64 < g.stack.length + 1 → bra = .next (s.freed.leafEnd x c 1
            ((threadsOf p.mask).map (fun t => { thread := t, code := .divergeOverflow })))))
      ∧ exec (.lend w) s =
          .next ((s.freed.putGroup gid ((g.advance slot next).endThreads slot y.takers true)).leafMoved y w.ctl [])
      ∧ exec (.lexit w) s =
          .next ((s.freed.putGroup gid ((g.advance slot next).endThreads slot y.takers false)).leafMoved y w.ctl [])
      ∧ (y.takers ≠ 0 → exec (.join w) s =
          .next ((s.freed.putGroup gid ((g.advance slot next).arriveMask slot y.takers)).leafMoved y w.ctl []))
      ∧ (y.takers = 0 → exec (.join w) s = .next ((s.freed.putGroup gid (g.advance slot next)).leafMoved y w.ctl []))
      ∧ exec (.ltrap w) s = .next (s.freed.leafEnd y w.ctl 1 ((threadsOf y.takers).map
          (fun t => { thread := t, code := .trap, sw := ((w.imm.getD 0).toNat) % 2 ^ 16 })))
      ∧ exec (.lbrk w) s = .next (s.freed.leafEnd y w.ctl 1 ((threadsOf y.takers).map
          (fun t => { thread := t, code := .brk }))))
  ∧ (∀ (g : Group) (k id : Nat) (p : Path) (j : JoinRec) (m : Mask) (lend : Bool), k < 2 → g.slot k = some p →
      (p.jrec = some id → g.findRec id = some j → j.arrived ||| p.mask = j.expected → j.expected ≠ 0 →
        (g.arriveMask k p.mask).slot k = some { off := j.reconv, mask := j.expected, jrec := j.parent }
        ∧ (g.arriveMask k p.mask).stack = (g.dropRec id).stack
        ∧ (g.arriveMask k p.mask).slot (1 - k) = g.slot (1 - k))
      ∧ (p.mask &&& ~~~m ≠ 0 →
        (g.endThreads k m lend).slot k = some { p with mask := p.mask &&& ~~~m }
        ∧ (g.endThreads k m lend).lended = (if lend then g.lended ||| (m &&& p.mask) else g.lended)
        ∧ (g.endThreads k m lend).v = g.v))

/-- The global loads and stores (R209-R211, R323): each taking thread in ascending order, where the checks of R210 pass,
loads its bytes at its issue, extended, for a register that stays pending until the fill; or stores its bytes, at once or
(`STNT`) later; a place in a pod tier is written through the slot's stream, one operation for each sector. The bytes that
one instruction stores clear the poison of the sectors that they cover together (R219, R303). That a load from a pod tier
is read when its fill arrives is the model's choice (log entry 22). -/
def Obligations.GlobalLoadsAndStoresActByThread : Prop :=
  ∀ (s u : State) (gid slot next : Nat) (g : Group) (r : Run) (p : Path) (w : Leaf) (ts : List Nat) (fs : List TFault)
    (pt : Part) (ps : List PodStore) (as : List Nat), LeafReady s gid slot next g r p →
    SMap.find? s.parts g.part = some pt →
    let n := Ty.width w.ty / 8
    let c := leafCtx gid slot next g p w.ctl
    let req (o : LOp) (q : AccReq) (t : Nat) : AccReq :=
      let b := argA o w g r t
      { q with ptr := b, e := ptrOff b + (argB o w g r t).toInt
               unbound := q.needW && (s.freed.slotStream g w.slot.toNat).isNone }
    let ld : AccReq := { ptr := 0, e := 0, n, align := n, needR := true, kind := .read }
    let st : AccReq := { ptr := 0, e := 0, n, align := n, needW := true, wr := true, kind := .write }
    let ptr (o : LOp) (t : Nat) : Word := argA o w g r t + argB o w g r t
    let go (ds : List Opnd) : Prop := prepare g r c.takers (leafSrcs w) ds = .go ts fs
    let acts (o : LOp) (q : AccReq)
        (f : Nat → Place → State → List PodStore × List Nat → State → List PodStore × List Nat → Prop) : Prop :=
      EachThread (fun t (x y : State × List PodStore × List Nat) => ∃ pl tier d v,
        x.1.checkAccess g.coreN g (req o q t) = (.ok pl tier d, v) ∧ f t pl v x.2 y.1 y.2) ts (s.freed, [], []) (u, ps, as)
    let toPod (pl : Place) (bs : List Byte) (x : Word) (t : Nat) (v : State) : List PodStore := podStoreOf v pt pl bs x t
    (go [w.d] → GlobalReady s gid g ts true (req .ldg ld) →
      acts .ldg ld (fun t pl v l y l' => l' = l ∧ match pl with
        | .hbm a =>
          let z := v.coreRead pt.keyId g.coreN r.lease w.hint a n
          y = z.2.pendDest gid g r w.d t (.value (BitVec.ofInt 64 (valueOf (8 * n) w.sgn (wordOf z.1))))
        | pl => y = v.pendDest gid g r w.d t (.podLoad pl n w.sgn p.off v.cycle)) →
      exec (.ldg w) s = .next (s.freed.leafApply c w.ctl (.done (u.podFlush gid w.slot.toNat g false ps) 1 fs)))
    ∧ (go [] → GlobalReady s gid g ts false (req .stg st) →
      acts .stg st (fun t pl v l y l' =>
        let bs := bytesOf n (argE .stg w g r t).toNat
        match pl with
        | .hbm a => l' = (l.1, l.2 ++ span a n) ∧ y = v.coreWrite pt.keyId g.coreN w.hint (addrBytes a bs)
        | pl => y = v ∧ l' = (l.1 ++ toPod pl bs (ptr .stg t) t v, l.2)) →
      exec (.stg w) s = .next (s.freed.leafApply c w.ctl
        (.done ((u.cleanSectors as []).podFlush gid w.slot.toNat g false ps) 1 fs)))
    ∧ (go [] → GlobalReady s gid g ts false (req .stnt st) →
      acts .stnt st (fun t pl v l y l' =>
        let bs := bytesOf n (argE .stnt w g r t).toNat
        match pl with
        | .hbm a => l' = l ∧
            y = v.modGroup gid (fun h => { h with stnts := h.stnts ++ [{ addr := a, bytes := addrBytes a bs }] })
        | pl => y = v ∧ l' = (l.1 ++ toPod pl bs (ptr .stnt t) t v, l.2)) →
      exec (.stnt w) s = .next (s.freed.leafApply c w.ctl
        (.done ((u.podFlush gid w.slot.toNat g true ps).joinStnts gid g.stnts.length) 1 fs)))

/-- Atomics of the global space (R318-R320): each taking thread in ascending order reads the old value and writes the
new one indivisibly at the home slice, the old value going to the destination if there is one; a place in a module
joins the operation of the slot's stream that the instruction makes for its sector (R428). `ACAS` writes only where the old value is the compared one. The new values
of the integer atomics are those of R318, on words of n bytes. -/
def Obligations.AtomicsReadAndWriteIndivisibly : Prop :=
  (∀ (s u : State) (gid slot next : Nat) (g : Group) (r : Run) (p : Path) (w : Leaf) (ts : List Nat) (fs : List TFault)
      (pt : Part), LeafReady s gid slot next g r p → SMap.find? s.parts g.part = some pt →
      let n := Ty.width w.ty / 8
      let c := leafCtx gid slot next g p w.ctl
      let low (x : Word) : Nat := x.toNat % 2 ^ (8 * n)
      let q : AccReq := { ptr := 0, e := 0, n, align := n, needR := true, needW := true, needA := true, atomic := true,
                          wr := true, badTiers := [3], kind := .write }
      let req (o : LOp) (t : Nat) : AccReq :=
        let b := argA o w g r t
        { q with ptr := b, e := ptrOff b + (argB o w g r t).toInt
                 unbound := (s.freed.slotStream g w.slot.toNat).isNone }
      let pend (t : Nat) (v : State) (x : FillSrc) : State := if w.d = .none then v else v.pendDest gid g r w.d t x
      let each (o : LOp) (i : Instr) (f : Nat → Nat → Option Nat) (m : Nat → AtomFn) : Prop :=
        prepare g r c.takers (leafSrcs w) (if w.d = .none then [] else [w.d]) = .go ts fs →
        GlobalReady s gid g ts false (req o) →
        EachThread (fun t x y => ∃ pl tier d v, x.checkAccess g.coreN g (req o t) = (.ok pl tier d, v) ∧ match pl with
          | .hbm a =>
            let v' := v.atomTimes pt.keyId g.coreN a n
            let old := wordOf (v'.hbmBytes pt.keyId a n)
            y = pend t (match f t old with
              | some x => v'.hbmWrite pt.keyId (addrBytes a (bytesOf n x))
              | none => v') (.value (BitVec.ofNat 64 old))
          | .modul _ k a =>
            let sid := (v.slotStream g w.slot.toNat).getD 0
            let z := v.streamAtom gid w.slot.toNat g k s.nextId { thr := t, addr := a, n, fn := m t }
              (argA o w g r t + argB o w g r t)
            y = pend t z.2 (.stream sid z.1 n p.off)
          | .host _ => y = v) ts s.freed u →
        exec i s = .next (s.freed.leafApply c w.ctl (.done u 1 fs))
      let atom (o : LOp) (i : Instr) (op : AtomOp) : Prop :=
        each o i (fun t old => some (atomNew op n w.sgn old (low (argE o w g r t))))
          (fun t => .op op (argE o w g r t) w.sgn)
      atom .atomAdd (.atomAdd w) .add ∧ atom .atomAnd (.atomAnd w) .and ∧ atom .atomOr (.atomOr w) .or
      ∧ atom .atomXor (.atomXor w) .xor ∧ atom .atomMin (.atomMin w) .min ∧ atom .atomMax (.atomMax w) .max
      ∧ atom .atomExch (.atomExch w) .exch ∧ atom .atomFadd (.atomFadd w) .fadd ∧ atom .atomFmin (.atomFmin w) .fmin
      ∧ atom .atomFmax (.atomFmax w) .fmax
      ∧ each .acas (.acas w) (fun t old => if old = low (argC .acas w g r t) then some (low (argE .acas w g r t)) else none)
          (fun t => .cas (argC .acas w g r t) (argE .acas w g r t)))
  ∧ (∀ (n : Nat) (sgn : Bool) (old x : Nat), (n = 4 ∨ n = 8) → old < 2 ^ (8 * n) → x < 2 ^ (8 * n) →
      let v (y : Nat) : Int := if sgn = true ∧ 2 ^ (8 * n - 1) ≤ y then (y : Int) - 2 ^ (8 * n) else y
      atomNew .add n sgn old x = (old + x) % 2 ^ (8 * n)
      ∧ (∀ i, (atomNew .and n sgn old x).testBit i = (old.testBit i && x.testBit i))
      ∧ (∀ i, (atomNew .or n sgn old x).testBit i = (old.testBit i || x.testBit i))
      ∧ (∀ i, (atomNew .xor n sgn old x).testBit i = (old.testBit i ^^ x.testBit i))
      ∧ v (atomNew .min n sgn old x) = min (v old) (v x) ∧ v (atomNew .max n sgn old x) = max (v old) (v x)
      ∧ atomNew .exch n sgn old x = x)

/-- `LR` reads its word, raises the line's times as a load does and places a reservation for the thread (R321); `SC`
stores, and gives 0, where the thread still holds the reservation of the line, else it gives 1 and stores nothing (R322);
the reservation is gone either way. The reservations of a thread that are 65,536 cycles old expire. -/
def Obligations.ReservationPairLoadsAndStores : Prop :=
  ∀ (s u : State) (gid slot next : Nat) (g : Group) (r : Run) (p : Path) (w : Leaf) (ts : List Nat) (fs : List TFault)
    (pt : Part), LeafReady s gid slot next g r p → SMap.find? s.parts g.part = some pt →
    let n := Ty.width w.ty / 8
    let c := leafCtx gid slot next g p w.ctl
    let q : AccReq := { ptr := 0, e := 0, n, align := n, needR := true, needW := true, needA := true, atomic := true,
                        wr := true, badTiers := [1, 2, 3], kind := .write }
    let req (o : LOp) (q : AccReq) (t : Nat) : AccReq :=
      let b := argA o w g r t
      { q with ptr := b, e := ptrOff b + (argB o w g r t).toInt
               unbound := (s.freed.slotStream g w.slot.toNat).isNone }
    let lrq : AccReq := { q with wr := false, kind := .read }
    let gone (x : State) (t : Nat) : List (Nat × Nat × Nat × Nat × Nat) :=
      x.resvs.filter (fun e => !(e.2.2.1 == gid && e.2.2.2.1 == t))
    prepare g r c.takers (leafSrcs w) [w.d] = .go ts fs → GlobalReady s gid g ts false (req .lr lrq) →
    GlobalReady s gid g ts false (req .sc q) →
    (EachThread (fun t x y => ∃ a d v, x.checkAccess g.coreN g (req .lr lrq t) = (.ok (.hbm a) 0 d, v) ∧
        let v' := v.lrTimes g.coreN (lineOf a) r.lease
        y = (v'.placeResv (lineOf a) gid t).pendDest gid g r w.d t
            (.value (BitVec.ofInt 64 (valueOf (8 * n) w.sgn (wordOf (v'.hbmBytes pt.keyId a n)))))) ts s.freed u →
      exec (.lr w) s = .next (s.freed.leafApply c w.ctl (.done u 1 fs)))
    ∧ (EachThread (fun t x y => ∃ a d v, x.checkAccess g.coreN g (req .sc q t) = (.ok (.hbm a) 0 d, v) ∧
        let held := v.resvs.any (fun e => e.2.1 == lineOf a && e.2.2.1 == gid && e.2.2.2.1 == t
          && decide (v.cycle < e.2.2.2.2 + 65536))
        let v' : State := { v with resvs := gone v t }
        y = (if held then (v'.atomTimes pt.keyId g.coreN a n).hbmWrite pt.keyId
              (addrBytes a (bytesOf n (argE .sc w g r t).toNat)) else v'.bringHome (lineOf a)).pendDest gid g r w.d t
            (.value (if held then 0 else 1))) ts s.freed u →
      exec (.sc w) s = .next (s.freed.leafApply c w.ctl (.done u 1 fs)))
    ∧ (∀ (v : State) (l t : Nat), ∃ z, v.placeResv l gid t = { v with resvs := z }
        ∧ (homeSlice l, l, gid, t, v.cycle) ∈ z ∧ (∀ e ∈ z, e.2.2.1 = gid → e.2.2.2.1 = t → e.2.1 = l)
        ∧ ((gone v t).length < 256 → ∀ e ∈ gone v t, e ∈ z))
    ∧ ∀ (s : State) (t : Nat), ∃ z, exec (.lrReservationExpiry gid t) s = .next z ∧ z = { s with resvs := z.resvs } ∧
        ∀ e, e ∈ z.resvs ↔ (e ∈ s.resvs ∧ ¬ (e.2.2.1 = gid ∧ e.2.2.2.1 = t ∧ e.2.2.2.2 + 65536 ≤ s.cycle))

/-- Scratch and local accesses (R210, R212, R213): each taking thread in ascending order loads its bytes, extended, for a
pending register, or stores them, and the stores of one instruction clear the poison of the sectors that they cover
together (R219, R303); `ATOMP` reads and writes its word in one place of the bank's order (R320, R314). -/
def Obligations.ScratchAndLocalAccessesActByThread : Prop :=
  ∀ (s u : State) (gid slot next : Nat) (g : Group) (r : Run) (p : Path) (w : Leaf) (ts : List Nat) (fs : List TFault)
    (pt : Part) (as : List Nat), LeafReady s gid slot next g r p → SMap.find? s.parts g.part = some pt →
    g.podLoads ts = false → s.fifoWaits gid ts = false →
    let n := Ty.width w.ty / 8
    let c := leafCtx gid slot next g p w.ctl
    let off (o : LOp) (t : Nat) : Int := (argA o w g r t).toInt + (argB o w g r t).toInt
    let loaded (bs : List Byte) : FillSrc := .value (BitVec.ofInt 64 (valueOf (8 * n) w.sgn (wordOf bs)))
    let each (i : Instr) (ds : List Opnd) (f : Nat → State → State → Prop) : Prop :=
      prepare g r c.takers (leafSrcs w) ds = .go ts fs → EachThread f ts s.freed u →
      exec i s = .next (s.freed.leafApply c w.ctl (.done u 1 fs))
    let stores (i : Instr) (f : Nat → State → State → Nat → Prop) (z : State) : Prop :=
      prepare g r c.takers (leafSrcs w) [] = .go ts fs →
      EachThread (fun t (x y : State × List Nat) => ∃ a, f t x.1 y.1 a ∧ y.2 = x.2 ++ span a n) ts (s.freed, []) (u, as) →
      exec i s = .next (s.freed.leafApply c w.ctl (.done z 1 fs))
    let atomp (o : LOp) (i : Instr) (op : AtomOp) : Prop :=
      each i (if w.d = .none then [] else [w.d]) (fun t x y => ∃ a, x.checkScratch g (off o t) n n = .ok a ∧
        x.sramBad a n = false ∧
        let old := wordOf (x.sramBytes a n)
        let v := x.scratchWrite g.coreN a (bytesOf n (atomNew op n w.sgn old ((argE o w g r t).toNat % 2 ^ (8 * n))))
        y = if w.d = .none then v else v.pendDest gid g r w.d t (.value (BitVec.ofNat 64 old)))
    each (.ldp w) [w.d] (fun t x y => ∃ a, x.checkScratch g (off .ldp t) n n = .ok a ∧ x.sramBad a n = false ∧
      y = ((x.bankTime g.coreN a false).pendDest gid g r w.d t (loaded ((x.bankTime g.coreN a false).sramBytes a n))))
    ∧ stores (.stp w) (fun t x y a => x.checkScratch g (off .stp t) n n = .ok a ∧
      y = (x.bankTime g.coreN a true).sramWrite (addrBytes a (bytesOf n (argE .stp w g r t).toNat))) (u.cleanSectors [] as)
    ∧ each (.ldl w) [w.d] (fun t x y => ∃ a bs v, checkLocal pt g t (off .ldl t) n = .ok a ∧ x.hbmBadSpan a n = false ∧
      x.coreRead pt.keyId g.coreN r.lease w.hint a n = (bs, v) ∧ y = v.pendDest gid g r w.d t (loaded bs))
    ∧ stores (.stl w) (fun t x y a => checkLocal pt g t (off .stl t) n = .ok a ∧ x.placeFailed (.hbm a) = false ∧
      y = x.coreWrite pt.keyId g.coreN w.hint (addrBytes a (bytesOf n (argE .stl w g r t).toNat))) (u.cleanSectors as [])
    ∧ atomp .atompAdd (.atompAdd w) .add ∧ atomp .atompAnd (.atompAnd w) .and ∧ atomp .atompOr (.atompOr w) .or
    ∧ atomp .atompXor (.atompXor w) .xor ∧ atomp .atompMin (.atompMin w) .min ∧ atomp .atompMax (.atompMax w) .max
    ∧ atomp .atompExch (.atompExch w) .exch ∧ atomp .atompFadd (.atompFadd w) .fadd
    ∧ atomp .atompFmin (.atompFmin w) .fmin ∧ atomp .atompFmax (.atompFmax w) .fmax

/-- `LDK` reads the argument block of the group's task (R214), `PREF` fetches a line where its checks pass and else does
nothing (R215), `FPUSH` and `FPOP` of one bank that their cluster owns enter its queue (R216, R217); a served push appends
its entries, a served pop takes the oldest ones. Three points are the model's choice: a request that stands first is
served at once (log entry 16), a sector of the argument block that was kept serves where its memory is lost (log entry
19), and `PREF` does nothing where the port is down (log entry 98). -/
def Obligations.ArgumentPrefetchAndFifoActByThread : Prop :=
  ∀ (s u : State) (gid slot next : Nat) (g : Group) (r : Run) (p : Path) (w : Leaf) (ts : List Nat) (fs : List TFault)
    (pt : Part) (k : Task), LeafReady s gid slot next g r p → SMap.find? s.parts g.part = some pt →
    SMap.find? s.tasks g.tid = some k → g.host = none →
    let n := Ty.width w.ty / 8
    let c := leafCtx gid slot next g p w.ctl
    let done (v : State) : Host.Outcome State Fault Refusal := .next (s.freed.leafApply c w.ctl (.done v 1 fs))
    let gr := g.coreN / 4
    let b (o : LOp) : Nat := (argA o w g r (ts.headD 0)).toNat % 16
    let bank (o : LOp) : Bank := (s.grove gr).bank (b o)
    let mine (o : LOp) : Prop := g.podLoads ts = false ∧ ts ≠ [] ∧
      (∀ t ∈ ts, (argA o w g r t).toNat % 16 = b o) ∧ (bank o).mode = .fifo ∧ (bank o).owner = g.cid
    (prepare g r c.takers (leafSrcs w) [w.d] = .go ts fs →
      (∀ t ∈ ts, s.argHeld gid g pt ((argA .ldk w g r t).toInt + (argB .ldk w g r t).toInt) n = false) →
      EachThread (fun t x y => ∃ d v bs z kx, SMap.find? x.tasks g.tid = some kx ∧ kx.args = k.args ∧
        kx.argLen = k.argLen ∧ x.coreDesc g.coreN g.part (ptrObj k.args) = (.ok d, v) ∧
        let e := (argA .ldk w g r t).toInt + (argB .ldk w g r t).toInt
        let o := (ptrOff k.args : Int) + e
        v.argWalkBad pt gid g (ptrObj k.args) d o = false ∧ d.r = true ∧ 0 ≤ e ∧ e + n ≤ k.argLen ∧ o + n ≤ d.size ∧ e.toNat % n = 0 ∧ sealFault (keyClass pt d) = none ∧
        v.argBytes pt gid g (ptrObj k.args) d o.toNat n = .ok bs z ∧
        y = z.pendDest gid g r w.d t (.value (BitVec.ofInt 64 (valueOf (8 * n) w.sgn (wordOf bs))))) ts s.freed u →
      exec (.ldk w) s = done u)
    ∧ (∀ (s : State) (obj : Nat) (d : Desc) (sec : Nat) (pl : Place) (tier : Nat) (v : State),
      s.findPage (coreDie g.coreN) g pt obj d (32 * sec) false = (.place pl tier, v) → SMap.find? s.tasks g.tid = some k →
      (SMap.find? k.lk sec = none → v.placeLost pl = false → v.placeBad pl 32 = false →
        s.argSector pt gid g obj d sec = .ok (v.placeBytes pt pl 32)
          (v.modTask g.tid (fun y => { y with lk := SMap.put y.lk sec (v.placeBytes pt pl 32) })))
      ∧ (∀ old, SMap.find? k.lk sec = some old → ∃ bs z, s.argSector pt gid g obj d sec = .ok bs z ∧
        (v.placeLost pl = true → bs = old) ∧ (old.length = 32 → bs.length = 32 ∧
          ∀ i, i < 32 → bs.getD i 0 = old.getD i 0 ∨ bs.getD i 0 = (v.placeBytes pt pl 32).getD i 0)))
    ∧ (prepare g r c.takers (leafSrcs w) [] = .go ts fs →
      let q (t : Nat) : AccReq :=
        let a := argA .pref w g r t
        { ptr := a, e := ptrOff a + (argB .pref w g r t).toInt, n := 1, align := 1, needR := true }
      (s.podBlocked gid = true → ∀ t ∈ ts, ∀ pl tier d,
        (s.freed.checkAccess g.coreN g (q t)).1 = .ok pl tier d → isPod pl = false) →
      EachThread (fun t x y =>
        (∃ h tier d v, x.checkAccess g.coreN g (q t) = (.ok (.hbm h) tier d, v) ∧
          y = if v.hbmBadSpan (128 * lineOf h) 128 then v
            else v.prefetch pt.keyId g.coreN (lineOf h) r.lease w.hint)
        ∨ (∃ pl tier d v, x.checkAccess g.coreN g (q t) = (.ok pl tier d, v) ∧ isPod pl = true ∧
          y = if v.placeDown pl then v else (v.podRead pt pl 1).2)
        ∨ (∃ f v, x.checkAccess g.coreN g (q t) = (.fault f, v) ∧ y = v)
        ∨ (∃ m v, x.checkAccess g.coreN g (q t) = (.miss m, v) ∧ y = v)) ts s.freed u →
      exec (.pref w) s = done u)
    ∧ (prepare g r c.takers (leafSrcs w) [] = .go ts fs → mine .fpush →
      let q : FifoReq := { gid, push := ts.map (argE .fpush w g r), pop := []
                           regs := if Opnd.hasEm w.s4 then ts.map (fun t => (regOf g r t w.s4, t)) else [], ts
                           at_ := s.cycle, seen := g.v }
      let v := s.freed.modBank gr (b .fpush) (fun y => { y with pushq := y.pushq ++ [q] })
      exec (.fpush w) s = done (if (bank .fpush).pushq = [] then v.servePush gr (b .fpush) else v))
    ∧ (prepare g r c.takers (leafSrcs w) [w.d] = .go ts fs → mine .fpop →
      let q : FifoReq := { gid, push := [], pop := ts.map (fun t => (regOf g r t w.d, t)), ts, at_ := s.cycle
                           seen := g.v }
      let v := (ts.foldl (fun v t => v.pendDest gid g r w.d t (.fifo gr (b .fpop))) s.freed).modBank gr (b .fpop)
        (fun y => { y with popq := y.popq ++ [q] })
      exec (.fpop w) s = done (if (bank .fpop).popq = [] then v.servePop gr (b .fpop) else v))
    ∧ ∀ (s : State) (gr b : Nat) (q : FifoReq) (qs : List FifoReq), ((s.grove gr).bank b).mode = .fifo →
      (((s.grove gr).bank b).pushq = q :: qs → ((s.grove gr).bank b).entries.length + q.push.length ≤ 32767 →
        ∃ t, exec (.fifoRequestServe gr b false) s = .next t
          ∧ ((t.grove gr).bank b).entries = ((s.grove gr).bank b).entries ++ q.push
          ∧ ((t.grove gr).bank b).pushq = qs ∧ ((t.grove gr).bank b).popq = ((s.grove gr).bank b).popq)
      ∧ (((s.grove gr).bank b).popq = q :: qs → q.pop.length ≤ ((s.grove gr).bank b).entries.length →
        ∃ t, exec (.fifoRequestServe gr b true) s = .next t
          ∧ ((t.grove gr).bank b).entries = ((s.grove gr).bank b).entries.drop q.pop.length
          ∧ ((t.grove gr).bank b).popq = qs ∧ ((t.grove gr).bank b).pushq = ((s.grove gr).bank b).pushq)

/-- The cross-lane instructions, with their suppliers full and unmarked and their destinations free (R170-R184). `NBR`:
the neighbour's register, a chain read's fill from another group, or B at a chain end; `SHFL`: the element that each
selector byte names; `XPUT`: the last push to each element, and p[s3] where a push was lost; `BCST`: one element in all
places; `SCAN` and `RED`: the folds in thread order from the initial value; `VOTEL` and `MATCH`: masks of threads. -/
def Obligations.CrossLaneInstructionsWriteTheirResults : Prop :=
  (∀ (s : State) (gid slot next : Nat) (g : Group) (r : Run) (p : Path) (w : Leaf),
    LeafReady s gid slot next g r p → takersOf g slot p w.ctl = 0 →
    let ends (m : Nat) : Host.Outcome State Fault Refusal :=
      .next (s.freed.leafEnd (leafCtx gid slot next g p w.ctl) w.ctl m [])
    (∀ i ∈ [Instr.nbrLeft w, .nbrRight w, .scanAdd w, .scanMin w, .scanMax w, .scanAnd w, .scanOr w, .scanXor w],
      exec i s = ends 1)
    ∧ ∀ i ∈ [Instr.shfl w, .xput w, .bcst w, .redAdd w, .redMin w, .redMax w, .redAnd w, .redOr w, .redXor w, .votelAny w,
      .votelAll w, .votelUniform w, .votelBallot w, .matchT w], exec i s = ends 2)
  ∧ ∀ (s : State) (gid slot next : Nat) (g : Group) (r : Run) (p : Path) (w : Leaf) (ts : List Nat) (fs : List TFault),
    LeafReady s gid slot next g r p → takersOf g slot p w.ctl ≠ 0 →
    let n := Ty.width w.ty
    let els := List.range (64 / n)
    let c := leafCtx gid slot next g p w.ctl
    let k := regOf g r 0 w.s1
    let sup (t : Nat) : Word := (g.lreg k t).val
    let full (us : Nat → List Nat) : Prop :=
      ∀ t ∈ ts, ∀ u ∈ us t, g.isEmpty k u = false ∧ (g.lreg k u).mark = none
    let ready (own : List Nat) (ops : List Opnd) : Prop :=
      readable g r c.takers (srcList w own) ops = some (ts, fs) ∧ ∀ t ∈ ts, dstWaits g r t [w.d] = false
    let ends (g' : Group) (m : Nat) : Host.Outcome State Fault Refusal :=
      .next (s.freed.leafApply c w.ctl (.done (s.freed.putGroup gid g') m fs))
    let writes (f : Nat → Word) : Group := ts.foldl (fun (h : Group) t => h.writeDest g r w.d t (f t)) g
    let same (f : Nat → Nat) : Prop := ∀ t ∈ ts, ∀ u ∈ ts, f t = f u
    let nbr (o : LOp) (i : Instr) (right : Bool) : Prop := ready [2] [w.s1, w.d] →
      same (fun t => (argB o w g r t).toNat) →
      full (fun t => match s.neighbour g right t with
        | .here u => [u] | _ => []) →
      exec i s = ends (ts.foldl (fun (h : Group) t => match s.neighbour g right t with
        | .here u => h.writeDest g r w.d t (sup u)
        | .far wg idx u => h.pendLane (regOf g r t w.d) t (.chainRead wg idx u k)
        | .edge => h.writeDest g r w.d t (argB o w g r t)) g) 1
    let at_ (t i : Nat) : Nat × Nat :=
      let x := elemAt 8 (argB .shfl w g r t) i
      (if w.opx.getLsbD 0 then t ^^^ (x % 32) else x % 32, x / 32 % (64 / n))
    let who (t : Nat) : Nat := match w.imm with
      | some i => i.toNat % 32
      | none => (argB .bcst w g r t).toNat % 32
    let el (t : Nat) : Nat := match w.imm with
      | some i => i.toNat / 32 % 8 % (64 / n)
      | none => (argC .bcst w g r t).toNat % 8 % (64 / n)
    let fold (o : LOp) (op : Nat) (l : List Nat) : Word × Flags := l.foldl (fun a t =>
      let z := foldWord op w.ty w.sgn w.rm a.1 (argA o w g r t)
      (z.1, a.2 ||| z.2)) (foldInit o w op g r ts, 0)
    let init (o : LOp) : Prop := same (fun t => (argB o w g r t).toNat)
    let scan (o : LOp) (i : Instr) (op : Nat) : Prop := ready [1, 2] [w.d] → init o →
      exec i s = ends ((((List.range ts.length).foldl (fun (h : Group) j => h.writeDest g r w.d (ts.getD j 0)
        (fold o op (ts.take (if w.opx.getLsbD 3 then j else j + 1))).1) g)).raise (fold o op ts).2) 1
    let red (o : LOp) (i : Instr) (op : Nat) : Prop := ready [1, 2] [w.d] → init o →
      exec i s = ends ((writes (fun _ => (fold o op ts).1)).raise (fold o op ts).2) 2
    let votes : Nat → Bool := fun t => match w.s1 with
      | .pred q => (g.preg q.toNat).getLsbD t
      | _ => false
    let votel (i : Instr) (x : Word) : Prop := ready [1] [w.d] → exec i s = ends (writes (fun _ => x)) 2
    let key (t : Nat) : Nat :=
      if w.ty = .b64 then (argA .matchT w g r t).toNat else elemAt 32 (argA .matchT w g r t) w.sel.toNat
    nbr .nbrLeft (.nbrLeft w) false ∧ nbr .nbrRight (.nbrRight w) true
    ∧ (ready [2] [w.s1, w.d] → full (fun t => els.map (fun i => (at_ t i).1)) →
        exec (.shfl w) s = ends (writes (fun t =>
          packWord n (els.map (fun i => elemAt n (sup (at_ t i).1) (at_ t i).2)))) 2)
    ∧ (ready [2, 3] [w.s1, w.d] → same who → (w.imm = none → same (fun t => (argC .bcst w g r t).toNat % 8)) →
        full (fun t => [who t]) →
        exec (.bcst w) s = ends (writes (fun t => splat n (elemAt n (sup (who t)) (el t)))) 2)
    ∧ scan .scanAdd (.scanAdd w) 0 ∧ scan .scanMin (.scanMin w) 1 ∧ scan .scanMax (.scanMax w) 2
    ∧ scan .scanAnd (.scanAnd w) 3 ∧ scan .scanOr (.scanOr w) 4 ∧ scan .scanXor (.scanXor w) 5
    ∧ red .redAdd (.redAdd w) 0 ∧ red .redMin (.redMin w) 1 ∧ red .redMax (.redMax w) 2
    ∧ red .redAnd (.redAnd w) 3 ∧ red .redOr (.redOr w) 4 ∧ red .redXor (.redXor w) 5
    ∧ votel (.votelAny w) (if ts.any votes then 1 else 0) ∧ votel (.votelAll w) (if ts.all votes then 1 else 0)
    ∧ votel (.votelUniform w) (if ts.all votes || ts.all (fun t => !votes t) then 1 else 0)
    ∧ votel (.votelBallot w) ((maskOf (ts.filter votes)).setWidth 64)
    ∧ (ready [1] [w.d] → exec (.matchT w) s =
        ends (writes (fun t => (maskOf (ts.filter (fun u => key u == key t))).setWidth 64)) 2)
    ∧ (readable g r c.takers (srcList w [1, 2]) [w.d] = some (ts, fs) →
        (∀ u, u < 32 → (g.lreg (regOf g r 0 w.d) u).fe ≠ .pending) →
        ∃ g', exec (.xput w) s = ends g' 2 ∧
          let ps := pushes w g r ts
          let d := regOf g r 0 w.d
          (∀ u, u < 32 → (∀ x ∈ ps, x.2.1.1 ≠ u) → g'.lreg d u = g.lreg d u)
          ∧ (∀ u, u < 32 → (∃ x ∈ ps, x.2.1.1 = u) → g'.lreg d u = { val := packWord n (els.map (fun j =>
              (((ps.filter (fun x => x.2.1 == (u, j))).getLast?).map (·.2.2)).getD (elemAt n (g.lreg d u).val j))) })
          ∧ (∀ x : BitVec 3, x ≠ 7 → w.s3 = .pred x → ∀ t ∈ ts,
              (g'.preg x.toNat).getLsbD t = (lostOf ps).contains t))

/-- `SCAN` with chain (R181): the cluster's first group starts at the initial value and has its prefixes and its carry at
once, as fills; another group's registers wait for the carry of the group to its left, which comes with
`CHAIN_READ_FILL`, as does the register of a chain read of `NBR` (R165, R168). A supplier that leaves hands the reads that
wait for it what its register holds, or a break mark if it is not full (R166). That the read raises the pts of the
reader's core to the supplier's is the model's choice (log entry 25). -/
def Obligations.ChainInstructionsTakeTheirCarry : Prop :=
  ∀ (s : State) (gid slot next : Nat) (g : Group) (r : Run) (p : Path) (w : Leaf) (ts : List Nat) (fs : List TFault),
    (LeafReady s gid slot next g r p → takersOf g slot p w.ctl ≠ 0 →
      let c := leafCtx gid slot next g p w.ctl
      let d := regOf g r 0 w.d
      let q (key wg idx : Nat) : ScanWait :=
        { key, leftWg := wg, leftGroup := idx, reg := d, ty := w.ty, op := w.opx.toNat % 8, sgn := w.sgn, rm := w.rm
          takers := maskOf ts, vals := ts.map (argA .scanChain w g r) }
      (∀ t ∈ ts, dstWaits g r t [w.d] = false) → (g.lreg d 31).fe ≠ .pending → (resolveReg g r 0 w.d).toBool = true →
      let ends (x : Group) : Host.Outcome State Fault Refusal := .next (s.freed.leafApply c w.ctl
        (.done ({ s.freed with nextId := s.nextId + 1 }.putGroup gid x) 1 fs))
      (s.neighbour g false 0 = .edge → readable g r c.takers (srcList w [1, 2]) [w.d] = some (ts, fs) →
        (∀ t ∈ ts, ∀ u ∈ ts, argB .scanChain w g r t = argB .scanChain w g r u) →
        exec (.scanChain w) s = ends (g.scanGo (q s.nextId 0 0) (foldInit .scanChain w (w.opx.toNat % 8) g r ts)))
      ∧ (∀ wg idx t, s.neighbour g false 0 = .far wg idx t →
        readable g r c.takers (srcList w [1]) [w.d] = some (ts, fs) →
        exec (.scanChain w) s = ends
          (let h := (q s.nextId wg idx).targets.foldl (fun (h : Group) t => h.pendLane d t (.scanCarry s.nextId)) g
           { h with scans := h.scans ++ [q s.nextId wg idx] })))
    ∧ (∀ (reg th wg idx t n : Nat) (f : Fill), SMap.find? s.groups gid = some g → g.core.isSome = true →
      g.evicted = false → g.fills.find? (fun f => f.reg == reg && f.thread == th) = some f →
      f.src = .chainRead wg idx t n →
      (s.chainRes g wg idx t n = none → exec (.chainReadFill gid reg th) s = .next s)
      ∧ (∀ m, s.chainRes g wg idx t n = some (.mark m) →
          exec (.chainReadFill gid reg th) s = .next (s.putGroup gid (g.fillLane reg th (.error m))))
      ∧ (∀ at_ v, s.chainRes g wg idx t n = some (.value at_ v) →
          exec (.chainReadFill gid reg th) s =
            .next ((s.putGroup gid (g.fillLane reg th (.ok v))).raisePts g.coreN at_)))
    ∧ (∀ (reg th key : Nat) (f : Fill) (x : ScanWait), SMap.find? s.groups gid = some g → g.core.isSome = true →
      g.evicted = false → g.fills.find? (fun f => f.reg == reg && f.thread == th) = some f →
      (∀ m, f.src = .chainGot (.mark m) →
        exec (.chainReadFill gid reg th) s = .next (s.putGroup gid (g.fillLane reg th (.error m))))
      ∧ (∀ at_ v, f.src = .chainGot (.value at_ v) → exec (.chainReadFill gid reg th) s =
          .next ((s.putGroup gid (g.fillLane reg th (.ok v))).raisePts g.coreN at_))
      ∧ (f.src = .scanCarry key → g.scans.find? (fun q => q.key == key) = some x →
        ∀ at_ v, x.got.or (s.chainRes g x.leftWg x.leftGroup 31 x.reg) = some (.value at_ v) →
          exec (.chainReadFill gid reg th) s = .next ((s.putGroup gid (g.scanGo x v)).raisePts g.coreN at_)))
    ∧ (∀ (u v : Group) (k th n : Nat) (x : ChainGot), SMap.find? s.groups k = some v → v.cid = u.cid → v.host = none →
      n < 8 * u.chunks →
      (∃ f ∈ v.fills, f.src = .chainRead u.wg u.idx th n) →
      ((u.lreg n th).fe ≠ .full → x = .mark .brk)
      → ((u.lreg n th).fe = .full → ∀ m, (u.lreg n th).mark = some m → x = .mark m)
      → ((u.lreg n th).fe = .full → (u.lreg n th).mark = none → x = .value (s.pts u.coreN) (u.lreg n th).val) →
      ∃ h, SMap.find? (s.takeReads u 0).groups k = some h ∧ ∃ f ∈ h.fills, f.src = .chainGot x)

/-- Marks, index registers, flags and thread numbers (R110, R113, R154). Tile moves by a group that holds its slice
(R254, R258): `ZMOV` makes eight registers of each taking thread pending and `ZLD` takes eight registers' values, each
entering its tile's order, where it takes effect when it stands first. -/
def Obligations.LaneStateAndTileInstructionsAct : Prop :=
  (∀ (s : State) (gid slot next : Nat) (g : Group) (r : Run) (p : Path) (w : Leaf) (ts : List Nat) (fs : List TFault),
      LeafReady s gid slot next g r p →
      let c := leafCtx gid slot next g p w.ctl
      let ends (ts : List Nat) (fs : List TFault) (f : Nat → Group → Group) : Host.Outcome State Fault Refusal :=
        .next (s.freed.leafApply c w.ctl (.done (s.freed.putGroup gid (ts.foldl (fun h t => f t h) g)) 1 fs))
      let reads (i : Instr) (f : Nat → Word) : Prop :=
        prepare g r c.takers [] [w.d] = .go ts fs → exec i s = ends ts fs (fun t h => h.writeDest g r w.d t (f t))
      let x := w.opx.toNat % 4
      let sets (i : Instr) (f : Nat → BitVec 16) : Prop :=
        prepare g r c.takers (leafSrcs w) [] = .go ts fs → exec i s = ends ts fs (fun t h => h.setXv x t (f t))
      let num (t : Nat) : Nat := match g.host with
        | some h => ((h.buds[t]?).map (·.sthread)).getD 0
        | none => t
      let m := w.opx.toNat / 4 + 1
      let bad (t : Nat) : Option TFault := spanFault g r t w.d m
      let all := threadsOf c.takers
      let good := all.filter (fun t => (bad t).isNone)
      let named (t : Nat) : List Nat := (List.range m).map (fun i => regOf g r t w.d + i)
      exec (.femkTest w) s = ends (all.filter (fun t => (rangeFault g r t [w.s1]).isNone))
          (all.filterMap (fun t => rangeFault g r t [w.s1]))
          (fun t h => h.writeDest g r w.d t (if (g.lreg (regOf g r t w.s1) t).fe = .full then 1 else 0))
      ∧ exec (.femkEmpty w) s = ends good (all.filterMap bad) (fun t h => (named t).foldl (fun (h : Group) k =>
          if (h.lreg k t).fe = .pending then h else h.setLreg k t { h.lreg k t with fe := .empty }) h)
      ∧ ((∀ t ∈ good, ∀ k ∈ named t, (g.lreg k t).fe ≠ .pending) →
        exec (.femkFull w) s = ends good (all.filterMap bad) (fun t h => (named t).foldl (fun (h : Group) k =>
          h.setLreg k t { h.lreg k t with fe := .full }) h))
      ∧ sets (.xmovSet w) (fun t => (argA .xmovSet w g r t).setWidth 16)
      ∧ sets (.xmovAdd w) (fun t => g.xv x t + (argA .xmovAdd w g r t).setWidth 16)
      ∧ reads (.xmovRead w) (fun t => (g.xv x t).setWidth 64)
      ∧ reads (.sreadlThread w) (fun t => BitVec.ofNat 64 (num t))
      ∧ reads (.sreadlPair w) (fun t => BitVec.ofNat 64 (if g.host.isSome then num t else 32 * g.idx + t))
      ∧ reads (.sreadlFlags w) (fun _ => g.flags.setWidth 64)
      ∧ (prepare g r c.takers [] [w.d] = .go ts fs → exec (.sreadlFlagsclr w) s =
          ends ts fs (fun t h => { h.writeDest g r w.d t (g.flags.setWidth 64) with flags := 0 })))
  ∧ (∀ (s : State) (gid slot next : Nat) (g : Group) (r : Run) (p : Path) (w : Leaf) (ts : List Nat) (fs : List TFault)
      (t0 : Nat), LeafReady s gid slot next g r p → g.host = none → s.holdsSlice g = true → ts.head? = some t0 →
      let c := leafCtx gid slot next g p w.ctl
      let tile (o : LOp) (t : Nat) : Nat := (argB o w g r t).toNat % 64
      let push (x : State) (z : Nat) (o : TileOp) : State :=
        (x.modGrove (g.coreN / 4) (fun y => { y with tileOps := y.tileOps ++ [(g.coreN, z, o)] })).advanceTile g.coreN z
      let ends (x : State) : Host.Outcome State Fault Refusal := .next (s.freed.leafApply c w.ctl (.done x 1 fs))
      let eight (n : Nat) : List Nat := (List.range 8).map (fun i => n + i)
      (moveThreads g r w c.takers w.d = some (ts, fs) → (∀ t ∈ ts, tile .zmov t = tile .zmov t0) →
        let d := regOf g r t0 w.d
        (∀ t ∈ ts, ∀ k ∈ eight d, (g.lreg k t).fe ≠ .pending) →
        exec (.zmov w) s = ends (push ({ s.freed with nextId := s.nextId + 1 }.putGroup gid
          (ts.foldl (fun (h : Group) t => (eight d).foldl (fun (h : Group) k => h.pendLane k t (.tile s.nextId)) h) g))
          (tile .zmov t0) (.zmov s.nextId gid d (maskOf ts) (w.opx.getLsbD 0))))
      ∧ (moveThreads g r w c.takers w.s1 = some (ts, fs) → (∀ t ∈ ts, tile .zld t = tile .zld t0) →
        let d := regOf g r t0 w.s1
        (∀ t ∈ moveResolved g r w c.takers w.s1, ∀ k ∈ span (regOf g r t w.s1) 8, g.isEmpty k t = false) →
        (∀ t ∈ ts, ∀ k ∈ eight d, g.isEmpty k t = false ∧ (g.lreg k t).mark = none) →
        exec (.zld w) s = ends (push s.freed (tile .zld t0)
          (.zld gid g.cid (ts.map (fun t => (t, (eight d).map (fun k => (g.lreg k t).val)))))))
      ∧ (∀ (x : State) (core z n reg : Nat) (mask : Mask) (clr : Bool) (h : Group) (wi : Nat) (wg : Wg),
        SMap.find? x.groups n = some h → x.holderOf h.cid core = some (wi, wg) →
        ∃ h', SMap.find? (x.zmovNow core z n reg mask clr).groups n = some h' ∧
          ∀ t j, t < 32 → j < 8 → mask.getLsbD t = true → ∃ f ∈ h'.fills, f.reg = reg + j ∧ f.thread = t ∧
            f.src = .value (BitVec.ofNat 64 ((SMap.get 0 wg.tiles (512 * z + 16 * t + 2 * j)).toNat
              + 2 ^ 32 * (SMap.get 0 wg.tiles (512 * z + 16 * t + 2 * j + 1)).toNat))))

/-- `GRFT` (R357-R360), where every taking thread's address has its home and no page is absent: the threads at home run
the region inline under a graft record, each other one's bud enters the core's send queue and its registers wait for the
return. `GRET` arrives at the record in an inline region, ends a host group's threads, and is `ILLEGAL` elsewhere, in a
branch of an inline region too. -/
def Obligations.GraftInstructionsSplitAndReturn : Prop :=
  ∀ (s u : State) (gid slot next : Nat) (g g' : Group) (r : Run) (p : Path) (ctl : Ctl) (ts : List Nat)
    (fs : List TFault) (o : Opnd) (mask : BitVec 16) (region : BitVec 21) (sl : BitVec 3) (fb : Bool)
    (hs : List (Nat × Word × Home)), LeafReady s gid slot next g r p →
    let c := leafCtx gid slot next g p ctl
    let regs := (List.range 16).filter (fun n => mask.getLsbD n)
    let die := g.coreN / 96
    (regs.all (fun n => n < 8 * g.chunks) = true →
      readable g r c.takers ((o, false) :: regs.map (fun n => (.lane (BitVec.ofNat 7 n), false))) [] = some (ts, fs) →
      s.freed.graftHomes g (ts.map (fun t => (t, opndVal g r (some .b64) t o))) = (hs, u) →
      (∀ h ∈ hs, ∃ k e, h.2.2 = .at_ k e ∧ (k = u.pkg ∧ e = die ∨ g.hopsOf h.1 < 3)) →
      g.graftSplit slot next region.toNat
        (maskOf ((hs.filter (fun h => h.2.2 == .at_ u.pkg die)).map (·.1))) = some g' →
      ∃ v, exec (.grft ctl o mask region sl fb) s = .next (v.leafApply c ctl (.moved v fs))
        ∧ v = hs.foldl (fun x h => match h.2.2 with
          | .at_ k e => if k = u.pkg ∧ e = die then x
              else x.queueBud c g r { regs, mask, region := region.toNat, slot := sl.toNat, fb } h.1 h.2.1 k e
          | _ => x) (u.putGroup gid g'))
    ∧ (∀ k j, p.jrec = some k → g.findRec k = some j → j.graft = true → exec (.gret ctl) s =
        .next ((s.freed.putGroup gid ((g.advance slot next).arriveMask slot c.takers)).leafMoved c ctl []))
    ∧ ((∀ k j, p.jrec = some k → g.findRec k = some j → j.graft = false) →
      (g.host = none ∨ g.underGraft g.stack.length p.jrec = true → exec (.gret ctl) s = .next (s.freed.leafEnd c ctl 1
        ((threadsOf p.mask).map (fun t => { thread := t, code := .illegal }))))
      ∧ (∀ h, g.host = some h → g.underGraft g.stack.length p.jrec = false → exec (.gret ctl) s =
        .next ((s.freed.putGroup gid { (g.advance slot next).endThreads slot c.takers false with
          host := some { h with ending := h.ending ++
            (threadsOf c.takers).map (fun t => { thread := t, code := 0, off := p.off }) } }).leafMoved c ctl [])))

/-- The commands of partitions (R19, R278, R284, R294, R389, R411): through a range that may give them, with parameters
inside their rules' bounds, each changes the partition as its rule says and is answered with success; a locked or running
partition keeps its settings, and what a rule reserves to another range is refused. `PARTDESTROY` kills the partition's
work: its tasks, groups, clusters with their ranges, tiles and images, engine operations, root nodes, graphs and
migrations are gone; then its keys are erased with it, and it is answered with success (R389). Two points are the model's
choice: that BTAG from 9 to 14 and BGROVE from 97 to 254 are accepted (log entry 45), and that `LOGSET` starts the count
of records at 0 (log entry 48). -/
def Obligations.PartitionCommandsActAndAnswer : Prop :=
  ∀ (s : State) (v : Via) (n : Nat) (p : Part), CommandReady s v false → SMap.find? s.parts n = some p →
    p.tdi = .unlocked →
    let sys := ∃ k q, v = .part k ∧ SMap.find? s.parts k = some q ∧ q.system = true
    let ok : Event := .answer true none []
    let no (i : Instr) : Prop := exec i s = .next (s.refuse)
    let sets (i : Instr) (f : Part → Part) : Prop := exec i s = .next ((s.modPart n f).answer)
    let fits (b : Budgets) : Prop := b.blreg < 0xFFFFF ∧ b.bsram < 0xFFFFF ∧ b.bob < 0xFFFFF ∧ b.btag < 15 ∧
      b.bgrove < 255 ∧ b.bstrm < 0xFFF ∧ b.bbud < 0xFFFF
    let pool (base cnt : Nat) : Prop := cnt ≤ 2048 ∧ 2048 * s.pkg ≤ base ∧ base + cnt ≤ 2048 * s.pkg + 2032
    let legal (prio lease fp : Nat) : Prop := prio ≤ 15 ∧ 1 ≤ lease ∧ lease ≤ 255 ∧ fp ≤ 2
    (∀ a : PartParams, sys → a.num ≤ 15 → SMap.find? s.parts a.num = none → a.tenant ≠ 0xFFFFFFFF → fits a.bud →
        pool a.poolBase a.poolCnt → legal a.prio a.lease a.fpolicy →
        ∃ t q, exec (.partcreate v a) s = .next t ∧ SMap.find? t.parts a.num = some q ∧ t.crown.events = s.crown.events ++ [ok]
          ∧ q = { num := a.num, tenant := a.tenant, poolBase := a.poolBase, poolCnt := a.poolCnt, bud := a.bud
                  prio := a.prio, lease := a.lease, fpolicy := a.fpolicy, system := a.system, keyId := s.nextId }
          ∧ ∀ k, k ≠ a.num → SMap.find? t.parts k = SMap.find? s.parts k)
    ∧ (∀ a : PartParams, v = .base → no (.partcreate v a))
    ∧ (∀ ptr, p.dir.isSome = true → (s.rootPlace p ptr).isSome = true → (∀ e ∈ s.tasks, e.2.part ≠ n) →
        ∃ t, exec (.rootset v n ptr) s = .next t ∧ SMap.find? t.parts n = some { p with root := some ptr }
          ∧ t.crown.events = s.crown.events ++ [ok])
    ∧ (∀ a : PartPatch,
        let q : Part := { p with poolBase := a.poolBase.getD p.poolBase, poolCnt := a.poolCnt.getD p.poolCnt
                                 bud := a.bud.getD p.bud, prio := a.prio.getD p.prio, lease := a.lease.getD p.lease
                                 fpolicy := a.fpolicy.getD p.fpolicy }
        fits q.bud → pool q.poolBase q.poolCnt → legal q.prio q.lease q.fpolicy →
        (∀ e ∈ s.streams, e.2.part = n → e.1 < 2048 * s.pkg + 2032 →
          q.poolBase ≤ e.1 ∧ e.1 < q.poolBase + q.poolCnt) →
        exec (.partset v n a) s = .next (((s.modPart n (fun _ => q)).rewriteRoot q).answer))
    ∧ (∀ base count size, base % 65536 = 0 → 1 ≤ count → count ≤ 65536 → 1 ≤ size → size ≤ 64 →
        base + count * frameBytes size ≤ 2 ^ 39 → (∀ e ∈ s.groups, e.2.part ≠ n) →
        ∃ t, exec (.localset v n base count size) s = .next t ∧ t.crown.events = s.crown.events ++ [ok]
          ∧ SMap.find? t.parts n = some { p with localBase := base, frames := count, localS := size })
    ∧ (∀ on, (sys ∧ v ≠ .part n → sets (.sysmark v n on) (fun p => { p with system := on }))
        ∧ (¬ sys ∨ v = .part n → no (.sysmark v n on)))
    ∧ (∃ t, exec (.partdestroy v n) s = .next t ∧ SMap.find? t.parts n = none ∧ t.crown.events.getLast? = some ok
        ∧ SMap.find? t.crown.tdiKeys n = none ∧ (∀ m ∈ t.migrations, m.part ≠ n) ∧ (∀ r ∈ t.roots, r.part ≠ n)
        ∧ (∀ k x, SMap.find? s.tasks k = some x → x.part = n → SMap.find? t.tasks k = none)
        ∧ (∀ k g, SMap.find? s.groups k = some g → g.part = n → SMap.find? t.groups k = none)
        ∧ (∀ k g, SMap.find? s.graphs k = some g → g.part = n → SMap.find? t.graphs k = none)
        ∧ (∀ k c x, SMap.find? s.clusters k = some c → SMap.find? s.tasks c.tid = some x → x.part = n →
          SMap.find? t.clusters k = none ∧ ∀ i g gr q o, SMap.find? s.groups i = some g → g.cid = k → g.host = none →
            .op o ∈ (t.grove gr).queue q → o.gid ≠ i))
    ∧ (∀ base count, base % 65536 = 0 → 1 ≤ count → count ≤ 2 ^ 21 → base + 64 * count ≤ 2 ^ 39 →
        exec (.dirset v n base count) s =
          .next ((s.modPart n (fun p => { p with dir := some (base, count) })).objInv n none none))
    ∧ (∀ base k ans cons, base % 4096 = 0 → 6 ≤ k → k ≤ 16 → ans % 32768 = 0 → cons % 8 = 0 → ans + 32768 ≤ 2 ^ 39 →
        cons + 8 ≤ 2 ^ 39 →
        sets (.logset v n base (2 ^ k) ans cons) (fun p => { p with log := some { base, size := 2 ^ k, ans, cons } }))
    ∧ (∀ obj page, ∃ t, exec (.objinv v n obj page) s = .next t
        ∧ (s.translated n = true → t.crown.events = s.crown.events)
        ∧ (s.translated n = false → p.invs = 0 → t.crown.events = s.crown.events ++ [ok])
        ∧ (page = none → ∀ c ∈ t.cores, ∀ x ∈ c.2.otlb,
            ¬ (x.1 / 2 ^ 21 = n ∧ (obj = none ∨ obj = some (x.1 % 2 ^ 21)))))
    ∧ (∀ base size, base % 65536 = 0 → size % 65536 = 0 → base + size ≤ 2 ^ 39 → p.ctxUsed = 0 →
        sets (.ctxset v n base size) (fun p => { p with ctx := some (base, size) }))
    ∧ ∀ (u : State) (q : Part), CommandReady u v false → SMap.find? u.parts n = some q → q.tdi ≠ .unlocked →
      ∀ (ptr : Word) (a : PartPatch) (w x y z : Nat) (b : Bool),
        ∀ i ∈ [Instr.rootset v n ptr, .partset v n a, .localset v n w x y, .sysmark v n b, .dirset v n w x,
          .logset v n w x y z, .ctxset v n w x, .podwin v n w x y, .graftmap v n w x], exec i u = .next u.refuse

/-- `PMIGRATE` sets MIG in the entry of a page that no other migration names (R299). `PREEMPT` of a subtree with nothing
resident closes it and is answered at once; one with a resident cluster makes the cluster stop, with room reserved for its
image (R411-R413); `RESUME` opens the subtree again, after the `PREEMPT`s of the same RCB that have no answer yet. The
commands of R84 resume or kill a halted group; that the kill ends the group's whole cluster is the model's choice (log
entry 53). -/
def Obligations.MigrationAndPreemptionCommandsAct : Prop :=
  ∀ (s : State) (v : Via) (n : Nat) (p : Part), CommandReady s v false → SMap.find? s.parts n = some p →
    let ok : Event := .answer true none []
    (∀ obj page alt frame d q, s.pageOf p obj page = .ok (d, q) → s.migrations = [] → s.roots = [] → q.alt ≠ alt →
        frame < 2 ^ 32 → ((if alt then d.alt.tier else d.loc.tier) = 0 → frame * 65536 < 2 ^ 39) →
        let m : Migration := { part := n, obj, page, alt, frame, started := true, entry := d.plist + 8 * page }
        exec (.pmigrate v n obj page alt frame) s =
          .next ({ s with migrations := [m] }.putEntry p d page (entryWord q true)))
    ∧ (∀ r, s.isPreempted p r = false → s.subtreeSaved n r = true → p.answers = [] →
        (∀ e ∈ s.clusters, e.2.hold = none) →
        ∃ t, exec (.preempt v n r) s = .next t ∧ t.crown.events = s.crown.events ++ [ok]
          ∧ SMap.find? t.parts n = some { p with preempted := p.preempted ++ [r] })
    ∧ (∀ r c x k, s.isPreempted p r = false → s.clustersUnder n r .resident = [(c, x, k)] →
        s.clustersUnder n r .stopping = [] → SMap.find? s.clusters c = some x →
        k.discards = false → p.answers = [] → (∀ e ∈ s.clusters, e.2.hold = none) →
        (s.die x.die).shadow + s.imageSize c x k.scr ≤ 96 * 2 ^ 20 →
        ∃ t, exec (.preempt v n r) s = .next t ∧ SMap.find? t.clusters c = some { x with
          st := .stopping, img := some (some x.die, s.imageSize c x k.scr), switched := false
          stopAt := some s.liveCycles })
    ∧ (∀ r, p.answers.any (fun x => x.1 == r || (x.1 != 0 && r != 0 && samePtr x.1 r)) = false → exec (.resume v n r) s = .next ((s.reopen n r).answer))
    ∧ (∀ r, p.answers.any (fun x => x.1 == r || (x.1 != 0 && r != 0 && samePtr x.1 r)) = true →
        exec (.resume v n r) s = .next (s.modPart n (fun p => { p with answers := p.answers ++ [(r, false)] })))
    ∧ (∀ gn k h, s.haltedGroup gn = some (k, h) →
        exec (.haltedGroupResume v gn) s = .next ((s.modGroup k (fun g => { g with halted := false })).answer))
    ∧ (∀ gn k h t c, s.haltedGroup gn = some (k, h) → SMap.find? s.groups k = some h → SMap.find? s.tasks h.tid = some t →
        SMap.find? s.clusters h.cid = some c → c.tid = h.tid →
        ∃ u, exec (.haltedGroupKill v gn) s = .next u ∧ SMap.find? u.groups k = none
          ∧ SMap.find? u.clusters h.cid = none ∧ u.crown.events.getLast? = some ok)
    ∧ ∀ gn, s.haltedGroup gn = none →
        exec (.haltedGroupResume v gn) s = .next s.refuse ∧ exec (.haltedGroupKill v gn) s = .next s.refuse

/-- The package's own commands (R335, R350, R356, R375, R376, R437-R443): each one's change and answer. The form of
`PODSTAT`'s answer and its refusal outside a pod are the model's choice (log entry 80). -/
def Obligations.PackageCommandsActAndAnswer : Prop :=
  ∀ (s : State) (v : Via), CommandReady s v true →
    let ok := s.crown.sapling = false
    let crown (i : Instr) (f : Crown → Crown) : Prop := exec i s = .next ((s.modCrown f).answer)
    let part (i : Instr) (n : Nat) (f : Part → Part) : Prop := exec i s = .next ((s.modPart n f).answer)
    let size (n : Nat) : Nat := n * n + n + 1
    let sys := ∃ k q, v = .part k ∧ SMap.find? s.parts k = some q ∧ q.system = true
    (∀ n k, 2 ≤ n → n ≤ 5 → k < size n → (∀ e ∈ s.crown.ports, e.2.up = false) →
        crown (.podset v n k) (fun c => { c with podset := some (n, k) }))
    ∧ (∀ n k, (∃ e ∈ s.crown.ports, e.2.up = true) → exec (.podset v n k) s = .next s.refuse)
    ∧ (∀ h base len n k m, ok → s.crown.podset = some (n, k) → s.portModule h = some m →
        (n + 1) * n * 2 * (64 + 131072) ≤ len →
        exec (.podtransport v h base len) s =
          .next ((s.modPort h (fun p => { p with region := some (base, len) })).answer))
    ∧ (∀ n p h base len m, ok → SMap.find? s.parts n = some p → p.tdi = .unlocked → s.portModule h = some m →
        base % 65536 = 0 → len % 65536 = 0 →
        part (.podwin v n h base len) n (fun p => { p with windows := SMap.put p.windows h (base, len) }))
    ∧ (∀ k, ok → (∀ n p, s.crown.podset = some (n, p) → size n ≤ k) → s.crown.podset ≠ none →
        exec (.podstat ⟨v, k⟩) s = .next s.refuse)
    ∧ (∀ k, ok → (∀ n p, s.crown.podset = some (n, p) → k < size n) → ∃ d, exec (.podstat ⟨v, k⟩) s = .next (s.answer d)
        ∧ d.take (1 + s.crown.lostMods.length) = s.crown.lostMods.length :: s.crown.lostMods)
    ∧ (∀ n p k q, ok → SMap.find? s.parts n = some p → p.tdi = .unlocked → k < 31 → q < 16 →
        part (.graftmap v n k q) n (fun p => { p with graftMap := SMap.put p.graftMap k q }))
    ∧ (∀ m, ok → s.modLost m = true → ∃ t, exec (.moduleRestore v m) s = .next t ∧ m ∉ t.crown.lostMods
        ∧ (∀ h, h < 8 → SMap.find? t.heads (8 * m + h) = none)
        ∧ ∀ k, k / 8 ≠ m → SMap.find? t.heads k = SMap.find? s.heads k)
    ∧ (∀ k, ok → k < 8 → exec (.hmapget v k) s = .next (s.answer [(s.hmap k).toNat]))
    ∧ (∀ k w, k < 8 → hmapOk w = true → (∀ r ∈ s.roots, r.stack ≠ some k) → s.migrations = [] →
        (∀ e ∈ s.groups, e.2.stnts = []) →
        ∃ t, exec (.hmapset v k w) s = .next t ∧ t.hmap k = w ∧ (∀ j, j ≠ k → t.hmap j = s.hmap j)
          ∧ (∀ key a, a / 2 ^ 36 = k → t.hbmByte key a = 0)
          ∧ ∀ key a, a / 2 ^ 36 ≠ k → t.hbmByte key a = s.hbmByte key a)
    ∧ (ok → s.parts = [] → crown (.sapling v) (fun c => { c with sapling := true, powerCap := 3200 }))
    ∧ (∀ k r, ¬ ok → k < 8 → ∃ t, exec (.memtest v k r) s = .next t
        ∧ t.crown.events.getLast? = some (.answer true none [r.corrected, r.uncorrected, r.repairs])
        ∧ (r.failed = true → k ∈ t.crown.failedStacks)
        ∧ ∀ key a, a / 2 ^ 36 < 8 → a / 2 ^ 36 ≠ k → t.hbmByte key a = s.hbmByte key a)
    ∧ (∀ h r, ¬ ok → (∀ k, h = some k → k < 6) → exec (.linktest v h r) s = .next (s.answer [r.uncorrected, r.repairs]))
    ∧ (∀ u, ¬ ok → spareOk u = true → ∃ t, exec (.spareset v u) s = .next t ∧ u ∈ t.crown.nextSpares
        ∧ (∀ x ∈ s.crown.nextSpares, x ∈ t.crown.nextSpares) ∧ t.crown.spares = s.crown.spares)
    ∧ (¬ ok → exec (.spareget v) s = .next (s.answer (s.crown.nextSpares.flatMap spareCode)))
    ∧ exec (.wearget v) s = .next (s.answer [s.crown.wearWord])
    ∧ (∀ w, ok → sys → 1600 ≤ w → w ≤ 3200 → crown (.powercap v w) (fun c => { c with powerCap := w }))
    ∧ (∀ w, ok → ¬ sys → exec (.powercap v w) s = .next s.refuse)
    ∧ (¬ ok → ∀ (k : Nat) (w : Word) (n : Nat) (a : PartParams),
        ∀ i ∈ [Instr.partcreate v a, .hmapget v k, .objinv v n none none, .preempt v n w, .podstat ⟨v, n⟩, .powercap v k],
          exec i s = .next s.refuse)

/-- The host link's responder (R398-R402): TDISP requests in the states that allow them, SPDM requests in their order,
key programming over a live session at both ends of a port, and the rotation of a port's keys: the transmitter switches
at once; the old slot retires, its key erased at both ends, when all that was sent under it is acknowledged; a receiver
without the key takes the port down. Which SPDM requests are in order and what is answered out of it (log entry 55), and
that a TDI's stream is programmed only in RUN (log entry 124), are the model's choice. -/
def Obligations.LinkRequestsAreAnswered : Prop :=
  ∀ (s : State) (n : Nat) (p : Part), s.crown.down = false → SMap.find? s.parts n = some p →
    let answers (i : Instr) (u : State) (what : String) (d : List Nat) : Prop := exec i s = .next (u.post (.spdm what d))
    let nego := s.crown.spdm = .negotiated
    let tdi (x : TdiState) : State := s.modPart n (fun p => { p with tdi := x })
    let crown (f : Crown → Crown) : State := s.modCrown f
    let session (k : Nat) (x : Session) : State := crown (fun c => { c with sessions := SMap.put c.sessions k x })
    (∃ x, answers (.getTdispVersion n) { s with fresh := s.fresh + 1 } "TDISP_VERSION" [x])
    ∧ (∃ x, answers (.getTdispCapabilities n) { s with fresh := s.fresh + 1 } "TDISP_CAPABILITIES" [x])
    ∧ (p.tdi = .unlocked → s.crown.sapling = false →
        answers (.lockInterfaceRequest n) (tdi .locked) "LOCK_INTERFACE_RESPONSE" [])
    ∧ (p.tdi ≠ .unlocked ∨ s.crown.sapling = true → answers (.lockInterfaceRequest n) s "TDISP_ERROR" [])
    ∧ answers (.getDeviceInterfaceReport n) s "DEVICE_INTERFACE_REPORT" p.report
    ∧ answers (.getDeviceInterfaceState n) s "DEVICE_INTERFACE_STATE" [match p.tdi with
        | .unlocked => 0 | .locked => 1 | .run => 2 | .error => 3]
    ∧ (p.tdi = .locked → answers (.startInterfaceRequest n) (tdi .run) "START_INTERFACE_RESPONSE" [])
    ∧ (p.tdi ≠ .locked → answers (.startInterfaceRequest n) s "TDISP_ERROR" [])
    ∧ (p.tdi ≠ .run → answers (.stopInterfaceRequest n) (tdi .unlocked) "STOP_INTERFACE_RESPONSE" [])
    ∧ (p.tdi = .run → ∃ u, exec (.stopInterfaceRequest n) s = .next u ∧ ∀ q, SMap.find? u.parts n = some q →
        q.tdi = .unlocked ∧ q.handles = [])
    ∧ (∃ u, exec (.tdispError n) s = .next u ∧ ∀ q, SMap.find? u.parts n = some q → q.tdi = .unlocked ∧ q.handles = [])
    ∧ answers .getVersion (crown (fun c => { c with spdm := .version, sessions := [] })) "VERSION" [0x13]
    ∧ (s.crown.spdm ≠ .start →
        answers .getCapabilities (crown (fun c => { c with spdm := .capabilities })) "CAPABILITIES" [])
    ∧ (s.crown.spdm = .capabilities ∨ nego → answers (.negotiateAlgorithms ⟨true, true, true, true⟩)
        (crown (fun c => { c with spdm := .negotiated })) "ALGORITHMS" [])
    ∧ (nego → (∃ a b, answers .getDigests s "DIGESTS" [a, b])
      ∧ (∀ k, k < 2 → ∃ c, answers (.getCertificate k) s "CERTIFICATE" [k, c])
      ∧ (∀ k m, k < 2 → ∃ c, answers (.challenge k m) s "CHALLENGE_AUTH" [k, c])
      ∧ (∀ k m, s.measurement k n = some m → answers (.getMeasurements k n) s "MEASUREMENTS" [k, m])
      ∧ (∀ k, SMap.find? s.crown.sessions k = none →
        exec (.keyExchange k) s = .next (({ s with nextId := s.nextId + 1 }.modCrown (fun c => { c with
          sessions := SMap.put c.sessions k { live := false, secret := s.nextId } })).post (.spdm "KEY_EXCHANGE_RSP" [k]))))
    ∧ (∀ k x, SMap.find? s.crown.sessions k = some x →
      (x.live = false → answers (.finish k true) (session k { x with live := true }) "FINISH_RSP" [k])
      ∧ (x.live = true → answers (.keyUpdate k) (session k { x with updates := x.updates + 1 }) "KEY_UPDATE_ACK" [k]
        ∧ answers (.heartbeat k) s "HEARTBEAT_ACK" [k]
        ∧ answers (.endSession k) (crown (fun c => { c with sessions := SMap.erase c.sessions k })) "END_SESSION_ACK" [k]))
    ∧ ((∃ e ∈ s.crown.sessions, e.2.live = true) → ∀ key,
      answers (.ideKm .hostLink key) (crown (fun c => { c with linkKey := some key })) "IDE_KM_RSP" []
      ∧ (p.tdi = .run →
        answers (.ideKm (.tdi n) key) (crown (fun c => { c with tdiKeys := SMap.put c.tdiKeys n key })) "IDE_KM_RSP" [])
      ∧ (p.tdi ≠ .run → answers (.ideKm (.tdi n) key) s "ERROR" [])
      ∧ (∀ h dir slot m, h < 6 → dir < 2 → slot < 2 → s.portModule h = some m → s.farKey h dir slot = none →
        ∃ u, answers (.ideKm (.moduleHead h dir slot) key) u "IDE_KM_RSP" [] ∧ u.farKey h dir slot = some key)
      ∧ ∀ h dir slot, h < 6 → dir < 2 → slot < 2 → SMap.find? ((s.podPort h).side dir).2.1 slot = none →
        ∃ u, answers (.ideKm (.podPort h dir slot) key) u "IDE_KM_RSP" []
          ∧ SMap.find? ((u.podPort h).side dir).2.1 slot = some key)
    ∧ (∀ h dir cur keys, h < 6 → dir < 2 → (s.podPort h).side dir = (cur, keys, none) →
        (s.keyEnds h dir (1 - cur)).1.isSome = true → ∃ t, exec (.podKeyRotation h dir) s = .next t
          ∧ (t.podPort h).side dir = (1 - cur, keys,
              if (s.keyEnds h dir cur).1.isSome || (s.keyEnds h dir cur).2.isSome then some (s.inFlight h dir) else none)
          ∧ (t.podPort h).up = ((s.podPort h).up
              && (s.keyEnds h dir (1 - cur)).1 == (s.keyEnds h dir (1 - cur)).2))
    ∧ (∀ h dir cur keys l, h < 6 → dir < 2 → (s.podPort h).side dir = (cur, keys, some l) →
        exec (.podKeyRotation h dir) s = .next (s.post (.answer false none [])))
    ∧ (∀ h dir cur keys l, h < 6 → dir < 2 → cur < 2 → (s.podPort h).side dir = (cur, keys, some l) →
        let acked := l.all (fun x => (s.ownOp x.1 x.2).all (fun o => o.state != 1 + dir))
        (acked = true → ∃ t, exec (.keySlotRetire h dir) s = .next t
          ∧ (t.podPort h).side dir = (cur, SMap.erase keys (1 - cur), none) ∧ t.farKey h dir (1 - cur) = none)
        ∧ (acked = false → exec (.keySlotRetire h dir) s = .next s))

/-! ## The scheduler -/

/-- The scheduler's events: the host's write through its window (R199); a task taken from a list, by the first read or by
a later one (R24), its chain resolved and its descriptor read as any other party's write left them (R316); a list whose
end is found rests, and nothing is taken from it for 65,536 cycles unless its WORK is written, as nothing is from an RCB
whose WORK and TAKEN agree (R24); the launch of a ready node of a graph, of each kind, and the
completion of a node (R198); and the completion of a task, with or without a completion word (R26). -/
def Obligations.WorkEntersAndCompletes : Prop :=
  (∀ (s : State) (part a : Nat) (p : Part) (bs : List Byte), bs ≠ [] → a % 32 + bs.length ≤ 32 → a < 2 ^ 39 →
      s.hbmGone a = false → SMap.find? s.parts part = some p →
      ∃ t, exec (.barWrite part a bs) s = .next t
        ∧ (∀ j, j < bs.length → t.hbmByte p.keyId (a + j) = bs.getD j 0)
        ∧ ∀ x, x < a ∨ a + bs.length ≤ x → t.hbmByte p.keyId x = s.hbmByte p.keyId x)
  ∧ (∀ (s : State) (n : Nat) (rcb : Word) (p : Part), SMap.find? s.parts n = some p → p.num = n → p.root = some rcb →
      p.working = true → s.crown.sapling = false → p.preempted = [] →
      let u := s.touchChain n rcb
      u.sickList n rcb = none →
      let v := u.devTouch n (BitVec.ofNat 64 (u.rcbWord n rcb 0x30))
      let rests := p.ended.filter (fun e => !samePtr e.1 rcb)
      let is := [Instr.taskTake n rcb, .taskListReread n rcb]
      bit (u.rcbWord n rcb 0x38) 0 = true →
      let diff := (u.rcbWord n rcb 0 + 2 ^ 64 - u.rcbWord n rcb 8) % 2 ^ 64
      let d := v.nextDesc n rcb
      let u1 := v.modPart n (fun p => { p with ended := rests })
      let s2 := (u1.devMod n (rcb + 0x30) (fun _ => d)).devMod n (rcb + 0x38) (fun w =>
        BitVec.ofNat 64 (w.toNat / 2 ^ 32 * 2 ^ 32 + n % 16 * 2 ^ 28 + w.toNat % 2 ^ 28))
      let s3 := (s2.touchChain n rcb).devTouchSpan n d 256
      let w (o : Nat) : Nat := ((s3.devRead n (d + BitVec.ofNat 64 o)).map (·.toNat)).getD 0
      let k : Task := { parseTask w n rcb d (BitVec.ofNat 64 (u1.rcbWord n rcb 8)) s3.nextId p.system with
        pts := v.wordTime n rcb, eff := s3.resolve n rcb }
      (0 < diff → diff < 2 ^ 63 → u.listRests p rcb = false → u.rcbClean n rcb = true →
        (d ≠ 0 → (v.devRead n d).isSome = true → s3.devBad n d 256 = false → s3.taskValid p w k false = true →
          ∀ i ∈ is, ∃ t, exec i s = .next t ∧ SMap.find? t.tasks s3.nextId = some { k with waiting := s3.rangeWaits k })
        ∧ (d = 0 → ∀ i ∈ is, ∃ t, exec i s = .next t ∧ (SMap.find? t.parts n).map (·.ended) = some (rests ++ [(rcb, v.cycle)])
            ∧ ∀ a, v.devAddr n rcb = some a → a ∈ t.idleWork))
      ∧ (diff = 0 ∨ (∃ c r a, (r, c) ∈ p.ended ∧ samePtr r rcb = true ∧ u.cycle < c + 65536
          ∧ u.devAddr n rcb = some a ∧ a ∈ u.idleWork) →
        ∀ i ∈ is, exec i s = .next u))
  ∧ (∀ (s : State) (gn i : Nat) (g : Graph) (p : Part), SMap.find? s.graphs gn = some g →
      SMap.find? s.parts g.part = some p → p.working = true → p.preempted = [] → i < g.nodes → s.nodeState g i = 0 →
      s.nodeLeft g i = 0 →
      (g.offered.contains i = true ∨ ∀ j, j < i → s.nodeReady g j = true → g.offered.contains j = true) →
      s.nodeAsked g p i = false → s.nodePage g p i = none →
      let done (t : State) : Prop := exec (.nodeLaunch gn i) s = .next t
      let ptr := BitVec.ofNat 64 (s.graphWord g (nodeOff i))
      (s.nodeKind g i = 0 →
        done ((s.setNodeState g i 2).enterTask p g.rcb ptr (BitVec.ofNat 64 i) (some (gn, i)) g.ts))
      ∧ (s.nodeKind g i = 1 → done (s.launchCopy gn i g p))
      ∧ (s.nodeKind g i = 2 → done (s.launchRoot gn i g p))
      ∧ (s.nodeKind g i = 3 → done ((s.setNodeState g i 2).nodeDone gn i g.ts)))
  ∧ (∀ (s : State) (gn i : Nat) (g : Graph), SMap.find? s.graphs gn = some g → g.finished.contains i = true →
      let s1 := ((s.modGraph gn (fun g => { g with finished := g.finished.erase i })).setNodeState g i 3).graphMod g 0x20 (· + 1)
      let s2 := (s1.nodeSucc g i).foldl (fun s j => s.graphMod g (nodeOff j + 0x10) (fun w =>
        w / 2 ^ 32 * 2 ^ 32 + (bits w 16 16 - 1) * 2 ^ 16 + w % 2 ^ 16)) s1
      exec (.nodeComplete gn i) s = .next ((s2.graphEnd gn).graphStuck gn)
        ∧ SMap.find? s2.graphs gn = some { g with finished := g.finished.erase i })
  ∧ ∀ (s : State) (tid : Nat) (t : Task), SMap.find? s.tasks tid = some t → t.dead = false → t.clEnded = t.ncl →
      t.cwMiss = none →
      (t.cwPtr = 0 → exec (.taskCompletion tid) s = .next (s.finishTask tid t t.pts)
        ∧ SMap.find? (s.finishTask tid t t.pts).tasks tid = none)
      ∧ (∀ ts u, t.cwPtr ≠ 0 → s.cwStore t.part t.cwPtr t.cwVal t.pts t.cwBad = .ok ts u →
          exec (.taskCompletion tid) s = .next (u.finishTask tid t ts)
          ∧ SMap.find? (u.finishTask tid t ts).tasks tid = none)

/-- Placement (R28, R31, R191-R193): an attempt at the reservation that is offered next, with no rival, takes every hold
on the cores that the device chose, or drops them and backs off where no choice would do; one that holds is committed
within 256 cycles, its cluster becoming resident on those cores, each new group at the task's entry with its arguments;
and a back-off ends. -/
def Obligations.PlacementHoldsCommitsAndBacksOff : Prop :=
  (∀ (s : State) (a : PlaceArg) (o : Offer) (t : Task) (p : Part), a.commit = false → s.nextOffer = some o →
      o.tid = a.tid → o.idx = a.cluster → SMap.find? s.tasks a.tid = some t → SMap.find? s.parts t.part = some p →
      placeFails t = false →
      let s1 := s.createClusters a.tid t a.cluster
      let cs := s1.reservation a.tid t a.cluster
      let want := if t.bound.isEmpty then t.tags else 0
      (∀ e ∈ s1.clusters, e.2.hold = none) → cs.length = a.cores.length → (∀ c ∈ a.cores, c ∈ coreSets t.shape) →
      a.tags.length = want → a.tags.eraseDups.length = want → (∀ i ∈ a.tags, i ∈ s1.freeTags) → want ≤ s1.freeTags.length →
      (∀ u, s1.holdAll p t cs a.cores a.tags = some u → exec (.placementAttempt a) s = .next u)
      ∧ (s1.holdAll p t cs a.cores a.tags = none → s1.someSets p t cs a.tags = false →
          exec (.placementAttempt a) s =
            .next ((s1.convertShort t cs a.cores).backOff ((cs.head?.map (·.1)).getD 0))))
  ∧ (∀ (s s2 : State) (a : PlaceArg) (t : Task) (p : Part) (cid : Nat) (c x : Cluster) (h h2 : Hold), a.commit = true →
      SMap.find? s.tasks a.tid = some t → SMap.find? s.parts t.part = some p →
      let s0 := s.touchChain t.part t.rcb
      t.eff = s0.resolve t.part t.rcb →
      (s.clustersOf a.tid).filter (fun e => e.2.hold.isSome) = [(cid, c)] → c.idx = a.cluster → c.hold = some h →
      h.lead = cid → h.cores.length = shapeWgs t.shape → SMap.find? s.clusters cid = some c → c.st = .waiting → placeFails t = false → s.cycle ≤ h.since + 256 →
      let s1 := s0.modTask a.tid (fun x => { x with eff := s0.resolve t.part t.rcb })
      (s1.dropHolds cid).holdAll p t [(cid, c)] [h.cores] h.tags = some s2 → SMap.find? s2.clusters cid = some x →
      x.hold = some h2 →
      (t.bound = [] → t.tags ≤ h.tags.length) →
      s1.fitsIn t.part t.eff.limits { t.charge.times 1 with tag := if t.tagsCharged then 0 else t.tags } = true →
      (∀ e ∈ s.groups, e.2.cid ≠ cid) →
      ∃ u y, exec (.placementAttempt a) s = .next u ∧ SMap.find? u.clusters cid = some y ∧ y.st = .resident
        ∧ y.hold = none ∧ y.wgs.map (·.core) = h.cores.map some
        ∧ ∀ e ∈ u.groups, e.2.cid = cid →
          e.2.pc = t.stemEntry ∧ e.2.areg 0 = t.args ∧ e.2.areg 1 = localPtr e.2.frame ∧ e.2.chunks = t.chm1 + 1)
  ∧ ∀ (s : State) (cid : Nat) (c : Cluster), SMap.find? s.clusters cid = some c → c.retryAt ≤ s.cycle →
      ∃ u, exec (.backoffExpiry cid) s = .next u ∧ SMap.find? u.clusters cid = some { c with retryAt := 0 }

/-! ## Issue -/

/-- Issue on the lanes: while issue is held, and before the lane's next slot, nothing happens (R117, R443); the
instruction of a lane's one ready group is the next to execute (R186, R187); and the group that ranks first among some
is one of them, with no older one among them (R187). A pending run starts (R94). A leaf fill puts the instruction's
bytes into the cache, or parks the group for a page (R60, R61). A value that arrives fills its register lane (R111); the
pod-tier loads of one request, once each is the first of its thread and no store of the group to their sector is on its
way, read their places then, in the order of their threads (R219, R343; that they are read when the value arrives, where R343
fixes no time, is the model's choice: log entry 22), or fault where the module is lost or the place holds an error, the
registers keeping what they hold (R210, R351). -/
def Obligations.LanesIssueStartAndFill : Prop :=
  ((∀ (s : State) (core lane : Nat), (s.issueHeld = true ∨ s.cycle < (SMap.find? (s.core core).slotAt lane).getD 0) →
        exec (.issueArbitration core lane) s = .next s)
    ∧ (∀ (s : State) (core lane gid next : Nat) (g : Group) (p : Path) (i : Instr), s.issueHeld = false →
        (SMap.find? (s.core core).slotAt lane).getD 0 ≤ s.cycle → s.onLane core lane = [(gid, g)] →
        SMap.find? s.groups gid = some g → g.busyDue = 0 → g.pendingSet = false → g.readySince = none →
        s.groupIssues g = true → g.issued = false → g.slot (s.pickSlot g) = some p → g.leafWord p = .instr p.off next i →
        (∀ k q, g.slot k = some q → g.leafWord q = .absent ∨ (∃ n i, g.leafWord q = .instr q.off n i)
          ∨ ∃ c, g.leafWord q = .bad q.off c) →
        ∃ t, exec (.issueArbitration core lane) s = .next t ∧ t.cur = some (.leaf gid (s.pickSlot g) next)
          ∧ SMap.find? t.groups gid = some { g with yielded := false, inRound := true }
          ∧ SMap.find? (t.core core).slotAt lane = some (s.cycle + 32))
    ∧ (∀ (s : State) (l : List (Nat × Group)) (e : Nat × Group), s.oldest l = some e →
        e ∈ l ∧ ∀ f ∈ l, ageLt (s.ageOf f.2) (s.ageOf e.2) = false)
    ∧ (∀ (s : State) (gid c : Nat) (g : Group) (r : Run), SMap.find? s.groups gid = some g → g.run = none →
        g.pend = some r → g.core = some c → s.stopping g = false → g.evicted = false →
        (SMap.find? (s.core c).slotAt g.lane).getD 0 ≤ s.cycle →
        exec (.leafRunStart gid) s = .next (s.putGroup gid ({ g with pend := none }.startRun r)))
    ∧ ∀ (s : State) (gid slot : Nat) (g : Group) (p : Path), SMap.find? s.groups gid = some g → g.core.isSome = true →
        g.slot slot = some p → g.park = none → g.evicted = false → SMap.find? g.ic p.off = none →
        (∀ m, s.leafMiss g p.off = some m → m.down = false →
          exec (.leafFill gid slot) s = .next (s.parkGroup gid (some slot) p.mask [m]))
        ∧ (s.leafMiss g p.off = none → g.redo = none →
          exec (.leafFill gid slot) s = .next ((s.keepLeaf g p.off).putGroup gid { g with
            ic := SMap.put g.ic p.off (leafBytesAt (s.leafByteAt g) p.off) })))
  ∧ (∀ (s : State) (gid reg thread : Nat) (g : Group) (f : Fill), SMap.find? s.groups gid = some g →
      g.fills.find? (fun f => f.reg == reg && f.thread == thread) = some f → g.host = none →
      (∀ w, f.src = .value w →
        exec (.fillArrival gid reg thread) s = .next (s.putGroup gid (g.fillLane reg thread (.ok w))))
      ∧ ∀ pl n sgn off c p, f.src = .podLoad pl n sgn off c → SMap.find? s.parts g.part = some p →
        let fs := g.fills.filter (fun x => x.src.together f.src)
        (∀ y ∈ fs, g.fills.find? (fun x => x.thread == y.thread && x.isPodLoad) = some y) →
        s.ownStoresPend gid pl = false → s.placeDown pl = false →
        let fault (c : Code) : Prop := exec (.fillArrival gid reg thread) s =
          .next ((((s.modGroup gid (fun g => fs.foldl (fun g f => g.failLane f.reg f.thread) g)).lateFault gid off
            (fs.map (fun f => { thread := f.thread, code := c }))).reapHost gid).answerInvs g.part)
        (s.placeLost pl = true → fault .moduleLost)
        ∧ (s.placeLost pl = false → s.placeBad pl 1 = true → fault .uePoison)
        ∧ (s.placeLost pl = false → s.placeBad pl 1 = false → fs = [f] →
          exec (.fillArrival gid reg thread) s = .next ((((s.podRead p pl n).2.modGroup gid (fun g =>
            g.fillLane reg thread (.ok (extend n sgn (s.podRead p pl n).1)))).reapHost gid).answerInvs g.part))
        ∧ (s.placeLost pl = false → s.placeBad pl 1 = false → ∃ t, exec (.fillArrival gid reg thread) s = .next t
          ∧ ∀ h y, SMap.find? t.groups gid = some h → y ∈ h.fills → y ∉ fs))

/-! ## Pages, saves and the slow clocks -/

/-- A table walk keeps the descriptor and the entry that it finds (R283); a page request takes a free tag and its
record and answer word are written, once the log has room (R294, R295); the host's count of consumed records reads as
stored (R294); an answer to an open request removes it and wakes who waits, a late one is counted (R296-R298). The
copy of a migration ends: it waits while an access to the source page is not performed (when that is, is the model's
choice: log entry 50); a poisoned source, a lost module, a failed stack under the new frame or a walk that fails abandons
it; else the copy is made and the entry switched in one step, the page's copies are dropped, and the command is answered
(R299-R303, R440). That an answer word whose STATUS is 0 is no answer is the model's choice (log entry 49). -/
def Obligations.PagesAreWalkedRequestedAndMigrated : Prop :=
  ((∀ (s : State) (core n obj page : Nat) (p : Part) (d : Desc) (q : Page), SMap.find? s.parts n = some p → p.num = n →
        SMap.find? (s.core core).otlb (otlbKey n obj) = none → s.walkDesc p obj = .ok d → frameOf p obj = none →
        65536 * page < d.size → SMap.find? (s.die (coreDie core)).port (portKey n obj page) = none →
        s.walkPage p d page = .here q →
        ∃ t, exec (.tableWalk core n obj page) s = .next t ∧ SMap.find? (t.core core).otlb (otlbKey n obj) = some d
          ∧ SMap.find? (t.die (coreDie core)).port (portKey n obj page) = some q)
    ∧ ∀ (s : State) (n tag : Nat) (p : Part) (l : PageLog), SMap.find? s.parts n = some p → p.log = some l → 0 < l.size →
        (∀ obj page r, p.reqs.find? (fun r => r.obj == obj && r.page == page && r.tag.isNone) = some r → tag < 4096 →
          p.reqs.any (fun r => r.tag == some tag) = false → l.next < s.hbmWord p.keyId l.cons + l.size →
          let s1 := s.homeStore p.keyId (addrBytes (l.ans + 8 * tag) (bytesOf 8 0))
          exec (.pageRequestRecord n obj page tag) s = .next ((s1.hostWrite (addrBytes (l.base + 32 * (l.next % l.size))
            ((recordWords r tag l.next).flatMap (fun w => bytesOf 8 w)))).modPart n (fun p => { p with
              log := some { l with next := l.next + 1 }
              reqs := p.reqs.map (fun x => if x = r then { r with tag := some tag, seq := some (l.next + 1) } else x) })))
        ∧ (∀ k : Word, l.cons % 8 = 0 → s.hbmGone l.cons = false →
          ∃ t, exec (.consaddrWrite n k) s = .next t ∧ t.hbmWord p.keyId l.cons = k.toNat)
        ∧ ∀ w : Word, tag < 4096 → bits w.toNat 56 8 ≠ 0 →
          let s1 := s.windowWrite p.keyId (addrBytes (l.ans + 8 * tag) (bytesOf 8 w.toNat))
          let hit (r : PageReq) : Bool := r.tag == some tag && r.seq.map (· % 2 ^ 48) == some (bits w.toNat 0 48)
          (∀ r, p.reqs.find? hit = some r → exec (.pageAnswer n tag w) s =
            .next ((s1.modPart n (fun p => { p with reqs := p.reqs.erase r })).wakePage n r.obj r.page false
              (bits w.toNat 56 8 != 1)))
          ∧ (p.reqs.find? hit = none → ∃ t, exec (.pageAnswer n tag w) s = .next t
            ∧ SMap.find? t.parts n = some { p with lateAnswers := p.lateAnswers + 1 }))
  ∧ (∀ (s : State) (n obj page : Nat) (m : Migration) (p : Part) (d : Desc) (q : Page),
      s.migrations.find? (fun m => m.started && m.part == n && m.obj == obj && m.page == page) = some m →
      SMap.find? s.parts n = some p → s.pageOf p obj page = .ok (d, q) →
      let i := Instr.migrationCopyEnd n obj page
      let src := (s.placeOf d q 0).1
      let dst := (s.placeOf d { alt := m.alt, frame := m.frame } 0).1
      (s.pageBusy n src = true → exec i s = .next s)
      ∧ (s.pageBusy n src = false →
        ((s.placeLost src = true ∨ s.placeLost dst = true) → exec i s = .next (s.abortMig m p .moduleLost))
        ∧ (s.placeLost src = false → s.placeLost dst = false → s.placeDown src = false → s.placeDown dst = false →
          (s.placeBad src 65536 = true → exec i s = .next ((s.poisonPage src).abortMig m p .uePoison))
          ∧ (s.placeBad src 65536 = false → s.placeFailed dst = true → exec i s = .next (s.abortMig m p .uePoison))
          ∧ (s.placeBad src 65536 = false → s.placeFailed dst = false →
            let u := ((((s.copyPage p src dst).moveIdle src dst).dropMig m).putEntry p d page
              (entryWord { alt := m.alt, frame := m.frame } false)).invalidate n (some obj) (some page)
            let w := match src.page with
              | some k => u.loseLines (span (512 * k) 512)
              | none => u
            exec i s = .next ((w.answer.wakePage n obj page true false).startMigs)))))
  ∧ ∀ (s : State) (n obj page : Nat) (m : Migration) (p : Part) (c : Code),
      s.migrations.find? (fun m => m.started && m.part == n && m.obj == obj && m.page == page) = some m →
      SMap.find? s.parts n = some p → s.pageOf p obj page = .error c →
      exec (.migrationCopyEnd n obj page) s = .next (s.abortMig m p c)

/-- A cluster whose groups have all been parked for 1,024 cycles begins to be switched out, where the shadow storage has
room (R292); a stopping cluster whose groups stand at safe points with nothing outstanding is saved and leaves its cores
(R413, R415); one that has not stopped 2^20 cycles after the request is killed with its task, after the watchdog's record,
and not earlier (R414). -/
def Obligations.ClustersStopAndAreSaved : Prop :=
  ∀ (s : State) (cid : Nat) (c : Cluster) (k : Task), SMap.find? s.clusters cid = some c →
    SMap.find? s.tasks c.tid = some k →
    (∀ t0, c.st = .resident → c.parkedSince = some t0 → t0 + 1024 ≤ s.cycle →
      (∀ e ∈ s.groupsIn cid, e.2.park.isSome = true) → (s.die c.die).shadow + s.imageSize cid c k.scr ≤ 96 * 2 ^ 20 →
      ∃ t, exec (.clusterSwitchOut cid) s = .next t ∧ SMap.find? t.clusters cid = some { c with
        st := .stopping, img := some (some c.die, s.imageSize cid c k.scr), switched := true
        stopAt := some s.liveCycles })
    ∧ (c.st = .stopping → c.refills = [] →
      (∀ e ∈ s.groupsIn cid, s.groupStopped e.1 e.2 = true ∧ s.waitsOver e.1 e.2 = true) →
      ∃ t d, exec (.clusterSave cid) s = .next t ∧ SMap.find? t.clusters cid = some d ∧ d.st = .saved
        ∧ (∀ w ∈ d.wgs, w.core = none ∧ w.units = []) ∧ d.wgs.length = c.wgs.length)
    ∧ ∀ a gid g, c.st = .stopping → c.stopAt = some a → s.unstopped cid c = some (gid, g) →
      (a + 2 ^ 20 ≤ s.liveCycles → exec (.safepointWatchdog cid) s =
        .next ((s.taskRecord k (overrunRecord k c g) (s.pts g.coreN)).killTask c.tid 4))
      ∧ (s.liveCycles < a + 2 ^ 20 → exec (.safepointWatchdog cid) s = .next s)

/-- A core's pts advances by one for every 256 cycles in which it does not change, whoever counts them (R309); every 4,096
cycles each core that lags 2^21 behind the latest is raised to that distance, and lines and banks that lag 2^22 are
rewritten (R311, R314); a non-temporal store is performed at its home, in logical time after the readers of its line
(R323). -/
def Obligations.SlowClocksAndNontemporalStores : Prop :=
  (∀ (s : State) (core : Nat),
      ((s.core core).ptsAt ≤ s.cycle → ({ s with cycle := s.cycle + 256 } : State).pts core = s.pts core + 1)
      ∧ (∀ t, ({ s.setPts core t with cycle := s.cycle + 255 } : State).pts core = t ∨ s.pts core = t)
      ∧ ∃ t, exec (.ptsIdleAdvance core) s = .next t ∧ t.cycle = s.cycle ∧ ∀ k, t.pts k = s.pts k)
  ∧ (∀ (s : State), s.crown.wrapAt + 4096 ≤ s.cycle →
      ∃ t, exec .timestampWrapAdjust s = .next t ∧ t.crown.wrapAt = s.cycle
        ∧ (∀ c, c < 384 → t.pts c = lagFloor s.frontier 21 (s.pts c))
        ∧ (∀ l x, SMap.find? s.lines l = some x → ∃ y, SMap.find? t.lines l = some y ∧ (y.wts, y.rts) =
          if lags s.frontier 22 x.rts then (lagFloor s.frontier 22 x.wts, lagFloor s.frontier 22 x.rts) else (x.wts, x.rts))
        ∧ ∀ gr b, (t.bankOf gr b).bts = lagFloor s.frontier 22 (s.bankOf gr b).bts)
  ∧ (∀ (s : State), s.cycle < s.crown.wrapAt + 4096 → exec .timestampWrapAdjust s = .next s)
  ∧ ∀ (s : State) (gid k : Nat) (g : Group) (x : Stnt), SMap.find? s.groups gid = some g → g.stnts[k]? = some x →
      ∃ t h, exec (.stntPerform gid k) s = .next t ∧ SMap.find? t.groups gid = some h
        ∧ h.stnts = g.stnts.eraseIdx k ∧ h.drainTs = g.drainTs ++ [(s.stntWrite (s.keyOf g.part) x.bytes).1]
        ∧ t.hbm = (s.stntWrite (s.keyOf g.part) x.bytes).2.hbm

/-! ## Engines, operand buffers and the matrix unit -/

/-- An engine queue with no fence to pass starts its head operation (R264), which follows in logical time the entries
performed before it (R269); a part of the barrier decrement is applied once its bytes are moved, and its pod-tier writes
acknowledged (R267); and the operation at the head of a queue whose bytes are moved, with no completion word, no
barrier and no write of a pod tier left, is performed and leaves its queue, its node done or its fault held (R264, R267,
R272-R274). -/
def Obligations.EngineOperationsStartAndEnd : Prop :=
  ∀ (s : State) (gr q : Nat) (o : EngOp), s.headOp gr q = some o →
    ((s.grove gr).doneFence = none → o.started = false →
      exec (.engineOpStart gr q) s = .next (s.setHead gr q { o with
        started := true, ts := ((SMap.find? (s.grove gr).qts q).map (tmax o.ts)).getD o.ts }))
    ∧ ∀ p, SMap.find? s.parts o.part = some p → o.started = true → o.miss = none →
      (exec (.engineOpPerformed gr q) s = .next (s.finishOp gr q o p))
      ∧ (o.failed = none → o.done = o.total → o.flushed = true → o.cwDone = true → o.unacked s = false → o.total ≤ o.dec →
        o.cwSeq.any s.opPending = false → exec (.engineOpPerformed gr q) s = .next (s.endOp gr q o))
      ∧ ∀ n, o.failed = none → 0 < n → n ≤ 4096 → o.dec + n ≤ o.total → o.dec + n ≤ o.done → o.unacked s = false →
        exec (.txbDecrement gr q n) s = .next ((o.decrement s n).2.setHead gr q (o.decrement s n).1)

/-- The next fill of a range of an operand buffer completes: a range that went stale stays so; one whose source is read
is filled; one whose read fails is stale, with the fault held (R240, R241). A debug read of a tile or range answers its
contents, zeros for a range that is only reserved (R236), but a sealed range is never read and an unprivileged reader
gets `PRIV` (R262; that code is the model's choice, log entry 26). The arbiter of a grove grants the one pass that is eligible, in its cycle, and its slices are taken
until its grant ends (R250, R251); no pass is granted while issue is held (R443). A granted pass retires 24 cycles after
its occupancy of 8 + K/ch cycles, and not before; it leaves the table (R251, R252). -/
def Obligations.OperandFillsAndPassesProceed : Prop :=
  ((∀ (s : State) (core ob : Nat) (f : ObFill) (w : Wg) (r : Range) (g : Group) (p : Part),
        (s.grove (coreGrove core)).obFills.find? (fun f => f.core == core && f.ob == ob) = some f →
        s.wg? f.cid f.wg = some w → SMap.find? w.ranges ob = some r → SMap.find? s.groups f.gid = some g →
        SMap.find? s.parts g.part = some p → f.failed = none → f.miss = none →
        let i := Instr.obFillComplete core ob
        let stale : Range := { r with st := .stale, data := [], scales := [], bad := [] }
        (r.st = .stale → exec i s = .next (s.endFill f f.ts stale none))
        ∧ (r.st ≠ .stale → ∀ r2 t u, s.readRange p (coreDie core) f.lease f.ts r (some (f.gid, f.num)) = .ok (r2, t) u →
            r2.st = .filled ∧ exec i s = .next (u.endFill f t r2 none))
        ∧ (r.st ≠ .stale → ∀ c u, s.readRange p (coreDie core) f.lease f.ts r (some (f.gid, f.num)) = .fail c u →
            exec i s = .next (u.endFill f f.ts stale (some c))))
    ∧ ∀ (s : State) (core z ob : Nat) (w : Wg) (r : Range),
        s.clusters.findSome? (fun c => c.2.wgs.find? (fun w => w.core == some core && w.slice)) = some w →
        SMap.find? w.ranges ob = some r →
        exec (.debugRead true (.tile core z)) s =
            .next (s.answer ((List.range 512).map (fun i => (SMap.get 0 w.tiles (512 * z + i)).toNat)))
        ∧ exec (.debugRead false (.tile core z)) s = .next (s.refuse .priv)
        ∧ (r.isSealed = true → ∀ b, exec (.debugRead b (.range core ob)) s = .next (s.refuse .sealDenied))
        ∧ (r.isSealed = false →
          (r.st ≠ .reserved → r.data ≠ [] → exec (.debugRead true (.range core ob)) s =
            .next (s.answer ((r.data ++ r.scales).map (·.toNat))))
          ∧ (r.st = .reserved → exec (.debugRead true (.range core ob)) s =
            .next (s.answer (List.replicate
              (r.lines * lineBytes r.ty r.depth + scaleBytes r.ty r.lines r.depth r.blk) 0)))
          ∧ (∃ t, exec (.debugRead true (.range core ob)) s = .next t)
          ∧ exec (.debugRead false (.range core ob)) s = .next (s.refuse .priv)))
  ∧ ((∀ (s : State) (gr : Nat) (p : Pass), s.issueHeld = false → (s.grove gr).passes = [p] →
        s.nextGrant (s.grove gr) = some p → s.staleFor p = false →
        ∃ t, exec (.matrixArbitration gr) s = .next t ∧ (t.grove gr).passes = [{ p with granted := some s.cycle }]
          ∧ ∀ c ∈ p.slices, SMap.get 0 (t.grove gr).sliceFree c = s.cycle + p.occupancy + (if p.wide then 24 else 0))
    ∧ (∀ (s : State) (gr : Nat), s.issueHeld = true → exec (.matrixArbitration gr) s = .next s)
    ∧ ∀ (s : State) (gr k c : Nat) (p : Pass), (s.grove gr).passes.find? (fun p => p.key == k) = some p →
        p.granted = some c →
        (s.cycle < c + (8 + p.k / p.ch) + 24 → exec (.passRetire gr k) s = .next s)
        ∧ (c + (8 + p.k / p.ch) + 24 ≤ s.cycle →
          exec (.passRetire gr k) s = .next (s.retirePass gr p)
          ∧ ∀ x ∈ ((s.retirePass gr p).grove gr).passes, x.key ≠ k))

/-! ## Streams, heads and modules -/

/-- A stream's next operation is sent to its module, or performed as a posted write of the host link (R337, R342); the
former destination gets a close when the destination changes (R338). An acknowledgement takes its operation out and is
delivered (R337, R343). -/
def Obligations.StreamOperationsAreSentAndAcknowledged : Prop :=
  (∀ (s : State) (sid : Nat) (x : Stream) (o : SOp), SMap.find? s.streams sid = some x →
      x.ops.find? (fun o => o.state == 0) = some o → s.mayBeSent x o = true → o.src = none →
      (∀ m, o.dest = .modul m →
        ∃ t, exec (.streamOpSend sid) s = .next t
          ∧ SMap.find? t.streams sid = some { x with sent := some o.dest, ops := x.ops.map (fun z =>
              if z.seq = o.seq then { z with state := 1 } else z) }
          ∧ (∀ k, x.sent = some (.modul k) → k ≠ m → t.closes = s.closes ++ [(k, sid)])
          ∧ (x.sent = none ∨ x.sent = some .host ∨ x.sent = some (.modul m) → t.closes = s.closes))
      ∧ (∀ bs k, o.dest = .host → o.layout = none → o.op = .write bs k → (x.sent = none ∨ x.sent = some .host) →
        ∃ t, exec (.streamOpSend sid) s = .next t ∧ t.hostMem = (s.hostWrite bs).hostMem
          ∧ SMap.find? t.streams sid = some { x with sent := some .host, ops := x.ops.map (fun z =>
              if z.seq = o.seq then { z with state := 2 } else z) }))
  ∧ ∀ (s : State) (sid seq : Nat) (o : SOp), s.ownOp sid seq = some o →
      (o.state = 2 → exec (.streamAck sid seq) s = .next (((((s.modStream sid (fun x => { x with
        ops := x.ops.filter (fun y => y.seq != seq) })).deliver sid o).reapStream sid).reapHost o.gid).answerInvs o.part))
      ∧ (o.state ≠ 2 → exec (.streamAck sid seq) s = .next s)

/-- A head commits the operation that is next in its stream's order, the module's memory becoming what it makes of it,
holds one up to 63 ahead, answers an old one as committed and rejects any other, and one of a stream with no context that
is no resync (R338, R339); another package's operation arrives the same way, and a relayed one once it is at the head of
its transport queue, which it enters where there is room, a full queue counting the refusal (R331, R335, R354); a close
frees its context (R338); a resync that found no context for 65,536 cycles is rejected, and what was queued behind it is
discarded (R339). That one event enters a request into its transport queue and, at its head, issues it (log entry 99), and
that a stream's context is the module's, whichever head it came by (log entry 106), are the model's choice. -/
def Obligations.HeadsCommitHoldAndReject : Prop :=
  (∀ (s : State) (m hd sid seq : Nat) (o : SOp), s.modLost m = false → s.ownOp sid seq = some o → o.seq = seq →
      o.state = 1 → o.dest = .modul m → s.headFor m = some hd → o.resync = false →
      (s.head m hd).waits.any (fun w => w.own && w.msg.sid == sid && w.msg.seq == seq) = false →
      ((s.modulePort m).isSome = true
        ∨ ((SMap.find? s.streams sid).bind (fun x => x.ops.find? (fun y => y.state == 1))).map (·.seq) = some seq) →
      let k := s.ctxHead m hd sid
      let h := s.head m k
      let i := Instr.streamOpArrival m hd (.own sid seq)
      (h.ctx sid = none → exec i s = .next (s.answerOp sid seq (some .streamSeq)))
      ∧ ∀ c, h.ctx sid = some c →
        let d := (seq + 2 ^ 32 - c.next) % 2 ^ 32
        let u := s.putHead m k (h.putCtx { c with next := (seq + 1) % 2 ^ 32 })
        (d = 0 → c.window = [] →
          (∀ x p, x ∈ needsWindow o.op → SMap.find? s.parts o.part = some p → s.inWindow p m x.1 x.2 = true) →
          (∀ op, o.atCommit u m = .ok op →
            let r := u.modPerform m op
            ∃ t, exec i s = .next t ∧ t.modMem = r.s.modMem ∧ t.modPoison = r.s.modPoison
              ∧ t.ownOp sid seq = some { o with state := 2, code := r.code, result := r.result, ok := r.ok }
              ∧ (t.head m k).ctx sid = some { c with next := (seq + 1) % 2 ^ 32 })
          ∧ ∀ e, o.atCommit u m = .error e → exec i s = .next (u.answerOp sid seq (some e)))
        ∧ (0 < d → d ≤ 63 → c.window.any (fun w => w.1.seq == seq) = false →
          exec i s = .next (s.putHead m k (h.putCtx { c with window := c.window ++ [(o.msg sid, true)] })))
        ∧ (2 ^ 31 ≤ d → exec i s = .next (s.answerOp sid seq none))
        ∧ (64 ≤ d → d < 2 ^ 31 → exec i s = .next (s.answerOp sid seq (some .streamSeq))))
  ∧ (∀ (s : State) (m hd h k : Nat) (msg : ModMsg), s.modLost m = false → msg.sid / 2048 ≠ s.pkg →
      exec (.streamOpArrival m hd (.foreign msg)) s = .next (s.headArrive m hd msg false)
      ∧ (s.modulePort m = some h → ((s.budRoute (msg.sid / 2048)).bind List.head?).bind s.modulePort = some k →
        (s.podPort k).region.isSome = true → (s.podPort k).up = true →
        let q := (SMap.find? s.crown.relayq (msg.sid / 2048)).getD {}
        let put (q : TQueue) : State := s.modCrown (fun c => { c with relayq := SMap.put c.relayq (msg.sid / 2048) q })
        (∀ r, q.entries = (m, msg) :: r → (s.podPort h).up = true →
          exec (.relayForward m msg) s = .next ((put { q with head := q.head + 1, entries := r }).headArrive m h msg false))
        ∧ ((m, msg) ∉ q.entries →
          (q.entries.length < relayDepth → exec (.relayForward m msg) s =
            .next (put { q with tail := q.tail + 1, entries := q.entries ++ [(m, msg)] }))
          ∧ (relayDepth ≤ q.entries.length → exec (.relayForward m msg) s = .next (put { q with ovf := q.ovf + 1 })))))
  ∧ (∀ (s : State) (m hd sid : Nat), s.closes.contains (m, sid) = true → s.headFor m = some hd →
      let k := s.ctxHead m hd sid
      (s.head m k).waits = [] →
      ∃ t, exec (.streamClose m hd sid) s = .next t ∧ (m, sid) ∉ t.closes
        ∧ t.head m k = { s.head m k with ctxs := (s.head m k).ctxs.filter (fun c => c.sid != sid) })
  ∧ ∀ (s : State) (m hd sid : Nat) (w : CtxWait),
      (s.head m hd).waits.find? (fun w => w.msg.sid == sid && decide (w.since + 65536 ≤ s.cycle)) = some w →
      (w.own = false → exec (.streamCtxTimeout m hd sid) s =
        .next (s.putHead m hd { s.head m hd with waits := (s.head m hd).waits.erase w }))
      ∧ ∀ x, w.own = true → SMap.find? s.streams sid = some x →
        ∃ t y, exec (.streamCtxTimeout m hd sid) s = .next t ∧ SMap.find? t.streams sid = some y ∧ y.fresh = true
          ∧ ∀ o ∈ y.ops, o.state ≠ 0

/-- A back-invalidation drops the package's copy and lets a sleeping `MQPOP` of that header line retry (R332, R347); a
port comes up where the module and head behind it are those of the plane, else the wiring is reported (R328), and one with
too few good lanes does not train (R439); a module is lost by a fatal error, a link down for 1 ms and not earlier, or a
notice: its operations that are not acknowledged fail (R350, R351); a head is lost, the module keeping the contexts of the
streams that other packages relayed through it, or restored (R330, R354); an integrity failure takes the link down, and the
moment is kept (R402). That an integrity failure and a notice post no event of their own (log entry 62), and what a module
keeps of a lost head (log entry 106), are the model's choice. -/
def Obligations.ModulesAndPortsFailAndRecover : Prop :=
  (∀ (s : State) (h m line : Nat), s.portModule h = some m →
      ∃ t, exec (.backInvalidate h line) s = .next t ∧ SMap.get 0 t.podCopies (modKey m (128 * line) / 128) = 0
        ∧ ∀ gid g c, SMap.find? s.groups gid = some g → g.wait = .mqSleep c m line →
          SMap.find? t.groups gid = some { g with wait := .mqSleep 0 m line })
  ∧ (∀ (s : State) (h m hd k : Nat), s.portModule h = some k →
      ((s.podPort h).width = 0 → exec (.portTraining h m hd) s = .next s)
      ∧ ((s.podPort h).width ≠ 0 →
        (k = m ∧ hd = h → exec (.portTraining h m hd) s =
          .next (s.modPort h (fun p => { p with up := true, wrong := false, downSince := none })))
        ∧ (¬ (k = m ∧ hd = h) → exec (.portTraining h m hd) s =
          .next ((s.modPort h (fun p => { p.fall s.cycle with wrong := true })).post (.wiring h)))))
  ∧ (∀ (s : State) (h m : Nat), s.portModule h = some m →
      (s.modLost m = false →
        exec (.moduleFatalError m) s = .next ((s.loseModule m).post (.moduleLost m))
        ∧ (∀ c, (s.podPort h).up = false → (s.podPort h).downSince = some c →
          (c + 2000000 ≤ s.cycle → exec (.moduleLinkTimeout h) s = .next ((s.loseModule m).post (.moduleLost m)))
          ∧ (s.cycle < c + 2000000 → exec (.moduleLinkTimeout h) s = .next s))
        ∧ exec (.moduleLossNotice m) s = .next (s.loseModule m)
        ∧ (s.loseModule m).modLost m = true
        ∧ ∀ e ∈ (s.loseModule m).streams, ∀ o ∈ e.2.ops, o.dest = .modul m →
          o.state = 2 ∧ o.code = some .moduleLost ∧ o.result = [])
      ∧ (s.modLost m = true → ∀ i ∈ [Instr.moduleFatalError m, .moduleLinkTimeout h, .moduleLossNotice m],
        exec i s = .next s))
  ∧ (∀ (s : State) (m hd : Nat), hd < 8 →
      (∃ t, exec (.headLossReport m hd true) s = .next t ∧ (m, hd) ∈ t.crown.lostHeads ∧ (t.head m hd).waits = []
        ∧ (∀ c ∈ (t.head m hd).ctxs, c.window = [] ∧ s.headPkg m hd ≠ some (c.sid / 2048))
        ∧ ∀ c ∈ (s.head m hd).ctxs, s.headPkg m hd ≠ some (c.sid / 2048) → { c with window := [] } ∈ (t.head m hd).ctxs)
      ∧ ∃ t, exec (.headLossReport m hd false) s = .next t ∧ t.head m hd = s.head m hd
        ∧ (m, hd) ∉ t.crown.lostHeads)
  ∧ ∀ (s : State) (h : Nat), 
      ∃ t, exec (.integrityFailure h) s = .next t ∧ (t.podPort h).up = false
        ∧ ((s.podPort h).up = true → (t.podPort h).downSince = some s.cycle)
        ∧ ∀ k, k ≠ h → t.podPort k = s.podPort k

/-! ## Grafts, root tiles, power -/

/-- A bud whose fields have their widths. -/
def BudFits (b : Bud) : Prop :=
  b.spkg < 32 ∧ b.sdie < 4 ∧ b.sgrove < 32 ∧ b.score < 4 ∧ b.slane < 32 ∧ b.sgpos < 16 ∧ b.sthread < 32 ∧ b.hops < 4
    ∧ b.region < 2 ^ 21 ∧ b.strmid < 2 ^ 16 ∧ b.dpart < 16 ∧ b.snap.length = 4 ∧ b.subset.length = (budRegs b).length
    ∧ b.subset.length ≤ 8

/-- The 128 bytes of a bud, its fields at their places, are read back as they were written (R356). Buds on their way: one
whose charge fits the budgets is sent, one for another package entering the bud queue of its route, and one that does not
is refused before it is sent (R354, R360, R368, R371); one that arrives takes its place in the receiver's queue, or is
refused there (R363, R368), and one that found no place for 4,096 cycles is refused (R368). A receiver takes the buds that
share the first one's work and starts a host group of them, or keeps them until there is room (R363, R364); a return, or a
refusal notice, reaches the thread that sent its bud, which falls back where the `GRFT` says so, its group still there or
not (R365, R368); a host group that outlasts its pre-empted die by 2^20 cycles returns `SAFEPOINT_OVERRUN` for its threads,
and not before (R372). How long a bud stands in a queue of another package's is free (log entry 125). -/
def Obligations.BudsTravelAndHostGroupsReturn : Prop :=
  (∀ (b : Bud), BudFits b →
    (budWords b).length = 16
    ∧ ((budWords b).getD 0 0).toNat = b.spkg * 2 ^ 59 + b.sdie * 2 ^ 57 + b.sgrove * 2 ^ 52 + b.score * 2 ^ 50
        + b.slane * 2 ^ 45 + b.sgpos * 2 ^ 41 + b.sthread * 2 ^ 36 + b.hops * 2 ^ 34 + budKindCode b.kind * 2 ^ 32
        + b.fcode.toNat * 2 ^ 21 + b.region
    ∧ ((budWords b).getD 1 0).toNat = b.mask.toNat * 2 ^ 48 + b.strmid * 2 ^ 32 + (if b.strmv then 2 ^ 31 else 0)
        + b.dpart * 2 ^ 24 + b.pts.toNat
    ∧ (∀ i, i < 4 → (budWords b)[4 + i]? = b.snap[i]?)
    ∧ (∀ i, i < 8 → (budWords b).getD (8 + i) 1 = b.subset.getD i 0)
    ∧ budOfWords (budWords b) b.ref b.obj b.tenant = some b)
  ∧ ((∀ (s : State) (core : Nat) (q : QBud) (rest : List QBud) (r : Word) (g : Group),
        (s.core core).budq = q :: rest → q.after = none → (∀ o ∈ s.budsOut, o.waits s = false) → q.out.rcb = some r →
        SMap.find? s.groups q.out.gid = some g → g.host = none →
        (q.out.dest.1 ≠ s.pkg → ∀ p d m l, SMap.find? s.parts q.out.part = some p →
          SMap.find? p.graftMap q.out.dest.1 = some d → s.fitsIn q.out.part (s.limitsOf g) { bud := 1 } = true →
          q.out.leaves = none → q.out.arrived = false → s.budRoute q.out.dest.1 = some (m :: l) → s.linkUp m = true →
          ((s.modulePort m).bind (fun h => (s.podPort h).region)).isSome = true → s.queuedBuds m < relayDepth →
          ∃ t o, exec (.budSend core) s = .next t ∧ (t.core core).budq = rest ∧ o ∈ t.budsOut
            ∧ o.bud = { q.out.bud with dpart := d } ∧ o.via = m :: l ∧ o.leaves.isSome = true ∧ o.charged = true)
        ∧ (q.out.dest.1 = s.pkg →
        (s.fitsIn q.out.part (s.limitsOf g) { bud := 1 } = true →
          ∃ t, exec (.budSend core) s = .next t ∧ (t.core core).budq = rest
            ∧ t.budsOut = s.budsOut ++ [{ q.out with
                since := s.cycle, charged := true, path := (s.limitsOf g).map (·.1)
                bud := { q.out.bud with dpart := q.out.part }, via := [] }])
        ∧ (s.fitsIn q.out.part (s.limitsOf g) { bud := 1 } = false →
          ∃ t, exec (.budSend core) s = .next t ∧ (t.core core).budq = rest
            ∧ t.budsOut = s.budsOut ++ [{ q.out with since := s.cycle }]
            ∧ t.returns = s.returns ++ [budWire { q.out.bud with kind := .refusal, subset := [], snap := [] }])))
    ∧ (∀ (s : State) (die recv : Nat) (b : Bud), ((s.die die).recv recv).queue.length < 1024 → b.kind = .bud →
        budReceiver b = recv →
        (∀ o, b.spkg = s.pkg → s.outBud b = some o → o.bud = b → o.arrived = false → o.dest = (s.pkg, die) →
          s.refused b = false →
          let u := s.modOut b.ref (fun o => { o with arrived := true })
          (s.refuses die b = false ∨ o.fallback = true →
            exec (.budArrival die recv b) s = .next (u.modRecv die recv (fun r => { r with queue := r.queue ++ [b] })))
          ∧ (s.refuses die b = true → o.fallback = false → exec (.budArrival die recv b) s = .next (u.refuseBud b)))
        ∧ (b.spkg ≠ s.pkg → s.refuses die b = false → s.transportFrom b.spkg = true →
          exec (.budArrival die recv b) s = .next (s.modRecv die recv (fun r => { r with queue := r.queue ++ [budWire b] }))))
    ∧ ∀ (s : State) (b : Bud) (o : OutBud), s.outBud b = some o → o.arrived = false → o.fallback = false →
        s.refused b = false →
        (o.since + 4096 ≤ s.cycle → exec (.budQueueTimeout b) s =
          .next ((s.modOut b.ref (fun o => { o with arrived := true })).refuseBud o.bud))
        ∧ (s.cycle < o.since + 4096 → exec (.budQueueTimeout b) s = .next s))
  ∧ ((∀ (s : State) (die recv core lane : Nat) (b : Bud) (p : Part),
        let q := ((s.die die).recv recv).queue
        let r := ((s.die die).recv recv).assemble
        let u := s.modRecv die recv (fun _ => r)
        r.taken.head? = some b → SMap.find? s.parts b.dpart = some p →
        (((s.die die).recv recv).taken = [] → r.taken = (assembled q).filterMap (fun i => q[i]?)
          ∧ r.queue = ((List.range q.length).zip q).filterMap (fun x =>
            if (assembled q).contains x.1 then none else some x.2))
        ∧ (s.hostsOf die recv < 64 → coreDie core = die → (s.die die).held = false →
          s.worksOn b.dpart (fun c => coreGrove c == coreGrove core) = true → s.pickLane core 2 [] = some lane →
          ∃ t, exec (.hostGroupStart die recv core lane) s = .next t
            ∧ SMap.find? t.groups u.nextId = some (hostGroup u.newId.2 u.nextId die recv core lane p r.taken b)
            ∧ (t.die die).recv recv = { queue := r.queue, taken := [] })
        ∧ (64 ≤ s.hostsOf die recv ∨ s.pickLane core 2 [] = none →
          exec (.hostGroupStart die recv core lane) s = .next u))
    ∧ (∀ (s : State) (b : Bud) (o : OutBud), s.outBud b = some o → s.refused b = false →
        ((o.dest.1 ≠ s.pkg ∧ o.leaves.isSome = true) ∨ s.returns.contains b = true) →
        let u : State := { s with returns := s.returns.erase b }
        (b.kind = .ret → b.fcode = 0 →
          exec (.returnApply b) s = .next (u.closeBud o (.ok b.subset) (some b.pts)))
        ∧ (b.kind = .ret → b.fcode ≠ 0 →
          let v := u.modPart o.part (fun p => { p with markedReturns := p.markedReturns + 1 })
          ((∀ m ∈ o.via, s.modLost m = false) →
            exec (.returnApply b) s = .next (v.closeBud o (.error (b.fcode, b.region)) (some b.pts)))
          ∧ ((∃ m ∈ o.via, s.modLost m = true) → b.fcode = 0x16#8 →
            exec (.returnApply b) s = .next (v.closeBud o (.error (b.fcode, o.off)) (some b.pts)))))
    ∧ (∀ (s : State) (b : Bud) (o : OutBud), s.outBud b = some o → s.returns.contains b = true → b.kind = .refusal →
        o.fallback = false →
        let u : State := { s with returns := s.returns.erase b }
        (o.fb = false → exec (.refusalNotice b) s = .next (u.closeBud o (.error (0x17#8, o.off)) none))
        ∧ (o.fb = true → (SMap.find? s.parts o.part).isSome = true → exec (.refusalNotice b) s =
          .next ((u.reclaimBud o).modOut b.ref (fun o => { o with
            charged := false, fallback := true, arrived := false, leaves := none, dest := (s.pkg, o.bud.sdie), via := [],
            since := s.cycle, bud := { o.bud with dpart := o.part } }))))
    ∧ ∀ (s : State) (gid c : Nat) (g : Group) (h : HostInfo), SMap.find? s.groups gid = some g → g.host = some h →
        h.heldSince = some c →
        (s.cycle < c + 2 ^ 20 → exec (.hostGroupOverrun gid) s = .next s)
        ∧ (c + 2 ^ 20 ≤ s.cycle → exec (.hostGroupOverrun gid) s =
          .next (((s.cancelWaiter g.part (2 * gid)).putGroup gid { g with
            slot0 := none, slot1 := none, stack := [], run := none, park := none, redo := none
            host := some { h with ending := h.ending ++ (threadsOf g.alive).map (fun t =>
              { thread := t, code := 0x1D#8
                off := ((g.paths.find? (fun p => p.mask.getLsbD t)).map (·.off)).getD 0 }) } }).reapHost gid)))

/-- A root node that waits is bound when its checks pass as its pages now stand, its stack's tiles are free and no earlier
node waits for them; it faults where a check fails or the stack has failed, waits for an absent page, and is not bound
while its partition is pre-empted (R378, R380, R384); a burst without the node's tag is rejected, the one that is due adds
its unit's partial sum, one with an error faults the node, and a corrected sector is rewritten by a request of the first
class unless it was written since (R381, R382, R385, R386); a node whose rows of y are all written
completes and its tiles are free (R378, R383). A controller issues the oldest request of the first class that has one;
a bulk request that waited 32,000 cycles gives every 64 urgent commands one bulk one (R377). -/
def Obligations.RootNodesAndHbmControllersProceed : Prop :=
  ((∀ (s : State) (gn i k : Nat) (r : RootNode) (p : Part),
        s.roots.find? (fun r => r.graph == gn && r.node == i && r.stack.isNone) = some r →
        SMap.find? s.parts r.part = some p → r.fault = none → r.miss = none →
        let held := ((SMap.find? s.graphs r.graph).map (fun g => s.nodesHeld g p)).getD false
        let bind (t : State) : Prop := exec (.rootNodeBind gn i) s = .next t
        (held = true → bind s)
        ∧ (held = false →
          (∀ c, s.rootCheck p r = .fault c → bind (s.rootFail r c))
          ∧ (∀ m, s.rootCheck p r = .miss m → bind (s.rootMiss r m))
          ∧ (s.rootCheck p r = .stack k →
            let u := s.modRoot r.order (fun r => { r with want := some k })
            let r2 := { r with want := some k }
            (s.crown.failedStacks.contains k = true → bind (u.rootFail r2 .rootFault))
            ∧ (s.crown.failedStacks.contains k = false →
              (u.stackFree r2 k = true → bind (u.bindRoot r2 k p))
              ∧ (u.stackFree r2 k = false → bind (u.modRoot r.order (fun r => { r with waits := true })))))))
    ∧ (∀ (s : State) (b : BurstArg) (r : RootNode) (p : Part), s.rootAt b.node = some r →
        SMap.find? s.parts r.part = some p → r.miss = none →
        let h := s.hmap (r.stack.getD 0)
        let ch (i u : Nat) : Option Nat := (r.unitAddr i u).map (channelOf h)
        (b.tagged = false → exec (.rootBurstArrival b) s = .next s)
        ∧ (b.tagged = true → r.stack.isSome = true →
          r.issued.find? (fun x => ch x.1 x.2 == ch b.row b.unit) = some (b.row, b.unit) →
          (∀ v, s.burstBad r b = some v → exec (.rootBurstArrival b) s = .next v)
          ∧ ∀ a w t u, s.burstBad r b = none → r.addr b.row b.unit = some a →
            (s.burstFix r b).unitRead r p a = (w, t, u) →
            let r2 : RootNode := { r with
              sums := SMap.put r.sums (r.key b.row b.unit) (unitSum w ((r.x.drop (256 * b.unit)).take 256))
              issued := r.issued.erase (b.row, b.unit), ts := tmax r.ts t }
            r2.rowFull b.row = false →
            exec (.rootBurstArrival b) s = .next (u.modRoot r.order (fun _ => r2)).freeWord.2))
    ∧ (∀ (s : State) (b : BurstArg) (r : RootNode) (l j : Nat), r.unitAddr b.row b.unit = some l → j ∈ b.fixed → j < 8 →
        ((SMap.find? r.seen (r.key b.row b.unit)).getD [])[j / 4]? = (s.unitTimes r b.row b.unit)[j / 4]? →
        let h := s.hmap (r.stack.getD 0)
        ∃ q ∈ ((s.burstFix r b).hbmCtlAt (ctlKey (r.stack.getD 0) (channelOf h (l + 32 * j)) (pcOf h (l + 32 * j)))).reqs,
          q.cls = 0)
    ∧ ∀ (s u : State) (gn i : Nat) (r r2 : RootNode) (p : Part),
        s.roots.find? (fun r => r.graph == gn && r.node == i && r.stack.isSome) = some r →
        SMap.find? s.parts r.part = some p → r.fault = none → r.miss = none → (∀ k, k < r.nrows → r.rowFull k = true) →
        State.writeRows p (List.range r.nrows) r.order s = (none, u) → u.rootAt r.order = some r2 →
        (∀ k, k < r.nrows → (SMap.find? r2.written k).isSome = true) →
        exec (.rootNodeComplete gn i) s = .next ((u.unbindRoot r2).nodeDone gn i r2.ts)
          ∧ ∀ x ∈ (u.unbindRoot r2).roots, x.order ≠ r2.order)
  ∧ ((∀ (c : HbmCtl) (q : HbmReq), c.relief = false → c.next = some q →
        q ∈ c.reqs ∧ ∀ r ∈ c.reqs, r.cls ≤ 2 → q.cls ≤ r.cls)
    ∧ (∀ (c : HbmCtl) (r : HbmReq), c.relief = true → 64 ≤ c.urgentRun → (∀ x ∈ c.reqs, x.cls ≠ 0) → r ∈ c.reqs →
        r.cls = 2 → (c.next.map (·.cls)) = some 2)
    ∧ (∀ (s : State) (k ch pc n i u : Nat) (q : HbmReq) (r : RootNode),
        let c := s.hbmCtlAt (ctlKey k ch pc)
        c.next = some q → q.burst = some (n, i, u) → s.rootAt n = some r →
        let rest := c.reqs.erase q
        let waited := rest.any (fun r => r.cls == 2 && decide (r.at_ + 32000 ≤ s.cycle))
        let c2 : HbmCtl := { c with
          reqs := rest
          urgentRun := if q.cls = 1 then c.urgentRun + 1 else if q.cls = 2 then 0 else c.urgentRun
          relief := c.relief && (q.cls != 2 || waited) }
        let s2 : State := { s with hbmCtl := SMap.put s.hbmCtl (ctlKey k ch pc) c2 }
        exec (.hbmColumnCommand k ch pc) s = .next
          ((s2.modRoot n (fun r => { r with
            issued := r.issued ++ [(i, u)], seen := SMap.put r.seen (r.key i u) (s2.unitTimes r i u) })).askBurst r ch
              ((r.unitAddr i u).map (fun a => (a, i, u)))))
    ∧ ∀ (s : State) (k ch pc : Nat),
        let c := s.hbmCtlAt (ctlKey k ch pc)
        let due := c.reqs.any (fun r => r.cls == 2 && decide (r.at_ + 32000 ≤ s.cycle))
        (c.relief = false → due = true → exec (.bulkStarvationRelief k ch pc) s =
          .next { s with hbmCtl := SMap.put s.hbmCtl (ctlKey k ch pc) { c with relief := true, urgentRun := 0 } })
        ∧ (due = false → exec (.bulkStarvationRelief k ch pc) s = .next s))

/-- Issue is held while measured power exceeds the cap (R443), and from above 105 °C of a die, an I/O die as well, until it
falls to 100 °C; at 115 °C every partition is erased as R389 says, its work gone, its interface unlocked and its key
handles erased, then the event is posted and the package is held in reset, which a reset that does not come through the
mailbox does not end (R444). Wear counters move on, and the
event is posted once LIFE is below 10 (R442). -/
def Obligations.PowerHeatAndWearAreWatched : Prop :=
  (∀ (s : State) (w : Nat), ∃ t, exec (.powerCapHold w) s = .next t
      ∧ t = s.holdIssue (fun s => s.modCrown (fun c => { c with powerHold := decide (c.powerCap < w) }))
      ∧ t.crown.powerHold = decide (s.crown.powerCap < w) ∧ (s.crown.powerCap < w → t.issueHeld = true))
  ∧ (∀ (s : State) (d w : Nat), d < 6 →
      ∃ t, exec (.thermalHold d w) s = .next t ∧ (105 < w → (t.die d).held = true)
        ∧ (w ≤ 100 → (t.die d).held = false) ∧ (100 < w → w ≤ 105 → (t.die d).held = (s.die d).held)
        ∧ ∀ k, k ≠ d → t.die k = s.die k)
  ∧ (∀ (s : State) (d w : Nat), d < 6 → s.crown.down = false →
      (115 ≤ w → ∃ t, exec (.thermalTrip d w) s = .next t ∧ t.crown.down = true
        ∧ t.crown.events.getLast? = some (.thermalTrip d) ∧ t.issueHeld = true
        ∧ ∀ n p, SMap.find? s.parts n = some p →
          (∀ q, SMap.find? t.parts n = some q → q.tdi = .unlocked ∧ q.handles = [] ∧ q.preempted = [] ∧ q.answers = [])
          ∧ SMap.find? t.crown.tdiKeys n = none ∧ (∀ m ∈ t.migrations, m.part ≠ n) ∧ (∀ r ∈ t.roots, r.part ≠ n)
          ∧ (∀ k x, SMap.find? s.tasks k = some x → x.part = n → SMap.find? t.tasks k = none)
          ∧ (∀ k g, SMap.find? s.groups k = some g → g.part = n → SMap.find? t.groups k = none)
          ∧ ∀ k g, SMap.find? s.graphs k = some g → g.part = n → SMap.find? t.graphs k = none)
      ∧ (w < 115 → exec (.thermalTrip d w) s = .next s))
  ∧ (∀ (s : State) (r : ResetReport), s.crown.down = true → s.crown.unserviceable = false →
      exec (.packageReset r) s = .next s)
  ∧ ∀ (s : State) (r : WearReading),
      let life := Nat.min s.crown.wear.life r.life
      ∃ t, exec (.wearCounterUpdate r) s = .next t
        ∧ t.crown.wear = { life, rowrep := Nat.max s.crown.wear.rowrep r.rowrep, ceday := r.ceday,
                           hoth := Nat.max s.crown.wear.hoth r.hoth }
        ∧ (life < 10 → t.crown.wearPosted = true)
        ∧ (life < 10 → s.crown.wearPosted = false → t.crown.events = s.crown.events ++ [.wear])
        ∧ (10 ≤ life ∨ s.crown.wearPosted = true → t.crown.events = s.crown.events)

/-! ## The machine as a whole -/

/-- A step runs the decoded instruction: the group chosen for its stem executes what the word at its pc decodes to, the
reserved word where none does, and the failed fetch where there is no word (R41, R42, R77); each byte of the word is
memory's, or the one that a core of the task fetched first, and memory's where that one is equal (R64); the slot that
arbitration chose executes the instruction stored there (R60); a turn of the schedule is an event of the device or the
host, or the issue of a core's stem unit, at its cycle; and a fetch takes four bytes at the pc, little-endian (R34,
R77). -/
def Obligations.StepRunsTheDecodedInstruction : Prop :=
  (∀ (s : State) (gid : Nat) (g : Group), s.cur = some (.stem gid) → SMap.find? s.groups gid = some g →
      (∀ w, (s.fetchStem g).1 = .word w →
        let k := s.keepStem g.tid g.pc w
        (∀ i, decodeStem k.1 = .ok i → step s = exec i k.2)
        ∧ (∀ e, decodeStem k.1 = .error e → step s = exec (.reservedWord k.1) k.2)
        ∧ k.2 = { s with tasks := k.2.tasks, fresh := k.2.fresh }
        ∧ ((∀ t old, SMap.find? s.tasks g.tid = some t → SMap.find? t.stemCode g.pc.toNat = some old → old = w) → k.1 = w)
        ∧ ∀ t old, SMap.find? s.tasks g.tid = some t → SMap.find? t.stemCode g.pc.toNat = some old →
          ∀ j, j < 4 → (k.1.extractLsb' (8 * j) 8 = w.extractLsb' (8 * j) 8 ∨ k.1.extractLsb' (8 * j) 8 = old.extractLsb' (8 * j) 8))
      ∧ ((∀ w, (s.fetchStem g).1 ≠ .word w) → step s = exec .stemFetch s))
  ∧ (∀ (s : State) (gid slot n : Nat) (g : Group) (p : Path) (o : Nat) (b : Byte) (r : List Byte) (i : Instr),
      s.cur = some (.leaf gid slot n) → SMap.find? s.groups gid = some g → g.slot slot = some p →
      SMap.find? g.ic p.off = some (o, some (b :: r)) → decodeStored b r = .ok i → step s = exec i s)
  ∧ (∀ (s : State) (t : Turn) (r : List Turn), s.cur = none → s.schedule = t :: r →
      let u := ({ s with schedule := r } : State).pass t.dt
      u.cycle = s.cycle + t.dt
      ∧ (∀ i, t.act = .event i → isEvent i = true → step s = exec i (u.readied i))
      ∧ (∀ core gid v, t.act = .stem core → u.pickStem core = some (gid, v) →
        step s = step { v with cur := some (.stem gid) }))
  ∧ ∀ (s v u : State) (g : Group) (p : Part) (d : Desc) (a : Nat), SMap.find? s.parts g.part = some p →
      s.coreDesc g.coreN g.part (ptrObj g.pc) = (.ok d, v) →
      stemFetchFault d (keyClass p d) (ptrOff g.pc) = none →
      v.findPage (coreDie g.coreN) g p (ptrObj g.pc) d (ptrOff g.pc) false = (.place (.hbm a) 0, u) →
      u.hbmBadSpan a 4 = false →
      (s.fetchStem g).1 = .word (BitVec.ofNat 32 (wordOf (u.hbmBytes p.keyId a 4)))

/-- After package reset the state holds what the spec gives: no partition, task or group (R19, R437), every bank at
its reset mode and its bytes zero (R203), HMAP at 0x0250000000001E00 (R375), the power cap at 3,200 W (R443), LIFE at
100 (R442), normal mode and no port trained (R328, R437); and its memories list nothing. A package reset, and the
mailbox's one where it may come, leave the machine as R203, R375, R437, R439, R440 and R443 say: no partition, work,
binding or session, every bank and HMAP at reset, the power cap at 3,200 W; the memories that keep their contents, the
module heads and what the crown controller keeps stay. That a memory lists nothing after reset (log entry 4), that no port
is trained then (log entry 66), and what else outlives a package reset (log entry 59), are the model's choice. -/
def Obligations.ResetLeavesTheStatedState : Prop :=
  (let s := State.reset;
    s.parts = [] ∧ s.tasks = [] ∧ s.clusters = [] ∧ s.groups = [] ∧ s.cur = none
      ∧ (∀ k, s.hmap k = 0x0250000000001E00#64) ∧ s.crown.powerCap = 3200 ∧ s.crown.wear.life = 100
      ∧ s.crown.sapling = false ∧ s.crown.down = false ∧ s.crown.podset = none
      ∧ (∀ h, ((SMap.find? s.crown.ports h).getD {}).up = false)
      ∧ (∀ gr b, b < 16 → ((s.grove gr).bank b).mode = if b < 8 then .scratch else .cache)
      ∧ (∀ a, s.sramByte a = 0) ∧ s.memWf = true ∧ s.partyOk = true)
  ∧ (∀ (s : State) (v : Via) (r : ResetReport), ∃ t,
      (s.crown.down = false ∨ s.crown.unserviceable = true → exec (.packageReset r) s = .next t)
      ∧ (s.crown.down = true ∨ CommandReady s v false → exec (.mailboxReset v r) s = .next t)
      ∧ t.cycle = 0 ∧ t.cur = none ∧ t.parts = [] ∧ t.tasks = [] ∧ t.clusters = [] ∧ t.groups = [] ∧ t.streams = []
      ∧ t.graphs = [] ∧ t.roots = [] ∧ t.migrations = [] ∧ t.cores = [] ∧ t.groves = [] ∧ t.dies = [] ∧ t.sram = []
      ∧ t.lines = [] ∧ t.resvs = [] ∧ t.crown.podset = none ∧ t.crown.hmap = [] ∧ t.crown.powerCap = 3200
      ∧ t.crown.sessions = [] ∧ t.crown.sapling = r.strap ∧ (t.crown.down = tooFewSpares t.crown.spares)
      ∧ t.hbm = s.hbm ∧ t.hostMem = s.hostMem ∧ t.modMem = s.modMem ∧ t.heads = s.heads ∧ t.poison = s.poison
      ∧ t.crown.wear = s.crown.wear ∧ t.crown.lostMods = s.crown.lostMods
      ∧ ∀ g b, ((t.grove g).bank b).mode = (if b < 8 then .scratch else .cache) ∧ ((t.grove g).bank b).entries = [])

/-- From every state whose chosen party is there, a step answers a next state: no instruction that a stem, a slot or the
schedule executes is refused or stops the machine. -/
def Obligations.EveryStepGoesOn : Prop :=
  ∀ s : State, s.partyOk = true → ∃ t, step s = .next t

/-- Every step keeps the machine's invariant, from every state and not only from runs: each of the four memories stays in
its canonical form, so that equal memories are equal data, and the party whose instruction executes next is there, so that
no run comes to a stop. (Both are the model's own.) -/
def Obligations.EveryStepKeepsTheInvariant : Prop :=
  ∀ s t : State, s.memWf = true → s.partyOk = true → step s = .next t → t.memWf = true ∧ t.partyOk = true

/-- Bytes read as they were written, and no other byte changes (R4): in HBM under a tenant key, a sector that one key
wrote reading under another as its ciphertext deciphered under that other key, unless the device wrote it (R388); in the
grove SRAM; in a module, clear or under a key (R333); and in host memory. -/
def Obligations.MemoriesReadWhatWasWritten : Prop :=
  (∀ (s : State) (k a : Nat) (bs : List Byte),
      let t := s.hbmWrite k (addrBytes a bs)
      (∀ i, i < bs.length → t.hbmByte k (a + i) = bs.getD i 0)
      ∧ (∀ x, x < a ∨ a + bs.length ≤ x → t.hbmByte k x = s.hbmByte k x)
      ∧ (∀ j x, (∀ i, i < bs.length → (a + i) / 32 ≠ x / 32) → t.hbmByte j x = s.hbmByte j x)
      ∧ (∀ j i, j ≠ k → i < bs.length → t.devSector ((a + i) / 32) = false →
          t.hbmByte j (a + i) = (recode (some k) (some j) (32 * ((a + i) / 32))
            ((span (32 * ((a + i) / 32)) 32).map (t.hbmByte k))).getD ((a + i) % 32) 0))
  ∧ (∀ (s : State) (a : Nat) (bs : List Byte),
      let t := s.sramWrite (addrBytes a bs)
      (∀ i, i < bs.length → t.sramByte (a + i) = bs.getD i 0)
      ∧ ∀ x, x < a ∨ a + bs.length ≤ x → t.sramByte x = s.sramByte x)
  ∧ (∀ (s : State) (k : Option Nat) (m a : Nat) (bs : List Byte), a + bs.length ≤ 2 ^ 48 →
      let t := s.modWrite m k (addrBytes a bs)
      (∀ i, i < bs.length → t.modByte k m (a + i) = bs.getD i 0)
      ∧ ∀ n x, x < 2 ^ 48 → (n ≠ m ∨ x < a ∨ a + bs.length ≤ x) → t.modByte k n x = s.modByte k n x)
  ∧ ∀ (s : State) (a : Nat) (bs : List Byte),
      let t := s.hostWrite (addrBytes a bs)
      (∀ i, i < bs.length → SMap.get 0 t.hostMem (a + i) = bs.getD i 0)
      ∧ ∀ x, x < a ∨ a + bs.length ≤ x → SMap.get 0 t.hostMem x = SMap.get 0 s.hostMem x

/-- The frame of the stem words that work on registers alone: the ALU and immediate words and the reads change a[d] only,
the compares q[q] only, the branches at most their counter or a31 and the pc, the writes of special registers theirs; no
byte of any memory, no other group and nothing outside the groups changes (R78, R85-R88, R91, R92, R98). -/
def Obligations.StemRegisterWordsChangeNothingElse : Prop :=
  ∀ (s t : State) (gid : Nat) (g : Group) (d x y : BitVec 5) (q : BitVec 3) (i16 : BitVec 16) (i14 : BitVec 14)
    (n : BitVec 6) (k : BitVec 2) (c : IntCond) (b : Bool) (d22 : BitVec 22) (d21 : BitVec 21) (l : BitVec 8) (e : BitVec 7),
    StemReady s gid g →
    let frame (i : Instr) (ok : Group → Prop) : Prop := exec i s = .next t →
      ∃ h, SMap.find? t.groups gid = some h ∧ ok h ∧ (∀ j, j ≠ gid → SMap.find? t.groups j = SMap.find? s.groups j)
        ∧ SameBytes s t ∧ SameOutside s t
    let rest (h : Group) : Prop := h.v = g.v ∧ h.p = g.p ∧ h.flags = g.flags ∧ h.xval = g.xval ∧ h.chunks = g.chunks
      ∧ h.run = g.run ∧ h.pend = g.pend ∧ h.active = g.active ∧ h.wslots = g.wslots ∧ h.held = g.held ∧ h.fills = g.fills
    let special (h : Group) : Prop := h.faultCode = g.faultCode ∧ h.faultAddr = g.faultAddr ∧ h.lease = g.lease
      ∧ h.srseed = g.srseed ∧ h.x = g.x
    let aOnly (r : BitVec 5) (h : Group) : Prop := rest h ∧ special h ∧ h.q = g.q ∧ ∀ j, j ≠ r.toNat → h.areg j = g.areg j
    let qOnly (h : Group) : Prop := rest h ∧ special h ∧ h.a = g.a ∧ ∀ j, j < 8 → j ≠ q.toNat → h.qreg j = g.qreg j
    let pcOnly (h : Group) : Prop := rest h ∧ special h ∧ h.a = g.a ∧ h.q = g.q
    let own (h : Group) : Prop := rest h ∧ h.a = g.a ∧ h.q = g.q
    (∀ i ∈ [Instr.add d x y, .sub d x y, .mul d x y, .mulh d x y, .mulhu d x y, .stemAnd d x y, .stemOr d x y,
        .stemXor d x y, .stemShl d x y, .stemShr d x y, .stemSra d x y, .min d x y, .max d x y, .minu d x y, .maxu d x y,
        .stemSel d q x y, .addi d x i16, .andi d x i16, .ori d x i16, .xori d x i16, .shli d x n, .shri d x n, .srai d x n,
        .movi d i16, .movk d k i16], frame i (aOnly d))
    ∧ (∀ i ∈ [Instr.cmp q c x y, .cmpi q c x i14], frame i qOnly)
    ∧ (∀ i ∈ [Instr.br q b d22, .jmp d22, .ret x, .nop], frame i pcOnly)
    ∧ frame (.call d22) (aOnly 31) ∧ frame (.loop d d21) (aOnly d)
    ∧ (∀ i ∈ [Instr.swriteFaultCode x, .swriteFaultAddr x, .swriteLease x, .xset k l e], frame i own)

/-- The frame of the stores: `SST` and, for the one thread that takes it, `STG`, `STP` and `STL` store their data,
little-endian, at the address that the checks of the access find, and every other byte of every memory reads as before
(R89, R210, R213, R307). -/
def Obligations.StoresChangeTheirBytesAlone : Prop :=
  (∀ (s t u : State) (gid : Nat) (g : Group) (d x : BitVec 5) (i : BitVec 16) (pt : Part) (a tier : Nat) (k : Desc),
      StemReady s gid g → SMap.find? s.parts g.part = some pt →
      let p := g.areg x.toNat
      let wr : AccReq := { ptr := p, e := ptrOff p + i.toInt, n := 8, align := 8, needW := true, wr := true,
                           unbound := (s.slotStream g 0).isNone, kind := .write }
      s.freed.checkAccess g.coreN g wr = (.ok (.hbm a) tier k, u) → exec (.sst d x i) s = .next t →
      (∀ j, j < 8 → t.hbmByte pt.keyId (a + j) = (bytesOf 8 (g.areg d.toNat).toNat).getD j 0)
      ∧ (∀ y, y < a ∨ a + 8 ≤ y → t.hbmByte pt.keyId y = s.hbmByte pt.keyId y)
      ∧ t.sram = s.sram ∧ t.modMem = s.modMem ∧ t.hostMem = s.hostMem)
  ∧ ∀ (s t : State) (gid slot next : Nat) (g : Group) (r : Run) (p : Path) (w : Leaf) (th : Nat) (pt : Part),
      LeafReady s gid slot next g r p → SMap.find? s.parts g.part = some pt → g.host = none → g.podLoads [th] = false →
      prepare g r (takersOf g slot p w.ctl) (leafSrcs w) [] = .go [th] [] →
      let n := Ty.width w.ty / 8
      let off (o : LOp) : Int := (argA o w g r th).toInt + (argB o w g r th).toInt
      let data (o : LOp) : List Byte := bytesOf n (argE o w g r th).toNat
      let req : AccReq := { ptr := argA .stg w g r th, e := ptrOff (argA .stg w g r th) + (argB .stg w g r th).toInt, n,
                            align := n, needW := true, wr := true, unbound := (s.slotStream g w.slot.toNat).isNone
                            kind := .write }
      let inHbm (a : Nat) (bs : List Byte) : Prop :=
        (∀ j, j < n → t.hbmByte pt.keyId (a + j) = bs.getD j 0)
        ∧ (∀ y, y < a ∨ a + n ≤ y → t.hbmByte pt.keyId y = s.hbmByte pt.keyId y)
        ∧ t.sram = s.sram ∧ t.modMem = s.modMem ∧ t.hostMem = s.hostMem
      (∀ a tier k u, s.freed.checkAccess g.coreN g req = (.ok (.hbm a) tier k, u) → exec (.stg w) s = .next t →
        inHbm a (data .stg))
      ∧ (∀ a, s.checkScratch g (off .stp) n n = .ok a → exec (.stp w) s = .next t →
        (∀ j, j < n → t.sramByte (a + j) = (data .stp).getD j 0)
        ∧ (∀ y, y < a ∨ a + n ≤ y → t.sramByte y = s.sramByte y)
        ∧ t.hbm = s.hbm ∧ t.modMem = s.modMem ∧ t.hostMem = s.hostMem)
      ∧ (∀ a, checkLocal pt g th (off .stl) n = .ok a → exec (.stl w) s = .next t → inHbm a (data .stl))

/-- Every form of the queue words, of the module reductions and of the words that post work completes where its rule says
that it executes (R200, R201, R345-R349): the group stands at its next word. `MQPUSH` without wait completes when its
operation has entered the stream; with wait, and `MQPOP`, when the answer is there; each `MRED` when its operations have
entered the stream; `TASK`, `TGRAPH` and `TGRAPH.resume` when the list is linked or the graph runs. A sleeping `MQPOP`
retries when its header line has been back-invalidated (a time of 0) or after 1,024 cycles. -/
def Obligations.QueueReductionAndPostingFormsComplete : Prop :=
  (∀ (s : State) (gid : Nat) (g : Group) (b : BitVec 5) (slot : BitVec 3), StemReady s gid g →
      let completes (i : Instr) (h : Group) : Prop :=
        ∃ t, exec i s = .next t ∧ SMap.find? t.groups gid = some (h.stemDone s.cycle)
      (g.wait = .none → QueueReady s gid g (g.areg b.toNat) slot.toNat true → completes (.mqpush b slot false) g)
      ∧ (∀ ok x, g.wait = .mqDone ok x → completes (.mqpush b slot true) (g.setA (b.toNat + 2) x))
      ∧ (∀ wait x, g.wait = .mqDone true x → completes (.mqpop b slot wait) ((g.setA b.toNat 1).setA (b.toNat + 1) x))
      ∧ (∀ x, g.wait = .mqDone false x → completes (.mqpop b slot false) ((g.setA b.toNat 0).setA (b.toNat + 1) 0))
      ∧ (g.wait = .none → ∀ wait, QueueReady s gid g (g.areg b.toNat) slot.toNat false →
          ∃ t h q, exec (.mqpop b slot wait) s = .next t ∧ SMap.find? t.groups gid = some h
            ∧ h.wait = .mq ((s.slotStream g slot.toNat).getD 0) q ∧ h.pc = g.pc)
      ∧ (ReductionReady s gid g b.toNat slot.toNat 4 → completes (.mredFadd b slot) g)
      ∧ (ReductionReady s gid g b.toNat slot.toNat 2 → completes (.mredBfadd b slot) g)
      ∧ (ReductionReady s gid g b.toNat slot.toNat 4 → completes (.mredIadd b slot) g)
      ∧ (ReductionReady s gid g b.toNat slot.toNat 4 → completes (.mredFmax b slot) g)
      ∧ (ReductionReady s gid g b.toNat slot.toNat 4 → completes (.mredFmin b slot) g))
  ∧ ((∀ (s : State) (gid : Nat) (g : Group) (c m l : Nat), SMap.find? s.groups gid = some g → g.wait = .mqSleep c m l →
        (c = 0 ∨ c + 1024 ≤ s.cycle) →
        exec (.mqpopRetry gid) s = .next (s.putGroup gid { g with wait := .woken }))
    ∧ (∀ (s u v : State) (gid : Nat) (g : Group) (b : BitVec 5) (a a' tr tr' : Nat) (k k' : Desc) (old : Word) (ts : Time),
        StemReady s gid g → s.postReady gid g = true →
        let h := g.synced s.cycle
        let own := (s.posting gid g).rcbOf h
        let r := if g.areg b.toNat = 0 then own else g.areg b.toNat
        let d := g.areg (b.toNat + 1)
        (s.posting gid g).checkAccess g.coreN h (structReq r 256 256 true) = (.ok (.hbm a) tr k, u) →
        (u.chain g.part r).any (fun y => samePtr y own) = true →
        u.checkAccess g.coreN h (structReq d 256 256 false) = (.ok (.hbm a') tr' k', v) →
        (v.linkTask g.part r d (v.pts g.coreN)).1 = .ok (old, ts) →
        ∃ t, exec (.task b) s = .next t
          ∧ SMap.find? t.groups gid = some (((g.posting s.cycle).setA b.toNat old).stemDone s.cycle))
    ∧ ∀ (s u v : State) (gid : Nat) (g : Group) (b : BitVec 5) (a a' tr tr' : Nat) (k k' : Desc) (p : Part),
        StemReady s gid g → s.postReady gid g = true → SMap.find? s.parts g.part = some p →
        let h := g.synced s.cycle
        let own := (s.posting gid g).rcbOf h
        let x := g.areg b.toNat
        let r := if g.areg (b.toNat + 1) = 0 then own else g.areg (b.toNat + 1)
        (s.posting gid g).checkAccess g.coreN h (structReq x 64 64 true) = (.ok (.hbm a) tr k, u) →
        u.checkAccess g.coreN h (structReq r 256 256 true) = (.ok (.hbm a') tr' k', v) →
        (v.chain g.part r).any (fun y => samePtr y own) = true →
        let w : Graph := { part := g.part, rcb := r, ptr := x, nodes := 0, ts := 0, order := 0 }
        let gr : Graph := { w with nodes := Nat.min 1024 (bits (v.graphWord w 0) 0 16) }
        let room := k.size - ptrOff x
        v.missIn h p (ptrObj x) k (ptrOff x) (Nat.min room (nodeOff gr.nodes)) = none →
        v.missIn h p (ptrObj x) k (ptrOff x) (Nat.min room (v.graphSize gr)) = none →
        let w0 := v.devTouchSpan g.part x (Nat.min room (v.graphSize gr))
        w0.graphValid gr room = true →
        let st := bits (w0.graphWord gr 0x18) 0 8
        let completes (i : Instr) : Prop :=
          ∃ t, exec i s = .next t ∧ SMap.find? t.groups gid = some ((g.posting s.cycle).stemDone s.cycle)
        (st = 0 ∨ st = 2 ∨ st = 3 → completes (.tgraph b)) ∧ (st = 0 ∨ st = 2 ∨ st = 3 → completes (.tgraphResume b)))
end

