-- ==== Sys2Proof/Laws/Map.lean ====
section
/-! SUPPORT. Sparse maps: reads after writes, records after puts, and the canonical form kept by every operation. -/
namespace Sys2Proof.Machine

variable {β : Type}

@[simp] theorem SMap.get_nil (d : β) (a : Nat) : SMap.get d [] a = d := rfl
@[simp] theorem SMap.find?_nil (a : Nat) : SMap.find? ([] : SMap β) a = none := rfl
@[simp] theorem SMap.erase_nil (a : Nat) : SMap.erase ([] : SMap β) a = [] := rfl

/-! ## Reads after erasures and insertions -/

theorem SMap.find?_erase (m : SMap β) (a b : Nat) :
    SMap.find? (SMap.erase m a) b = if a = b then none else SMap.find? m b := by
  induction m with
  | nil => simp
  | cons e m ih =>
    obtain ⟨k, v⟩ := e
    by_cases h : k = a
    · subst h; simp only [SMap.erase, if_true, ih, SMap.find?]; split <;> rfl
    · simp only [SMap.erase, h, if_false, SMap.find?, ih]
      by_cases h2 : k = b
      · subst h2; simp [show ¬ a = k from fun x => h x.symm]
      · simp [h2]

theorem SMap.find?_insert (m : SMap β) (a b : Nat) (x : β) (h : SMap.find? m a = none) :
    SMap.find? (SMap.insert m a x) b = if a = b then some x else SMap.find? m b := by
  induction m with
  | nil => simp [SMap.insert, SMap.find?]
  | cons e m ih =>
    obtain ⟨k, v⟩ := e
    simp only [SMap.find?] at h
    split at h
    · exact absurd h (by simp)
    · rename_i hk
      by_cases h1 : a < k
      · simp [SMap.insert, h1, SMap.find?]
      · simp only [SMap.insert, h1, if_false, SMap.find?, ih h]
        by_cases h2 : k = b
        · subst h2; simp [show ¬ a = k from fun x => hk x.symm]
        · simp [h2]

/-- A record put under a key is found there, and every other key finds what it found. -/
theorem SMap.find?_put (m : SMap β) (a b : Nat) (x : β) :
    SMap.find? (SMap.put m a x) b = if a = b then some x else SMap.find? m b := by
  rw [SMap.put, SMap.find?_insert _ _ _ _ (by simp [SMap.find?_erase]), SMap.find?_erase]; split <;> rfl

@[simp] theorem SMap.find?_put_self (m : SMap β) (a : Nat) (x : β) : SMap.find? (SMap.put m a x) a = some x := by
  simp [SMap.find?_put]

theorem SMap.find?_mod (m : SMap β) (a b : Nat) (f : β → β) :
    SMap.find? (SMap.mod m a f) b = if a = b then (SMap.find? m a).map f else SMap.find? m b := by
  unfold SMap.mod
  split
  · rename_i v hv; simp only [SMap.find?_put, hv]; split <;> rfl
  · rename_i hv; split
    · rename_i hab; subst hab; simp [hv]
    · rfl

theorem SMap.erase_erase (m : SMap β) (a : Nat) : SMap.erase (SMap.erase m a) a = SMap.erase m a := by
  induction m with
  | nil => rfl
  | cons e m ih =>
    obtain ⟨k, v⟩ := e
    by_cases h : k = a <;> simp [SMap.erase, h, ih]

theorem SMap.erase_insert (m : SMap β) (a : Nat) (x : β) : SMap.erase (SMap.insert m a x) a = SMap.erase m a := by
  induction m with
  | nil => simp [SMap.insert, SMap.erase]
  | cons e m ih =>
    obtain ⟨k, v⟩ := e
    by_cases h1 : a < k
    · simp [SMap.insert, h1, SMap.erase]
    · by_cases h : k = a <;> simp [SMap.insert, h1, SMap.erase, h, ih]

/-- The second of two puts under one key is what is left. -/
@[simp] theorem SMap.put_put (m : SMap β) (a : Nat) (x y : β) :
    SMap.put (SMap.put m a x) a y = SMap.put m a y := by
  simp [SMap.put, SMap.erase_insert, SMap.erase_erase]

/-- A change of a record that was just put. -/
@[simp] theorem SMap.mod_put (m : SMap β) (a : Nat) (x : β) (f : β → β) :
    SMap.mod (SMap.put m a x) a f = SMap.put m a (f x) := by
  simp [SMap.mod]

theorem SMap.mod_of_find {m : SMap β} {a : Nat} {x : β} (h : SMap.find? m a = some x) (f : β → β) :
    SMap.mod m a f = SMap.put m a (f x) := by
  simp [SMap.mod, h]

/-! ## Values -/

theorem SMap.get_eq_find? (d : β) (m : SMap β) (a : Nat) : SMap.get d m a = (SMap.find? m a).getD d := by
  induction m with
  | nil => rfl
  | cons e m ih => obtain ⟨k, v⟩ := e; simp only [SMap.get, SMap.find?]; split <;> simp_all

/-- A value read after a write (R4): at the address written the value, elsewhere what was there. -/
theorem SMap.get_set [DecidableEq β] (d : β) (m : SMap β) (a b : Nat) (x : β) :
    SMap.get d (SMap.set d m a x) b = if a = b then x else SMap.get d m b := by
  unfold SMap.set
  split
  · rename_i hx; subst hx; simp only [SMap.get_eq_find?, SMap.find?_erase]; split <;> simp
  · simp only [SMap.get_eq_find?]
    rw [SMap.find?_insert _ _ _ _ (by simp [SMap.find?_erase]), SMap.find?_erase]; split <;> simp

@[simp] theorem SMap.get_set_self [DecidableEq β] (d : β) (m : SMap β) (a : Nat) (x : β) :
    SMap.get d (SMap.set d m a x) a = x := by simp [SMap.get_set]

theorem SMap.get_set_ne [DecidableEq β] (d : β) (m : SMap β) {a b : Nat} (x : β) (h : a ≠ b) :
    SMap.get d (SMap.set d m a x) b = SMap.get d m b := by simp [SMap.get_set, h]

/-! ## The canonical form -/

theorem SMap.sortedFrom_mono {lo lo' : Option Nat} {m : SMap β} (h : SMap.sortedFrom lo m = true)
    (hl : ∀ x, lo' = some x → ∃ y, lo = some y ∧ x ≤ y) : SMap.sortedFrom lo' m = true := by
  cases m with
  | nil => cases lo' <;> rfl
  | cons e m =>
    obtain ⟨k, v⟩ := e
    cases lo' with
    | none =>
      cases lo with
      | none => exact h
      | some y => simp only [SMap.sortedFrom, Bool.and_eq_true, decide_eq_true_eq] at h ⊢; exact h.2
    | some x =>
      obtain ⟨y, rfl, hxy⟩ := hl x rfl
      simp only [SMap.sortedFrom, Bool.and_eq_true, decide_eq_true_eq] at h ⊢
      exact ⟨by omega, h.2⟩

theorem SMap.sortedFrom_filter (p : Nat × β → Bool) (lo : Option Nat) (m : SMap β) (h : SMap.sortedFrom lo m = true) :
    SMap.sortedFrom lo (m.filter p) = true := by
  induction m generalizing lo with
  | nil => simpa using h
  | cons e m ih =>
    obtain ⟨k, v⟩ := e
    have hk : SMap.sortedFrom (some k) m = true := by
      cases lo with
      | none => exact h
      | some y => simp only [SMap.sortedFrom, Bool.and_eq_true] at h; exact h.2
    by_cases hp : p (k, v) = true
    · rw [List.filter_cons_of_pos hp]
      cases lo with
      | none => exact ih _ hk
      | some y =>
        simp only [SMap.sortedFrom, Bool.and_eq_true] at h ⊢
        exact ⟨h.1, ih _ hk⟩
    · rw [List.filter_cons_of_neg hp]
      refine SMap.sortedFrom_mono (ih _ hk) ?_
      intro x hx; subst hx
      simp only [SMap.sortedFrom, Bool.and_eq_true, decide_eq_true_eq] at h
      exact ⟨k, rfl, by omega⟩

theorem SMap.erase_eq_filter (m : SMap β) (a : Nat) : SMap.erase m a = m.filter (fun e => decide (e.1 ≠ a)) := by
  induction m with
  | nil => rfl
  | cons e m ih =>
    obtain ⟨k, v⟩ := e
    by_cases h : k = a <;> simp [SMap.erase, h, ih]

theorem SMap.sortedFrom_insert (lo : Option Nat) (m : SMap β) (a : Nat) (x : β) (h : SMap.sortedFrom lo m = true)
    (hl : ∀ y, lo = some y → y < a) (ha : ∀ e ∈ m, e.1 ≠ a) : SMap.sortedFrom lo (SMap.insert m a x) = true := by
  induction m generalizing lo with
  | nil => cases lo with
    | none => rfl
    | some y => simp [SMap.insert, SMap.sortedFrom, hl y rfl]
  | cons e m ih =>
    obtain ⟨k, v⟩ := e
    have hk : SMap.sortedFrom (some k) m = true := by
      cases lo with
      | none => exact h
      | some y => simp only [SMap.sortedFrom, Bool.and_eq_true] at h; exact h.2
    by_cases h1 : a < k
    · simp only [SMap.insert, h1, if_true]
      cases lo with
      | none => simp [SMap.sortedFrom, h1, hk]
      | some y => simp [SMap.sortedFrom, h1, hk, hl y rfl]
    · have hne : k ≠ a := ha (k, v) (by simp)
      simp only [SMap.insert, h1, if_false]
      have hr := ih (some k) hk (by intro y hy; cases hy; omega) (fun e he => ha e (by simp [he]))
      cases lo with
      | none => simpa [SMap.sortedFrom] using hr
      | some y =>
        simp only [SMap.sortedFrom, Bool.and_eq_true] at h ⊢
        exact ⟨h.1, hr⟩

theorem SMap.mem_insert {m : SMap β} {a : Nat} {x : β} {e : Nat × β} (h : e ∈ SMap.insert m a x) : e = (a, x) ∨ e ∈ m := by
  induction m with
  | nil => simpa [SMap.insert] using h
  | cons f m ih =>
    obtain ⟨k, v⟩ := f
    by_cases h1 : a < k
    · simpa [SMap.insert, h1] using h
    · simp only [SMap.insert, h1, if_false, List.mem_cons] at h ⊢
      rcases h with h | h
      · exact .inr (.inl h)
      · rcases ih h with h | h
        · exact .inl h
        · exact .inr (.inr h)

/-- Dropping entries keeps the canonical form. -/
theorem SMap.wf_filter [DecidableEq β] {d : β} {m : SMap β} (p : Nat × β → Bool) (h : SMap.wf d m = true) :
    SMap.wf d (m.filter p) = true := by
  simp only [SMap.wf, Bool.and_eq_true, List.all_eq_true] at h ⊢
  exact ⟨SMap.sortedFrom_filter p _ _ h.1, fun e he => h.2 e (List.mem_filter.mp he).1⟩

/-- A write keeps the canonical form. -/
theorem SMap.wf_set [DecidableEq β] {d : β} {m : SMap β} (a : Nat) (x : β) (h : SMap.wf d m = true) :
    SMap.wf d (SMap.set d m a x) = true := by
  have he : SMap.wf d (SMap.erase m a) = true := by rw [SMap.erase_eq_filter]; exact SMap.wf_filter _ h
  unfold SMap.set
  split
  · exact he
  · rename_i hx
    simp only [SMap.wf, Bool.and_eq_true, List.all_eq_true, decide_eq_true_eq] at he ⊢
    refine ⟨SMap.sortedFrom_insert _ _ _ _ he.1 (by simp) ?_, ?_⟩
    · intro e hm; rw [SMap.erase_eq_filter] at hm; simpa using (List.mem_filter.mp hm).2
    · intro e hm
      rcases SMap.mem_insert hm with h | h
      · subst h; exact hx
      · exact he.2 e h

/-- Writes one after another keep the canonical form. -/
theorem SMap.wf_foldl_set [DecidableEq β] {γ : Type} {d : β} (l : List γ) (k : γ → Nat) (v : γ → β) (m : SMap β)
    (h : SMap.wf d m = true) : SMap.wf d (l.foldl (fun m w => SMap.set d m (k w) (v w)) m) = true := by
  induction l generalizing m with
  | nil => exact h
  | cons w l ih => exact ih _ (SMap.wf_set _ _ h)

/-- What a row of writes leaves at an address that none of them names. -/
theorem SMap.get_foldl_set_ne [DecidableEq β] {γ : Type} {d : β} (l : List γ) (k : γ → Nat) (v : γ → β) (m : SMap β)
    (a : Nat) (h : ∀ w ∈ l, k w ≠ a) :
    SMap.get d (l.foldl (fun m w => SMap.set d m (k w) (v w)) m) a = SMap.get d m a := by
  induction l generalizing m with
  | nil => rfl
  | cons w l ih =>
    rw [List.foldl_cons, ih _ (fun w' hw => h w' (by simp [hw])), SMap.get_set_ne _ _ _ (h w (by simp))]

end Sys2Proof.Machine
end

