-- ==== Sys2Proof/Laws/State.lean ====
section
/-! SUPPORT. One lemma for each field of the state and each named update: what the update changes and what it leaves. -/
namespace Sys2Proof.Machine

/-! `State.modGroup` -/

@[simp] theorem State.modGroup_cycle (s : State) (g : Nat) (f : Group → Group) : (s.modGroup g f).cycle = s.cycle := rfl
@[simp] theorem State.modGroup_cur (s : State) (g : Nat) (f : Group → Group) : (s.modGroup g f).cur = s.cur := rfl
@[simp] theorem State.modGroup_schedule (s : State) (g : Nat) (f : Group → Group) : (s.modGroup g f).schedule = s.schedule := rfl
@[simp] theorem State.modGroup_fresh (s : State) (g : Nat) (f : Group → Group) : (s.modGroup g f).fresh = s.fresh := rfl
@[simp] theorem State.modGroup_nextId (s : State) (g : Nat) (f : Group → Group) : (s.modGroup g f).nextId = s.nextId := rfl
@[simp] theorem State.modGroup_hbm (s : State) (g : Nat) (f : Group → Group) : (s.modGroup g f).hbm = s.hbm := rfl
@[simp] theorem State.modGroup_hbmTag (s : State) (g : Nat) (f : Group → Group) : (s.modGroup g f).hbmTag = s.hbmTag := rfl
@[simp] theorem State.modGroup_noise (s : State) (g : Nat) (f : Group → Group) : (s.modGroup g f).noise = s.noise := rfl
@[simp] theorem State.modGroup_poison (s : State) (g : Nat) (f : Group → Group) : (s.modGroup g f).poison = s.poison := rfl
@[simp] theorem State.modGroup_hostMem (s : State) (g : Nat) (f : Group → Group) : (s.modGroup g f).hostMem = s.hostMem := rfl
@[simp] theorem State.modGroup_modMem (s : State) (g : Nat) (f : Group → Group) : (s.modGroup g f).modMem = s.modMem := rfl
@[simp] theorem State.modGroup_modTag (s : State) (g : Nat) (f : Group → Group) : (s.modGroup g f).modTag = s.modTag := rfl
@[simp] theorem State.modGroup_modPoison (s : State) (g : Nat) (f : Group → Group) : (s.modGroup g f).modPoison = s.modPoison := rfl
@[simp] theorem State.modGroup_podCopies (s : State) (g : Nat) (f : Group → Group) : (s.modGroup g f).podCopies = s.podCopies := rfl
@[simp] theorem State.modGroup_sram (s : State) (g : Nat) (f : Group → Group) : (s.modGroup g f).sram = s.sram := rfl
@[simp] theorem State.modGroup_sramTag (s : State) (g : Nat) (f : Group → Group) : (s.modGroup g f).sramTag = s.sramTag := rfl
@[simp] theorem State.modGroup_sramPoison (s : State) (g : Nat) (f : Group → Group) : (s.modGroup g f).sramPoison = s.sramPoison := rfl
@[simp] theorem State.modGroup_lines (s : State) (g : Nat) (f : Group → Group) : (s.modGroup g f).lines = s.lines := rfl
@[simp] theorem State.modGroup_lineFloor (s : State) (g : Nat) (f : Group → Group) : (s.modGroup g f).lineFloor = s.lineFloor := rfl
@[simp] theorem State.modGroup_cores (s : State) (g : Nat) (f : Group → Group) : (s.modGroup g f).cores = s.cores := rfl
@[simp] theorem State.modGroup_groves (s : State) (g : Nat) (f : Group → Group) : (s.modGroup g f).groves = s.groves := rfl
@[simp] theorem State.modGroup_dies (s : State) (g : Nat) (f : Group → Group) : (s.modGroup g f).dies = s.dies := rfl
@[simp] theorem State.modGroup_parts (s : State) (g : Nat) (f : Group → Group) : (s.modGroup g f).parts = s.parts := rfl
@[simp] theorem State.modGroup_tasks (s : State) (g : Nat) (f : Group → Group) : (s.modGroup g f).tasks = s.tasks := rfl
@[simp] theorem State.modGroup_clusters (s : State) (g : Nat) (f : Group → Group) : (s.modGroup g f).clusters = s.clusters := rfl
@[simp] theorem State.modGroup_groups (s : State) (g : Nat) (f : Group → Group) : (s.modGroup g f).groups = SMap.mod s.groups g f := rfl
@[simp] theorem State.modGroup_streams (s : State) (g : Nat) (f : Group → Group) : (s.modGroup g f).streams = s.streams := rfl
@[simp] theorem State.modGroup_heads (s : State) (g : Nat) (f : Group → Group) : (s.modGroup g f).heads = s.heads := rfl
@[simp] theorem State.modGroup_graphs (s : State) (g : Nat) (f : Group → Group) : (s.modGroup g f).graphs = s.graphs := rfl
@[simp] theorem State.modGroup_roots (s : State) (g : Nat) (f : Group → Group) : (s.modGroup g f).roots = s.roots := rfl
@[simp] theorem State.modGroup_hbmCtl (s : State) (g : Nat) (f : Group → Group) : (s.modGroup g f).hbmCtl = s.hbmCtl := rfl
@[simp] theorem State.modGroup_migrations (s : State) (g : Nat) (f : Group → Group) : (s.modGroup g f).migrations = s.migrations := rfl
@[simp] theorem State.modGroup_resvs (s : State) (g : Nat) (f : Group → Group) : (s.modGroup g f).resvs = s.resvs := rfl
@[simp] theorem State.modGroup_budsOut (s : State) (g : Nat) (f : Group → Group) : (s.modGroup g f).budsOut = s.budsOut := rfl
@[simp] theorem State.modGroup_returns (s : State) (g : Nat) (f : Group → Group) : (s.modGroup g f).returns = s.returns := rfl
@[simp] theorem State.modGroup_closes (s : State) (g : Nat) (f : Group → Group) : (s.modGroup g f).closes = s.closes := rfl
@[simp] theorem State.modGroup_crown (s : State) (g : Nat) (f : Group → Group) : (s.modGroup g f).crown = s.crown := rfl

/-! `State.putGroup` -/

@[simp] theorem State.putGroup_cycle (s : State) (n : Nat) (g : Group) : (s.putGroup n g).cycle = s.cycle := rfl
@[simp] theorem State.putGroup_cur (s : State) (n : Nat) (g : Group) : (s.putGroup n g).cur = s.cur := rfl
@[simp] theorem State.putGroup_schedule (s : State) (n : Nat) (g : Group) : (s.putGroup n g).schedule = s.schedule := rfl
@[simp] theorem State.putGroup_fresh (s : State) (n : Nat) (g : Group) : (s.putGroup n g).fresh = s.fresh := rfl
@[simp] theorem State.putGroup_nextId (s : State) (n : Nat) (g : Group) : (s.putGroup n g).nextId = s.nextId := rfl
@[simp] theorem State.putGroup_hbm (s : State) (n : Nat) (g : Group) : (s.putGroup n g).hbm = s.hbm := rfl
@[simp] theorem State.putGroup_hbmTag (s : State) (n : Nat) (g : Group) : (s.putGroup n g).hbmTag = s.hbmTag := rfl
@[simp] theorem State.putGroup_noise (s : State) (n : Nat) (g : Group) : (s.putGroup n g).noise = s.noise := rfl
@[simp] theorem State.putGroup_poison (s : State) (n : Nat) (g : Group) : (s.putGroup n g).poison = s.poison := rfl
@[simp] theorem State.putGroup_hostMem (s : State) (n : Nat) (g : Group) : (s.putGroup n g).hostMem = s.hostMem := rfl
@[simp] theorem State.putGroup_modMem (s : State) (n : Nat) (g : Group) : (s.putGroup n g).modMem = s.modMem := rfl
@[simp] theorem State.putGroup_modTag (s : State) (n : Nat) (g : Group) : (s.putGroup n g).modTag = s.modTag := rfl
@[simp] theorem State.putGroup_modPoison (s : State) (n : Nat) (g : Group) : (s.putGroup n g).modPoison = s.modPoison := rfl
@[simp] theorem State.putGroup_podCopies (s : State) (n : Nat) (g : Group) : (s.putGroup n g).podCopies = s.podCopies := rfl
@[simp] theorem State.putGroup_sram (s : State) (n : Nat) (g : Group) : (s.putGroup n g).sram = s.sram := rfl
@[simp] theorem State.putGroup_sramTag (s : State) (n : Nat) (g : Group) : (s.putGroup n g).sramTag = s.sramTag := rfl
@[simp] theorem State.putGroup_sramPoison (s : State) (n : Nat) (g : Group) : (s.putGroup n g).sramPoison = s.sramPoison := rfl
@[simp] theorem State.putGroup_lines (s : State) (n : Nat) (g : Group) : (s.putGroup n g).lines = s.lines := rfl
@[simp] theorem State.putGroup_lineFloor (s : State) (n : Nat) (g : Group) : (s.putGroup n g).lineFloor = s.lineFloor := rfl
@[simp] theorem State.putGroup_cores (s : State) (n : Nat) (g : Group) : (s.putGroup n g).cores = s.cores := rfl
@[simp] theorem State.putGroup_groves (s : State) (n : Nat) (g : Group) : (s.putGroup n g).groves = s.groves := rfl
@[simp] theorem State.putGroup_dies (s : State) (n : Nat) (g : Group) : (s.putGroup n g).dies = s.dies := rfl
@[simp] theorem State.putGroup_parts (s : State) (n : Nat) (g : Group) : (s.putGroup n g).parts = s.parts := rfl
@[simp] theorem State.putGroup_tasks (s : State) (n : Nat) (g : Group) : (s.putGroup n g).tasks = s.tasks := rfl
@[simp] theorem State.putGroup_clusters (s : State) (n : Nat) (g : Group) : (s.putGroup n g).clusters = s.clusters := rfl
@[simp] theorem State.putGroup_groups (s : State) (n : Nat) (g : Group) : (s.putGroup n g).groups = SMap.put s.groups n g := rfl
@[simp] theorem State.putGroup_streams (s : State) (n : Nat) (g : Group) : (s.putGroup n g).streams = s.streams := rfl
@[simp] theorem State.putGroup_heads (s : State) (n : Nat) (g : Group) : (s.putGroup n g).heads = s.heads := rfl
@[simp] theorem State.putGroup_graphs (s : State) (n : Nat) (g : Group) : (s.putGroup n g).graphs = s.graphs := rfl
@[simp] theorem State.putGroup_roots (s : State) (n : Nat) (g : Group) : (s.putGroup n g).roots = s.roots := rfl
@[simp] theorem State.putGroup_hbmCtl (s : State) (n : Nat) (g : Group) : (s.putGroup n g).hbmCtl = s.hbmCtl := rfl
@[simp] theorem State.putGroup_migrations (s : State) (n : Nat) (g : Group) : (s.putGroup n g).migrations = s.migrations := rfl
@[simp] theorem State.putGroup_resvs (s : State) (n : Nat) (g : Group) : (s.putGroup n g).resvs = s.resvs := rfl
@[simp] theorem State.putGroup_budsOut (s : State) (n : Nat) (g : Group) : (s.putGroup n g).budsOut = s.budsOut := rfl
@[simp] theorem State.putGroup_returns (s : State) (n : Nat) (g : Group) : (s.putGroup n g).returns = s.returns := rfl
@[simp] theorem State.putGroup_closes (s : State) (n : Nat) (g : Group) : (s.putGroup n g).closes = s.closes := rfl
@[simp] theorem State.putGroup_crown (s : State) (n : Nat) (g : Group) : (s.putGroup n g).crown = s.crown := rfl

/-! `State.putCore` -/

@[simp] theorem State.putCore_cycle (s : State) (c : Nat) (x : Core) : (s.putCore c x).cycle = s.cycle := rfl
@[simp] theorem State.putCore_cur (s : State) (c : Nat) (x : Core) : (s.putCore c x).cur = s.cur := rfl
@[simp] theorem State.putCore_schedule (s : State) (c : Nat) (x : Core) : (s.putCore c x).schedule = s.schedule := rfl
@[simp] theorem State.putCore_fresh (s : State) (c : Nat) (x : Core) : (s.putCore c x).fresh = s.fresh := rfl
@[simp] theorem State.putCore_nextId (s : State) (c : Nat) (x : Core) : (s.putCore c x).nextId = s.nextId := rfl
@[simp] theorem State.putCore_hbm (s : State) (c : Nat) (x : Core) : (s.putCore c x).hbm = s.hbm := rfl
@[simp] theorem State.putCore_hbmTag (s : State) (c : Nat) (x : Core) : (s.putCore c x).hbmTag = s.hbmTag := rfl
@[simp] theorem State.putCore_noise (s : State) (c : Nat) (x : Core) : (s.putCore c x).noise = s.noise := rfl
@[simp] theorem State.putCore_poison (s : State) (c : Nat) (x : Core) : (s.putCore c x).poison = s.poison := rfl
@[simp] theorem State.putCore_hostMem (s : State) (c : Nat) (x : Core) : (s.putCore c x).hostMem = s.hostMem := rfl
@[simp] theorem State.putCore_modMem (s : State) (c : Nat) (x : Core) : (s.putCore c x).modMem = s.modMem := rfl
@[simp] theorem State.putCore_modTag (s : State) (c : Nat) (x : Core) : (s.putCore c x).modTag = s.modTag := rfl
@[simp] theorem State.putCore_modPoison (s : State) (c : Nat) (x : Core) : (s.putCore c x).modPoison = s.modPoison := rfl
@[simp] theorem State.putCore_podCopies (s : State) (c : Nat) (x : Core) : (s.putCore c x).podCopies = s.podCopies := rfl
@[simp] theorem State.putCore_sram (s : State) (c : Nat) (x : Core) : (s.putCore c x).sram = s.sram := rfl
@[simp] theorem State.putCore_sramTag (s : State) (c : Nat) (x : Core) : (s.putCore c x).sramTag = s.sramTag := rfl
@[simp] theorem State.putCore_sramPoison (s : State) (c : Nat) (x : Core) : (s.putCore c x).sramPoison = s.sramPoison := rfl
@[simp] theorem State.putCore_lines (s : State) (c : Nat) (x : Core) : (s.putCore c x).lines = s.lines := rfl
@[simp] theorem State.putCore_lineFloor (s : State) (c : Nat) (x : Core) : (s.putCore c x).lineFloor = s.lineFloor := rfl
@[simp] theorem State.putCore_cores (s : State) (c : Nat) (x : Core) : (s.putCore c x).cores = SMap.put s.cores c x := rfl
@[simp] theorem State.putCore_groves (s : State) (c : Nat) (x : Core) : (s.putCore c x).groves = s.groves := rfl
@[simp] theorem State.putCore_dies (s : State) (c : Nat) (x : Core) : (s.putCore c x).dies = s.dies := rfl
@[simp] theorem State.putCore_parts (s : State) (c : Nat) (x : Core) : (s.putCore c x).parts = s.parts := rfl
@[simp] theorem State.putCore_tasks (s : State) (c : Nat) (x : Core) : (s.putCore c x).tasks = s.tasks := rfl
@[simp] theorem State.putCore_clusters (s : State) (c : Nat) (x : Core) : (s.putCore c x).clusters = s.clusters := rfl
@[simp] theorem State.putCore_groups (s : State) (c : Nat) (x : Core) : (s.putCore c x).groups = s.groups := rfl
@[simp] theorem State.putCore_streams (s : State) (c : Nat) (x : Core) : (s.putCore c x).streams = s.streams := rfl
@[simp] theorem State.putCore_heads (s : State) (c : Nat) (x : Core) : (s.putCore c x).heads = s.heads := rfl
@[simp] theorem State.putCore_graphs (s : State) (c : Nat) (x : Core) : (s.putCore c x).graphs = s.graphs := rfl
@[simp] theorem State.putCore_roots (s : State) (c : Nat) (x : Core) : (s.putCore c x).roots = s.roots := rfl
@[simp] theorem State.putCore_hbmCtl (s : State) (c : Nat) (x : Core) : (s.putCore c x).hbmCtl = s.hbmCtl := rfl
@[simp] theorem State.putCore_migrations (s : State) (c : Nat) (x : Core) : (s.putCore c x).migrations = s.migrations := rfl
@[simp] theorem State.putCore_resvs (s : State) (c : Nat) (x : Core) : (s.putCore c x).resvs = s.resvs := rfl
@[simp] theorem State.putCore_budsOut (s : State) (c : Nat) (x : Core) : (s.putCore c x).budsOut = s.budsOut := rfl
@[simp] theorem State.putCore_returns (s : State) (c : Nat) (x : Core) : (s.putCore c x).returns = s.returns := rfl
@[simp] theorem State.putCore_closes (s : State) (c : Nat) (x : Core) : (s.putCore c x).closes = s.closes := rfl
@[simp] theorem State.putCore_crown (s : State) (c : Nat) (x : Core) : (s.putCore c x).crown = s.crown := rfl

/-! `State.modCore` -/

@[simp] theorem State.modCore_cycle (s : State) (c : Nat) (f : Core → Core) : (s.modCore c f).cycle = s.cycle := rfl
@[simp] theorem State.modCore_cur (s : State) (c : Nat) (f : Core → Core) : (s.modCore c f).cur = s.cur := rfl
@[simp] theorem State.modCore_schedule (s : State) (c : Nat) (f : Core → Core) : (s.modCore c f).schedule = s.schedule := rfl
@[simp] theorem State.modCore_fresh (s : State) (c : Nat) (f : Core → Core) : (s.modCore c f).fresh = s.fresh := rfl
@[simp] theorem State.modCore_nextId (s : State) (c : Nat) (f : Core → Core) : (s.modCore c f).nextId = s.nextId := rfl
@[simp] theorem State.modCore_hbm (s : State) (c : Nat) (f : Core → Core) : (s.modCore c f).hbm = s.hbm := rfl
@[simp] theorem State.modCore_hbmTag (s : State) (c : Nat) (f : Core → Core) : (s.modCore c f).hbmTag = s.hbmTag := rfl
@[simp] theorem State.modCore_noise (s : State) (c : Nat) (f : Core → Core) : (s.modCore c f).noise = s.noise := rfl
@[simp] theorem State.modCore_poison (s : State) (c : Nat) (f : Core → Core) : (s.modCore c f).poison = s.poison := rfl
@[simp] theorem State.modCore_hostMem (s : State) (c : Nat) (f : Core → Core) : (s.modCore c f).hostMem = s.hostMem := rfl
@[simp] theorem State.modCore_modMem (s : State) (c : Nat) (f : Core → Core) : (s.modCore c f).modMem = s.modMem := rfl
@[simp] theorem State.modCore_modTag (s : State) (c : Nat) (f : Core → Core) : (s.modCore c f).modTag = s.modTag := rfl
@[simp] theorem State.modCore_modPoison (s : State) (c : Nat) (f : Core → Core) : (s.modCore c f).modPoison = s.modPoison := rfl
@[simp] theorem State.modCore_podCopies (s : State) (c : Nat) (f : Core → Core) : (s.modCore c f).podCopies = s.podCopies := rfl
@[simp] theorem State.modCore_sram (s : State) (c : Nat) (f : Core → Core) : (s.modCore c f).sram = s.sram := rfl
@[simp] theorem State.modCore_sramTag (s : State) (c : Nat) (f : Core → Core) : (s.modCore c f).sramTag = s.sramTag := rfl
@[simp] theorem State.modCore_sramPoison (s : State) (c : Nat) (f : Core → Core) : (s.modCore c f).sramPoison = s.sramPoison := rfl
@[simp] theorem State.modCore_lines (s : State) (c : Nat) (f : Core → Core) : (s.modCore c f).lines = s.lines := rfl
@[simp] theorem State.modCore_lineFloor (s : State) (c : Nat) (f : Core → Core) : (s.modCore c f).lineFloor = s.lineFloor := rfl
@[simp] theorem State.modCore_cores (s : State) (c : Nat) (f : Core → Core) : (s.modCore c f).cores = SMap.put s.cores c (f (s.core c)) := rfl
@[simp] theorem State.modCore_groves (s : State) (c : Nat) (f : Core → Core) : (s.modCore c f).groves = s.groves := rfl
@[simp] theorem State.modCore_dies (s : State) (c : Nat) (f : Core → Core) : (s.modCore c f).dies = s.dies := rfl
@[simp] theorem State.modCore_parts (s : State) (c : Nat) (f : Core → Core) : (s.modCore c f).parts = s.parts := rfl
@[simp] theorem State.modCore_tasks (s : State) (c : Nat) (f : Core → Core) : (s.modCore c f).tasks = s.tasks := rfl
@[simp] theorem State.modCore_clusters (s : State) (c : Nat) (f : Core → Core) : (s.modCore c f).clusters = s.clusters := rfl
@[simp] theorem State.modCore_groups (s : State) (c : Nat) (f : Core → Core) : (s.modCore c f).groups = s.groups := rfl
@[simp] theorem State.modCore_streams (s : State) (c : Nat) (f : Core → Core) : (s.modCore c f).streams = s.streams := rfl
@[simp] theorem State.modCore_heads (s : State) (c : Nat) (f : Core → Core) : (s.modCore c f).heads = s.heads := rfl
@[simp] theorem State.modCore_graphs (s : State) (c : Nat) (f : Core → Core) : (s.modCore c f).graphs = s.graphs := rfl
@[simp] theorem State.modCore_roots (s : State) (c : Nat) (f : Core → Core) : (s.modCore c f).roots = s.roots := rfl
@[simp] theorem State.modCore_hbmCtl (s : State) (c : Nat) (f : Core → Core) : (s.modCore c f).hbmCtl = s.hbmCtl := rfl
@[simp] theorem State.modCore_migrations (s : State) (c : Nat) (f : Core → Core) : (s.modCore c f).migrations = s.migrations := rfl
@[simp] theorem State.modCore_resvs (s : State) (c : Nat) (f : Core → Core) : (s.modCore c f).resvs = s.resvs := rfl
@[simp] theorem State.modCore_budsOut (s : State) (c : Nat) (f : Core → Core) : (s.modCore c f).budsOut = s.budsOut := rfl
@[simp] theorem State.modCore_returns (s : State) (c : Nat) (f : Core → Core) : (s.modCore c f).returns = s.returns := rfl
@[simp] theorem State.modCore_closes (s : State) (c : Nat) (f : Core → Core) : (s.modCore c f).closes = s.closes := rfl
@[simp] theorem State.modCore_crown (s : State) (c : Nat) (f : Core → Core) : (s.modCore c f).crown = s.crown := rfl

/-! `State.putGrove` -/

@[simp] theorem State.putGrove_cycle (s : State) (n : Nat) (x : Grove) : (s.putGrove n x).cycle = s.cycle := rfl
@[simp] theorem State.putGrove_cur (s : State) (n : Nat) (x : Grove) : (s.putGrove n x).cur = s.cur := rfl
@[simp] theorem State.putGrove_schedule (s : State) (n : Nat) (x : Grove) : (s.putGrove n x).schedule = s.schedule := rfl
@[simp] theorem State.putGrove_fresh (s : State) (n : Nat) (x : Grove) : (s.putGrove n x).fresh = s.fresh := rfl
@[simp] theorem State.putGrove_nextId (s : State) (n : Nat) (x : Grove) : (s.putGrove n x).nextId = s.nextId := rfl
@[simp] theorem State.putGrove_hbm (s : State) (n : Nat) (x : Grove) : (s.putGrove n x).hbm = s.hbm := rfl
@[simp] theorem State.putGrove_hbmTag (s : State) (n : Nat) (x : Grove) : (s.putGrove n x).hbmTag = s.hbmTag := rfl
@[simp] theorem State.putGrove_noise (s : State) (n : Nat) (x : Grove) : (s.putGrove n x).noise = s.noise := rfl
@[simp] theorem State.putGrove_poison (s : State) (n : Nat) (x : Grove) : (s.putGrove n x).poison = s.poison := rfl
@[simp] theorem State.putGrove_hostMem (s : State) (n : Nat) (x : Grove) : (s.putGrove n x).hostMem = s.hostMem := rfl
@[simp] theorem State.putGrove_modMem (s : State) (n : Nat) (x : Grove) : (s.putGrove n x).modMem = s.modMem := rfl
@[simp] theorem State.putGrove_modTag (s : State) (n : Nat) (x : Grove) : (s.putGrove n x).modTag = s.modTag := rfl
@[simp] theorem State.putGrove_modPoison (s : State) (n : Nat) (x : Grove) : (s.putGrove n x).modPoison = s.modPoison := rfl
@[simp] theorem State.putGrove_podCopies (s : State) (n : Nat) (x : Grove) : (s.putGrove n x).podCopies = s.podCopies := rfl
@[simp] theorem State.putGrove_sram (s : State) (n : Nat) (x : Grove) : (s.putGrove n x).sram = s.sram := rfl
@[simp] theorem State.putGrove_sramTag (s : State) (n : Nat) (x : Grove) : (s.putGrove n x).sramTag = s.sramTag := rfl
@[simp] theorem State.putGrove_sramPoison (s : State) (n : Nat) (x : Grove) : (s.putGrove n x).sramPoison = s.sramPoison := rfl
@[simp] theorem State.putGrove_lines (s : State) (n : Nat) (x : Grove) : (s.putGrove n x).lines = s.lines := rfl
@[simp] theorem State.putGrove_lineFloor (s : State) (n : Nat) (x : Grove) : (s.putGrove n x).lineFloor = s.lineFloor := rfl
@[simp] theorem State.putGrove_cores (s : State) (n : Nat) (x : Grove) : (s.putGrove n x).cores = s.cores := rfl
@[simp] theorem State.putGrove_groves (s : State) (n : Nat) (x : Grove) : (s.putGrove n x).groves = SMap.put s.groves n x := rfl
@[simp] theorem State.putGrove_dies (s : State) (n : Nat) (x : Grove) : (s.putGrove n x).dies = s.dies := rfl
@[simp] theorem State.putGrove_parts (s : State) (n : Nat) (x : Grove) : (s.putGrove n x).parts = s.parts := rfl
@[simp] theorem State.putGrove_tasks (s : State) (n : Nat) (x : Grove) : (s.putGrove n x).tasks = s.tasks := rfl
@[simp] theorem State.putGrove_clusters (s : State) (n : Nat) (x : Grove) : (s.putGrove n x).clusters = s.clusters := rfl
@[simp] theorem State.putGrove_groups (s : State) (n : Nat) (x : Grove) : (s.putGrove n x).groups = s.groups := rfl
@[simp] theorem State.putGrove_streams (s : State) (n : Nat) (x : Grove) : (s.putGrove n x).streams = s.streams := rfl
@[simp] theorem State.putGrove_heads (s : State) (n : Nat) (x : Grove) : (s.putGrove n x).heads = s.heads := rfl
@[simp] theorem State.putGrove_graphs (s : State) (n : Nat) (x : Grove) : (s.putGrove n x).graphs = s.graphs := rfl
@[simp] theorem State.putGrove_roots (s : State) (n : Nat) (x : Grove) : (s.putGrove n x).roots = s.roots := rfl
@[simp] theorem State.putGrove_hbmCtl (s : State) (n : Nat) (x : Grove) : (s.putGrove n x).hbmCtl = s.hbmCtl := rfl
@[simp] theorem State.putGrove_migrations (s : State) (n : Nat) (x : Grove) : (s.putGrove n x).migrations = s.migrations := rfl
@[simp] theorem State.putGrove_resvs (s : State) (n : Nat) (x : Grove) : (s.putGrove n x).resvs = s.resvs := rfl
@[simp] theorem State.putGrove_budsOut (s : State) (n : Nat) (x : Grove) : (s.putGrove n x).budsOut = s.budsOut := rfl
@[simp] theorem State.putGrove_returns (s : State) (n : Nat) (x : Grove) : (s.putGrove n x).returns = s.returns := rfl
@[simp] theorem State.putGrove_closes (s : State) (n : Nat) (x : Grove) : (s.putGrove n x).closes = s.closes := rfl
@[simp] theorem State.putGrove_crown (s : State) (n : Nat) (x : Grove) : (s.putGrove n x).crown = s.crown := rfl

/-! `State.modGrove` -/

@[simp] theorem State.modGrove_cycle (s : State) (n : Nat) (f : Grove → Grove) : (s.modGrove n f).cycle = s.cycle := rfl
@[simp] theorem State.modGrove_cur (s : State) (n : Nat) (f : Grove → Grove) : (s.modGrove n f).cur = s.cur := rfl
@[simp] theorem State.modGrove_schedule (s : State) (n : Nat) (f : Grove → Grove) : (s.modGrove n f).schedule = s.schedule := rfl
@[simp] theorem State.modGrove_fresh (s : State) (n : Nat) (f : Grove → Grove) : (s.modGrove n f).fresh = s.fresh := rfl
@[simp] theorem State.modGrove_nextId (s : State) (n : Nat) (f : Grove → Grove) : (s.modGrove n f).nextId = s.nextId := rfl
@[simp] theorem State.modGrove_hbm (s : State) (n : Nat) (f : Grove → Grove) : (s.modGrove n f).hbm = s.hbm := rfl
@[simp] theorem State.modGrove_hbmTag (s : State) (n : Nat) (f : Grove → Grove) : (s.modGrove n f).hbmTag = s.hbmTag := rfl
@[simp] theorem State.modGrove_noise (s : State) (n : Nat) (f : Grove → Grove) : (s.modGrove n f).noise = s.noise := rfl
@[simp] theorem State.modGrove_poison (s : State) (n : Nat) (f : Grove → Grove) : (s.modGrove n f).poison = s.poison := rfl
@[simp] theorem State.modGrove_hostMem (s : State) (n : Nat) (f : Grove → Grove) : (s.modGrove n f).hostMem = s.hostMem := rfl
@[simp] theorem State.modGrove_modMem (s : State) (n : Nat) (f : Grove → Grove) : (s.modGrove n f).modMem = s.modMem := rfl
@[simp] theorem State.modGrove_modTag (s : State) (n : Nat) (f : Grove → Grove) : (s.modGrove n f).modTag = s.modTag := rfl
@[simp] theorem State.modGrove_modPoison (s : State) (n : Nat) (f : Grove → Grove) : (s.modGrove n f).modPoison = s.modPoison := rfl
@[simp] theorem State.modGrove_podCopies (s : State) (n : Nat) (f : Grove → Grove) : (s.modGrove n f).podCopies = s.podCopies := rfl
@[simp] theorem State.modGrove_sram (s : State) (n : Nat) (f : Grove → Grove) : (s.modGrove n f).sram = s.sram := rfl
@[simp] theorem State.modGrove_sramTag (s : State) (n : Nat) (f : Grove → Grove) : (s.modGrove n f).sramTag = s.sramTag := rfl
@[simp] theorem State.modGrove_sramPoison (s : State) (n : Nat) (f : Grove → Grove) : (s.modGrove n f).sramPoison = s.sramPoison := rfl
@[simp] theorem State.modGrove_lines (s : State) (n : Nat) (f : Grove → Grove) : (s.modGrove n f).lines = s.lines := rfl
@[simp] theorem State.modGrove_lineFloor (s : State) (n : Nat) (f : Grove → Grove) : (s.modGrove n f).lineFloor = s.lineFloor := rfl
@[simp] theorem State.modGrove_cores (s : State) (n : Nat) (f : Grove → Grove) : (s.modGrove n f).cores = s.cores := rfl
@[simp] theorem State.modGrove_groves (s : State) (n : Nat) (f : Grove → Grove) : (s.modGrove n f).groves = SMap.put s.groves n (f (s.grove n)) := rfl
@[simp] theorem State.modGrove_dies (s : State) (n : Nat) (f : Grove → Grove) : (s.modGrove n f).dies = s.dies := rfl
@[simp] theorem State.modGrove_parts (s : State) (n : Nat) (f : Grove → Grove) : (s.modGrove n f).parts = s.parts := rfl
@[simp] theorem State.modGrove_tasks (s : State) (n : Nat) (f : Grove → Grove) : (s.modGrove n f).tasks = s.tasks := rfl
@[simp] theorem State.modGrove_clusters (s : State) (n : Nat) (f : Grove → Grove) : (s.modGrove n f).clusters = s.clusters := rfl
@[simp] theorem State.modGrove_groups (s : State) (n : Nat) (f : Grove → Grove) : (s.modGrove n f).groups = s.groups := rfl
@[simp] theorem State.modGrove_streams (s : State) (n : Nat) (f : Grove → Grove) : (s.modGrove n f).streams = s.streams := rfl
@[simp] theorem State.modGrove_heads (s : State) (n : Nat) (f : Grove → Grove) : (s.modGrove n f).heads = s.heads := rfl
@[simp] theorem State.modGrove_graphs (s : State) (n : Nat) (f : Grove → Grove) : (s.modGrove n f).graphs = s.graphs := rfl
@[simp] theorem State.modGrove_roots (s : State) (n : Nat) (f : Grove → Grove) : (s.modGrove n f).roots = s.roots := rfl
@[simp] theorem State.modGrove_hbmCtl (s : State) (n : Nat) (f : Grove → Grove) : (s.modGrove n f).hbmCtl = s.hbmCtl := rfl
@[simp] theorem State.modGrove_migrations (s : State) (n : Nat) (f : Grove → Grove) : (s.modGrove n f).migrations = s.migrations := rfl
@[simp] theorem State.modGrove_resvs (s : State) (n : Nat) (f : Grove → Grove) : (s.modGrove n f).resvs = s.resvs := rfl
@[simp] theorem State.modGrove_budsOut (s : State) (n : Nat) (f : Grove → Grove) : (s.modGrove n f).budsOut = s.budsOut := rfl
@[simp] theorem State.modGrove_returns (s : State) (n : Nat) (f : Grove → Grove) : (s.modGrove n f).returns = s.returns := rfl
@[simp] theorem State.modGrove_closes (s : State) (n : Nat) (f : Grove → Grove) : (s.modGrove n f).closes = s.closes := rfl
@[simp] theorem State.modGrove_crown (s : State) (n : Nat) (f : Grove → Grove) : (s.modGrove n f).crown = s.crown := rfl

/-! `State.modDie` -/

@[simp] theorem State.modDie_cycle (s : State) (n : Nat) (f : Die → Die) : (s.modDie n f).cycle = s.cycle := rfl
@[simp] theorem State.modDie_cur (s : State) (n : Nat) (f : Die → Die) : (s.modDie n f).cur = s.cur := rfl
@[simp] theorem State.modDie_schedule (s : State) (n : Nat) (f : Die → Die) : (s.modDie n f).schedule = s.schedule := rfl
@[simp] theorem State.modDie_fresh (s : State) (n : Nat) (f : Die → Die) : (s.modDie n f).fresh = s.fresh := rfl
@[simp] theorem State.modDie_nextId (s : State) (n : Nat) (f : Die → Die) : (s.modDie n f).nextId = s.nextId := rfl
@[simp] theorem State.modDie_hbm (s : State) (n : Nat) (f : Die → Die) : (s.modDie n f).hbm = s.hbm := rfl
@[simp] theorem State.modDie_hbmTag (s : State) (n : Nat) (f : Die → Die) : (s.modDie n f).hbmTag = s.hbmTag := rfl
@[simp] theorem State.modDie_noise (s : State) (n : Nat) (f : Die → Die) : (s.modDie n f).noise = s.noise := rfl
@[simp] theorem State.modDie_poison (s : State) (n : Nat) (f : Die → Die) : (s.modDie n f).poison = s.poison := rfl
@[simp] theorem State.modDie_hostMem (s : State) (n : Nat) (f : Die → Die) : (s.modDie n f).hostMem = s.hostMem := rfl
@[simp] theorem State.modDie_modMem (s : State) (n : Nat) (f : Die → Die) : (s.modDie n f).modMem = s.modMem := rfl
@[simp] theorem State.modDie_modTag (s : State) (n : Nat) (f : Die → Die) : (s.modDie n f).modTag = s.modTag := rfl
@[simp] theorem State.modDie_modPoison (s : State) (n : Nat) (f : Die → Die) : (s.modDie n f).modPoison = s.modPoison := rfl
@[simp] theorem State.modDie_podCopies (s : State) (n : Nat) (f : Die → Die) : (s.modDie n f).podCopies = s.podCopies := rfl
@[simp] theorem State.modDie_sram (s : State) (n : Nat) (f : Die → Die) : (s.modDie n f).sram = s.sram := rfl
@[simp] theorem State.modDie_sramTag (s : State) (n : Nat) (f : Die → Die) : (s.modDie n f).sramTag = s.sramTag := rfl
@[simp] theorem State.modDie_sramPoison (s : State) (n : Nat) (f : Die → Die) : (s.modDie n f).sramPoison = s.sramPoison := rfl
@[simp] theorem State.modDie_lines (s : State) (n : Nat) (f : Die → Die) : (s.modDie n f).lines = s.lines := rfl
@[simp] theorem State.modDie_lineFloor (s : State) (n : Nat) (f : Die → Die) : (s.modDie n f).lineFloor = s.lineFloor := rfl
@[simp] theorem State.modDie_cores (s : State) (n : Nat) (f : Die → Die) : (s.modDie n f).cores = s.cores := rfl
@[simp] theorem State.modDie_groves (s : State) (n : Nat) (f : Die → Die) : (s.modDie n f).groves = s.groves := rfl
@[simp] theorem State.modDie_dies (s : State) (n : Nat) (f : Die → Die) : (s.modDie n f).dies = SMap.put s.dies n (f (s.die n)) := rfl
@[simp] theorem State.modDie_parts (s : State) (n : Nat) (f : Die → Die) : (s.modDie n f).parts = s.parts := rfl
@[simp] theorem State.modDie_tasks (s : State) (n : Nat) (f : Die → Die) : (s.modDie n f).tasks = s.tasks := rfl
@[simp] theorem State.modDie_clusters (s : State) (n : Nat) (f : Die → Die) : (s.modDie n f).clusters = s.clusters := rfl
@[simp] theorem State.modDie_groups (s : State) (n : Nat) (f : Die → Die) : (s.modDie n f).groups = s.groups := rfl
@[simp] theorem State.modDie_streams (s : State) (n : Nat) (f : Die → Die) : (s.modDie n f).streams = s.streams := rfl
@[simp] theorem State.modDie_heads (s : State) (n : Nat) (f : Die → Die) : (s.modDie n f).heads = s.heads := rfl
@[simp] theorem State.modDie_graphs (s : State) (n : Nat) (f : Die → Die) : (s.modDie n f).graphs = s.graphs := rfl
@[simp] theorem State.modDie_roots (s : State) (n : Nat) (f : Die → Die) : (s.modDie n f).roots = s.roots := rfl
@[simp] theorem State.modDie_hbmCtl (s : State) (n : Nat) (f : Die → Die) : (s.modDie n f).hbmCtl = s.hbmCtl := rfl
@[simp] theorem State.modDie_migrations (s : State) (n : Nat) (f : Die → Die) : (s.modDie n f).migrations = s.migrations := rfl
@[simp] theorem State.modDie_resvs (s : State) (n : Nat) (f : Die → Die) : (s.modDie n f).resvs = s.resvs := rfl
@[simp] theorem State.modDie_budsOut (s : State) (n : Nat) (f : Die → Die) : (s.modDie n f).budsOut = s.budsOut := rfl
@[simp] theorem State.modDie_returns (s : State) (n : Nat) (f : Die → Die) : (s.modDie n f).returns = s.returns := rfl
@[simp] theorem State.modDie_closes (s : State) (n : Nat) (f : Die → Die) : (s.modDie n f).closes = s.closes := rfl
@[simp] theorem State.modDie_crown (s : State) (n : Nat) (f : Die → Die) : (s.modDie n f).crown = s.crown := rfl

/-! `State.modPart` -/

@[simp] theorem State.modPart_cycle (s : State) (n : Nat) (f : Part → Part) : (s.modPart n f).cycle = s.cycle := rfl
@[simp] theorem State.modPart_cur (s : State) (n : Nat) (f : Part → Part) : (s.modPart n f).cur = s.cur := rfl
@[simp] theorem State.modPart_schedule (s : State) (n : Nat) (f : Part → Part) : (s.modPart n f).schedule = s.schedule := rfl
@[simp] theorem State.modPart_fresh (s : State) (n : Nat) (f : Part → Part) : (s.modPart n f).fresh = s.fresh := rfl
@[simp] theorem State.modPart_nextId (s : State) (n : Nat) (f : Part → Part) : (s.modPart n f).nextId = s.nextId := rfl
@[simp] theorem State.modPart_hbm (s : State) (n : Nat) (f : Part → Part) : (s.modPart n f).hbm = s.hbm := rfl
@[simp] theorem State.modPart_hbmTag (s : State) (n : Nat) (f : Part → Part) : (s.modPart n f).hbmTag = s.hbmTag := rfl
@[simp] theorem State.modPart_noise (s : State) (n : Nat) (f : Part → Part) : (s.modPart n f).noise = s.noise := rfl
@[simp] theorem State.modPart_poison (s : State) (n : Nat) (f : Part → Part) : (s.modPart n f).poison = s.poison := rfl
@[simp] theorem State.modPart_hostMem (s : State) (n : Nat) (f : Part → Part) : (s.modPart n f).hostMem = s.hostMem := rfl
@[simp] theorem State.modPart_modMem (s : State) (n : Nat) (f : Part → Part) : (s.modPart n f).modMem = s.modMem := rfl
@[simp] theorem State.modPart_modTag (s : State) (n : Nat) (f : Part → Part) : (s.modPart n f).modTag = s.modTag := rfl
@[simp] theorem State.modPart_modPoison (s : State) (n : Nat) (f : Part → Part) : (s.modPart n f).modPoison = s.modPoison := rfl
@[simp] theorem State.modPart_podCopies (s : State) (n : Nat) (f : Part → Part) : (s.modPart n f).podCopies = s.podCopies := rfl
@[simp] theorem State.modPart_sram (s : State) (n : Nat) (f : Part → Part) : (s.modPart n f).sram = s.sram := rfl
@[simp] theorem State.modPart_sramTag (s : State) (n : Nat) (f : Part → Part) : (s.modPart n f).sramTag = s.sramTag := rfl
@[simp] theorem State.modPart_sramPoison (s : State) (n : Nat) (f : Part → Part) : (s.modPart n f).sramPoison = s.sramPoison := rfl
@[simp] theorem State.modPart_lines (s : State) (n : Nat) (f : Part → Part) : (s.modPart n f).lines = s.lines := rfl
@[simp] theorem State.modPart_lineFloor (s : State) (n : Nat) (f : Part → Part) : (s.modPart n f).lineFloor = s.lineFloor := rfl
@[simp] theorem State.modPart_cores (s : State) (n : Nat) (f : Part → Part) : (s.modPart n f).cores = s.cores := rfl
@[simp] theorem State.modPart_groves (s : State) (n : Nat) (f : Part → Part) : (s.modPart n f).groves = s.groves := rfl
@[simp] theorem State.modPart_dies (s : State) (n : Nat) (f : Part → Part) : (s.modPart n f).dies = s.dies := rfl
@[simp] theorem State.modPart_parts (s : State) (n : Nat) (f : Part → Part) : (s.modPart n f).parts = SMap.mod s.parts n f := rfl
@[simp] theorem State.modPart_tasks (s : State) (n : Nat) (f : Part → Part) : (s.modPart n f).tasks = s.tasks := rfl
@[simp] theorem State.modPart_clusters (s : State) (n : Nat) (f : Part → Part) : (s.modPart n f).clusters = s.clusters := rfl
@[simp] theorem State.modPart_groups (s : State) (n : Nat) (f : Part → Part) : (s.modPart n f).groups = s.groups := rfl
@[simp] theorem State.modPart_streams (s : State) (n : Nat) (f : Part → Part) : (s.modPart n f).streams = s.streams := rfl
@[simp] theorem State.modPart_heads (s : State) (n : Nat) (f : Part → Part) : (s.modPart n f).heads = s.heads := rfl
@[simp] theorem State.modPart_graphs (s : State) (n : Nat) (f : Part → Part) : (s.modPart n f).graphs = s.graphs := rfl
@[simp] theorem State.modPart_roots (s : State) (n : Nat) (f : Part → Part) : (s.modPart n f).roots = s.roots := rfl
@[simp] theorem State.modPart_hbmCtl (s : State) (n : Nat) (f : Part → Part) : (s.modPart n f).hbmCtl = s.hbmCtl := rfl
@[simp] theorem State.modPart_migrations (s : State) (n : Nat) (f : Part → Part) : (s.modPart n f).migrations = s.migrations := rfl
@[simp] theorem State.modPart_resvs (s : State) (n : Nat) (f : Part → Part) : (s.modPart n f).resvs = s.resvs := rfl
@[simp] theorem State.modPart_budsOut (s : State) (n : Nat) (f : Part → Part) : (s.modPart n f).budsOut = s.budsOut := rfl
@[simp] theorem State.modPart_returns (s : State) (n : Nat) (f : Part → Part) : (s.modPart n f).returns = s.returns := rfl
@[simp] theorem State.modPart_closes (s : State) (n : Nat) (f : Part → Part) : (s.modPart n f).closes = s.closes := rfl
@[simp] theorem State.modPart_crown (s : State) (n : Nat) (f : Part → Part) : (s.modPart n f).crown = s.crown := rfl

/-! `State.modTask` -/

@[simp] theorem State.modTask_cycle (s : State) (n : Nat) (f : Task → Task) : (s.modTask n f).cycle = s.cycle := rfl
@[simp] theorem State.modTask_cur (s : State) (n : Nat) (f : Task → Task) : (s.modTask n f).cur = s.cur := rfl
@[simp] theorem State.modTask_schedule (s : State) (n : Nat) (f : Task → Task) : (s.modTask n f).schedule = s.schedule := rfl
@[simp] theorem State.modTask_fresh (s : State) (n : Nat) (f : Task → Task) : (s.modTask n f).fresh = s.fresh := rfl
@[simp] theorem State.modTask_nextId (s : State) (n : Nat) (f : Task → Task) : (s.modTask n f).nextId = s.nextId := rfl
@[simp] theorem State.modTask_hbm (s : State) (n : Nat) (f : Task → Task) : (s.modTask n f).hbm = s.hbm := rfl
@[simp] theorem State.modTask_hbmTag (s : State) (n : Nat) (f : Task → Task) : (s.modTask n f).hbmTag = s.hbmTag := rfl
@[simp] theorem State.modTask_noise (s : State) (n : Nat) (f : Task → Task) : (s.modTask n f).noise = s.noise := rfl
@[simp] theorem State.modTask_poison (s : State) (n : Nat) (f : Task → Task) : (s.modTask n f).poison = s.poison := rfl
@[simp] theorem State.modTask_hostMem (s : State) (n : Nat) (f : Task → Task) : (s.modTask n f).hostMem = s.hostMem := rfl
@[simp] theorem State.modTask_modMem (s : State) (n : Nat) (f : Task → Task) : (s.modTask n f).modMem = s.modMem := rfl
@[simp] theorem State.modTask_modTag (s : State) (n : Nat) (f : Task → Task) : (s.modTask n f).modTag = s.modTag := rfl
@[simp] theorem State.modTask_modPoison (s : State) (n : Nat) (f : Task → Task) : (s.modTask n f).modPoison = s.modPoison := rfl
@[simp] theorem State.modTask_podCopies (s : State) (n : Nat) (f : Task → Task) : (s.modTask n f).podCopies = s.podCopies := rfl
@[simp] theorem State.modTask_sram (s : State) (n : Nat) (f : Task → Task) : (s.modTask n f).sram = s.sram := rfl
@[simp] theorem State.modTask_sramTag (s : State) (n : Nat) (f : Task → Task) : (s.modTask n f).sramTag = s.sramTag := rfl
@[simp] theorem State.modTask_sramPoison (s : State) (n : Nat) (f : Task → Task) : (s.modTask n f).sramPoison = s.sramPoison := rfl
@[simp] theorem State.modTask_lines (s : State) (n : Nat) (f : Task → Task) : (s.modTask n f).lines = s.lines := rfl
@[simp] theorem State.modTask_lineFloor (s : State) (n : Nat) (f : Task → Task) : (s.modTask n f).lineFloor = s.lineFloor := rfl
@[simp] theorem State.modTask_cores (s : State) (n : Nat) (f : Task → Task) : (s.modTask n f).cores = s.cores := rfl
@[simp] theorem State.modTask_groves (s : State) (n : Nat) (f : Task → Task) : (s.modTask n f).groves = s.groves := rfl
@[simp] theorem State.modTask_dies (s : State) (n : Nat) (f : Task → Task) : (s.modTask n f).dies = s.dies := rfl
@[simp] theorem State.modTask_parts (s : State) (n : Nat) (f : Task → Task) : (s.modTask n f).parts = s.parts := rfl
@[simp] theorem State.modTask_tasks (s : State) (n : Nat) (f : Task → Task) : (s.modTask n f).tasks = SMap.mod s.tasks n f := rfl
@[simp] theorem State.modTask_clusters (s : State) (n : Nat) (f : Task → Task) : (s.modTask n f).clusters = s.clusters := rfl
@[simp] theorem State.modTask_groups (s : State) (n : Nat) (f : Task → Task) : (s.modTask n f).groups = s.groups := rfl
@[simp] theorem State.modTask_streams (s : State) (n : Nat) (f : Task → Task) : (s.modTask n f).streams = s.streams := rfl
@[simp] theorem State.modTask_heads (s : State) (n : Nat) (f : Task → Task) : (s.modTask n f).heads = s.heads := rfl
@[simp] theorem State.modTask_graphs (s : State) (n : Nat) (f : Task → Task) : (s.modTask n f).graphs = s.graphs := rfl
@[simp] theorem State.modTask_roots (s : State) (n : Nat) (f : Task → Task) : (s.modTask n f).roots = s.roots := rfl
@[simp] theorem State.modTask_hbmCtl (s : State) (n : Nat) (f : Task → Task) : (s.modTask n f).hbmCtl = s.hbmCtl := rfl
@[simp] theorem State.modTask_migrations (s : State) (n : Nat) (f : Task → Task) : (s.modTask n f).migrations = s.migrations := rfl
@[simp] theorem State.modTask_resvs (s : State) (n : Nat) (f : Task → Task) : (s.modTask n f).resvs = s.resvs := rfl
@[simp] theorem State.modTask_budsOut (s : State) (n : Nat) (f : Task → Task) : (s.modTask n f).budsOut = s.budsOut := rfl
@[simp] theorem State.modTask_returns (s : State) (n : Nat) (f : Task → Task) : (s.modTask n f).returns = s.returns := rfl
@[simp] theorem State.modTask_closes (s : State) (n : Nat) (f : Task → Task) : (s.modTask n f).closes = s.closes := rfl
@[simp] theorem State.modTask_crown (s : State) (n : Nat) (f : Task → Task) : (s.modTask n f).crown = s.crown := rfl

/-! `State.modCluster` -/

@[simp] theorem State.modCluster_cycle (s : State) (n : Nat) (f : Cluster → Cluster) : (s.modCluster n f).cycle = s.cycle := rfl
@[simp] theorem State.modCluster_cur (s : State) (n : Nat) (f : Cluster → Cluster) : (s.modCluster n f).cur = s.cur := rfl
@[simp] theorem State.modCluster_schedule (s : State) (n : Nat) (f : Cluster → Cluster) : (s.modCluster n f).schedule = s.schedule := rfl
@[simp] theorem State.modCluster_fresh (s : State) (n : Nat) (f : Cluster → Cluster) : (s.modCluster n f).fresh = s.fresh := rfl
@[simp] theorem State.modCluster_nextId (s : State) (n : Nat) (f : Cluster → Cluster) : (s.modCluster n f).nextId = s.nextId := rfl
@[simp] theorem State.modCluster_hbm (s : State) (n : Nat) (f : Cluster → Cluster) : (s.modCluster n f).hbm = s.hbm := rfl
@[simp] theorem State.modCluster_hbmTag (s : State) (n : Nat) (f : Cluster → Cluster) : (s.modCluster n f).hbmTag = s.hbmTag := rfl
@[simp] theorem State.modCluster_noise (s : State) (n : Nat) (f : Cluster → Cluster) : (s.modCluster n f).noise = s.noise := rfl
@[simp] theorem State.modCluster_poison (s : State) (n : Nat) (f : Cluster → Cluster) : (s.modCluster n f).poison = s.poison := rfl
@[simp] theorem State.modCluster_hostMem (s : State) (n : Nat) (f : Cluster → Cluster) : (s.modCluster n f).hostMem = s.hostMem := rfl
@[simp] theorem State.modCluster_modMem (s : State) (n : Nat) (f : Cluster → Cluster) : (s.modCluster n f).modMem = s.modMem := rfl
@[simp] theorem State.modCluster_modTag (s : State) (n : Nat) (f : Cluster → Cluster) : (s.modCluster n f).modTag = s.modTag := rfl
@[simp] theorem State.modCluster_modPoison (s : State) (n : Nat) (f : Cluster → Cluster) : (s.modCluster n f).modPoison = s.modPoison := rfl
@[simp] theorem State.modCluster_podCopies (s : State) (n : Nat) (f : Cluster → Cluster) : (s.modCluster n f).podCopies = s.podCopies := rfl
@[simp] theorem State.modCluster_sram (s : State) (n : Nat) (f : Cluster → Cluster) : (s.modCluster n f).sram = s.sram := rfl
@[simp] theorem State.modCluster_sramTag (s : State) (n : Nat) (f : Cluster → Cluster) : (s.modCluster n f).sramTag = s.sramTag := rfl
@[simp] theorem State.modCluster_sramPoison (s : State) (n : Nat) (f : Cluster → Cluster) : (s.modCluster n f).sramPoison = s.sramPoison := rfl
@[simp] theorem State.modCluster_lines (s : State) (n : Nat) (f : Cluster → Cluster) : (s.modCluster n f).lines = s.lines := rfl
@[simp] theorem State.modCluster_lineFloor (s : State) (n : Nat) (f : Cluster → Cluster) : (s.modCluster n f).lineFloor = s.lineFloor := rfl
@[simp] theorem State.modCluster_cores (s : State) (n : Nat) (f : Cluster → Cluster) : (s.modCluster n f).cores = s.cores := rfl
@[simp] theorem State.modCluster_groves (s : State) (n : Nat) (f : Cluster → Cluster) : (s.modCluster n f).groves = s.groves := rfl
@[simp] theorem State.modCluster_dies (s : State) (n : Nat) (f : Cluster → Cluster) : (s.modCluster n f).dies = s.dies := rfl
@[simp] theorem State.modCluster_parts (s : State) (n : Nat) (f : Cluster → Cluster) : (s.modCluster n f).parts = s.parts := rfl
@[simp] theorem State.modCluster_tasks (s : State) (n : Nat) (f : Cluster → Cluster) : (s.modCluster n f).tasks = s.tasks := rfl
@[simp] theorem State.modCluster_clusters (s : State) (n : Nat) (f : Cluster → Cluster) : (s.modCluster n f).clusters = SMap.mod s.clusters n f := rfl
@[simp] theorem State.modCluster_groups (s : State) (n : Nat) (f : Cluster → Cluster) : (s.modCluster n f).groups = s.groups := rfl
@[simp] theorem State.modCluster_streams (s : State) (n : Nat) (f : Cluster → Cluster) : (s.modCluster n f).streams = s.streams := rfl
@[simp] theorem State.modCluster_heads (s : State) (n : Nat) (f : Cluster → Cluster) : (s.modCluster n f).heads = s.heads := rfl
@[simp] theorem State.modCluster_graphs (s : State) (n : Nat) (f : Cluster → Cluster) : (s.modCluster n f).graphs = s.graphs := rfl
@[simp] theorem State.modCluster_roots (s : State) (n : Nat) (f : Cluster → Cluster) : (s.modCluster n f).roots = s.roots := rfl
@[simp] theorem State.modCluster_hbmCtl (s : State) (n : Nat) (f : Cluster → Cluster) : (s.modCluster n f).hbmCtl = s.hbmCtl := rfl
@[simp] theorem State.modCluster_migrations (s : State) (n : Nat) (f : Cluster → Cluster) : (s.modCluster n f).migrations = s.migrations := rfl
@[simp] theorem State.modCluster_resvs (s : State) (n : Nat) (f : Cluster → Cluster) : (s.modCluster n f).resvs = s.resvs := rfl
@[simp] theorem State.modCluster_budsOut (s : State) (n : Nat) (f : Cluster → Cluster) : (s.modCluster n f).budsOut = s.budsOut := rfl
@[simp] theorem State.modCluster_returns (s : State) (n : Nat) (f : Cluster → Cluster) : (s.modCluster n f).returns = s.returns := rfl
@[simp] theorem State.modCluster_closes (s : State) (n : Nat) (f : Cluster → Cluster) : (s.modCluster n f).closes = s.closes := rfl
@[simp] theorem State.modCluster_crown (s : State) (n : Nat) (f : Cluster → Cluster) : (s.modCluster n f).crown = s.crown := rfl

/-! `State.modGraph` -/

@[simp] theorem State.modGraph_cycle (s : State) (n : Nat) (f : Graph → Graph) : (s.modGraph n f).cycle = s.cycle := rfl
@[simp] theorem State.modGraph_cur (s : State) (n : Nat) (f : Graph → Graph) : (s.modGraph n f).cur = s.cur := rfl
@[simp] theorem State.modGraph_schedule (s : State) (n : Nat) (f : Graph → Graph) : (s.modGraph n f).schedule = s.schedule := rfl
@[simp] theorem State.modGraph_fresh (s : State) (n : Nat) (f : Graph → Graph) : (s.modGraph n f).fresh = s.fresh := rfl
@[simp] theorem State.modGraph_nextId (s : State) (n : Nat) (f : Graph → Graph) : (s.modGraph n f).nextId = s.nextId := rfl
@[simp] theorem State.modGraph_hbm (s : State) (n : Nat) (f : Graph → Graph) : (s.modGraph n f).hbm = s.hbm := rfl
@[simp] theorem State.modGraph_hbmTag (s : State) (n : Nat) (f : Graph → Graph) : (s.modGraph n f).hbmTag = s.hbmTag := rfl
@[simp] theorem State.modGraph_noise (s : State) (n : Nat) (f : Graph → Graph) : (s.modGraph n f).noise = s.noise := rfl
@[simp] theorem State.modGraph_poison (s : State) (n : Nat) (f : Graph → Graph) : (s.modGraph n f).poison = s.poison := rfl
@[simp] theorem State.modGraph_hostMem (s : State) (n : Nat) (f : Graph → Graph) : (s.modGraph n f).hostMem = s.hostMem := rfl
@[simp] theorem State.modGraph_modMem (s : State) (n : Nat) (f : Graph → Graph) : (s.modGraph n f).modMem = s.modMem := rfl
@[simp] theorem State.modGraph_modTag (s : State) (n : Nat) (f : Graph → Graph) : (s.modGraph n f).modTag = s.modTag := rfl
@[simp] theorem State.modGraph_modPoison (s : State) (n : Nat) (f : Graph → Graph) : (s.modGraph n f).modPoison = s.modPoison := rfl
@[simp] theorem State.modGraph_podCopies (s : State) (n : Nat) (f : Graph → Graph) : (s.modGraph n f).podCopies = s.podCopies := rfl
@[simp] theorem State.modGraph_sram (s : State) (n : Nat) (f : Graph → Graph) : (s.modGraph n f).sram = s.sram := rfl
@[simp] theorem State.modGraph_sramTag (s : State) (n : Nat) (f : Graph → Graph) : (s.modGraph n f).sramTag = s.sramTag := rfl
@[simp] theorem State.modGraph_sramPoison (s : State) (n : Nat) (f : Graph → Graph) : (s.modGraph n f).sramPoison = s.sramPoison := rfl
@[simp] theorem State.modGraph_lines (s : State) (n : Nat) (f : Graph → Graph) : (s.modGraph n f).lines = s.lines := rfl
@[simp] theorem State.modGraph_lineFloor (s : State) (n : Nat) (f : Graph → Graph) : (s.modGraph n f).lineFloor = s.lineFloor := rfl
@[simp] theorem State.modGraph_cores (s : State) (n : Nat) (f : Graph → Graph) : (s.modGraph n f).cores = s.cores := rfl
@[simp] theorem State.modGraph_groves (s : State) (n : Nat) (f : Graph → Graph) : (s.modGraph n f).groves = s.groves := rfl
@[simp] theorem State.modGraph_dies (s : State) (n : Nat) (f : Graph → Graph) : (s.modGraph n f).dies = s.dies := rfl
@[simp] theorem State.modGraph_parts (s : State) (n : Nat) (f : Graph → Graph) : (s.modGraph n f).parts = s.parts := rfl
@[simp] theorem State.modGraph_tasks (s : State) (n : Nat) (f : Graph → Graph) : (s.modGraph n f).tasks = s.tasks := rfl
@[simp] theorem State.modGraph_clusters (s : State) (n : Nat) (f : Graph → Graph) : (s.modGraph n f).clusters = s.clusters := rfl
@[simp] theorem State.modGraph_groups (s : State) (n : Nat) (f : Graph → Graph) : (s.modGraph n f).groups = s.groups := rfl
@[simp] theorem State.modGraph_streams (s : State) (n : Nat) (f : Graph → Graph) : (s.modGraph n f).streams = s.streams := rfl
@[simp] theorem State.modGraph_heads (s : State) (n : Nat) (f : Graph → Graph) : (s.modGraph n f).heads = s.heads := rfl
@[simp] theorem State.modGraph_graphs (s : State) (n : Nat) (f : Graph → Graph) : (s.modGraph n f).graphs = SMap.mod s.graphs n f := rfl
@[simp] theorem State.modGraph_roots (s : State) (n : Nat) (f : Graph → Graph) : (s.modGraph n f).roots = s.roots := rfl
@[simp] theorem State.modGraph_hbmCtl (s : State) (n : Nat) (f : Graph → Graph) : (s.modGraph n f).hbmCtl = s.hbmCtl := rfl
@[simp] theorem State.modGraph_migrations (s : State) (n : Nat) (f : Graph → Graph) : (s.modGraph n f).migrations = s.migrations := rfl
@[simp] theorem State.modGraph_resvs (s : State) (n : Nat) (f : Graph → Graph) : (s.modGraph n f).resvs = s.resvs := rfl
@[simp] theorem State.modGraph_budsOut (s : State) (n : Nat) (f : Graph → Graph) : (s.modGraph n f).budsOut = s.budsOut := rfl
@[simp] theorem State.modGraph_returns (s : State) (n : Nat) (f : Graph → Graph) : (s.modGraph n f).returns = s.returns := rfl
@[simp] theorem State.modGraph_closes (s : State) (n : Nat) (f : Graph → Graph) : (s.modGraph n f).closes = s.closes := rfl
@[simp] theorem State.modGraph_crown (s : State) (n : Nat) (f : Graph → Graph) : (s.modGraph n f).crown = s.crown := rfl

/-! `State.modStream` -/

@[simp] theorem State.modStream_cycle (s : State) (n : Nat) (f : Stream → Stream) : (s.modStream n f).cycle = s.cycle := rfl
@[simp] theorem State.modStream_cur (s : State) (n : Nat) (f : Stream → Stream) : (s.modStream n f).cur = s.cur := rfl
@[simp] theorem State.modStream_schedule (s : State) (n : Nat) (f : Stream → Stream) : (s.modStream n f).schedule = s.schedule := rfl
@[simp] theorem State.modStream_fresh (s : State) (n : Nat) (f : Stream → Stream) : (s.modStream n f).fresh = s.fresh := rfl
@[simp] theorem State.modStream_nextId (s : State) (n : Nat) (f : Stream → Stream) : (s.modStream n f).nextId = s.nextId := rfl
@[simp] theorem State.modStream_hbm (s : State) (n : Nat) (f : Stream → Stream) : (s.modStream n f).hbm = s.hbm := rfl
@[simp] theorem State.modStream_hbmTag (s : State) (n : Nat) (f : Stream → Stream) : (s.modStream n f).hbmTag = s.hbmTag := rfl
@[simp] theorem State.modStream_noise (s : State) (n : Nat) (f : Stream → Stream) : (s.modStream n f).noise = s.noise := rfl
@[simp] theorem State.modStream_poison (s : State) (n : Nat) (f : Stream → Stream) : (s.modStream n f).poison = s.poison := rfl
@[simp] theorem State.modStream_hostMem (s : State) (n : Nat) (f : Stream → Stream) : (s.modStream n f).hostMem = s.hostMem := rfl
@[simp] theorem State.modStream_modMem (s : State) (n : Nat) (f : Stream → Stream) : (s.modStream n f).modMem = s.modMem := rfl
@[simp] theorem State.modStream_modTag (s : State) (n : Nat) (f : Stream → Stream) : (s.modStream n f).modTag = s.modTag := rfl
@[simp] theorem State.modStream_modPoison (s : State) (n : Nat) (f : Stream → Stream) : (s.modStream n f).modPoison = s.modPoison := rfl
@[simp] theorem State.modStream_podCopies (s : State) (n : Nat) (f : Stream → Stream) : (s.modStream n f).podCopies = s.podCopies := rfl
@[simp] theorem State.modStream_sram (s : State) (n : Nat) (f : Stream → Stream) : (s.modStream n f).sram = s.sram := rfl
@[simp] theorem State.modStream_sramTag (s : State) (n : Nat) (f : Stream → Stream) : (s.modStream n f).sramTag = s.sramTag := rfl
@[simp] theorem State.modStream_sramPoison (s : State) (n : Nat) (f : Stream → Stream) : (s.modStream n f).sramPoison = s.sramPoison := rfl
@[simp] theorem State.modStream_lines (s : State) (n : Nat) (f : Stream → Stream) : (s.modStream n f).lines = s.lines := rfl
@[simp] theorem State.modStream_lineFloor (s : State) (n : Nat) (f : Stream → Stream) : (s.modStream n f).lineFloor = s.lineFloor := rfl
@[simp] theorem State.modStream_cores (s : State) (n : Nat) (f : Stream → Stream) : (s.modStream n f).cores = s.cores := rfl
@[simp] theorem State.modStream_groves (s : State) (n : Nat) (f : Stream → Stream) : (s.modStream n f).groves = s.groves := rfl
@[simp] theorem State.modStream_dies (s : State) (n : Nat) (f : Stream → Stream) : (s.modStream n f).dies = s.dies := rfl
@[simp] theorem State.modStream_parts (s : State) (n : Nat) (f : Stream → Stream) : (s.modStream n f).parts = s.parts := rfl
@[simp] theorem State.modStream_tasks (s : State) (n : Nat) (f : Stream → Stream) : (s.modStream n f).tasks = s.tasks := rfl
@[simp] theorem State.modStream_clusters (s : State) (n : Nat) (f : Stream → Stream) : (s.modStream n f).clusters = s.clusters := rfl
@[simp] theorem State.modStream_groups (s : State) (n : Nat) (f : Stream → Stream) : (s.modStream n f).groups = s.groups := rfl
@[simp] theorem State.modStream_streams (s : State) (n : Nat) (f : Stream → Stream) : (s.modStream n f).streams = SMap.mod s.streams n f := rfl
@[simp] theorem State.modStream_heads (s : State) (n : Nat) (f : Stream → Stream) : (s.modStream n f).heads = s.heads := rfl
@[simp] theorem State.modStream_graphs (s : State) (n : Nat) (f : Stream → Stream) : (s.modStream n f).graphs = s.graphs := rfl
@[simp] theorem State.modStream_roots (s : State) (n : Nat) (f : Stream → Stream) : (s.modStream n f).roots = s.roots := rfl
@[simp] theorem State.modStream_hbmCtl (s : State) (n : Nat) (f : Stream → Stream) : (s.modStream n f).hbmCtl = s.hbmCtl := rfl
@[simp] theorem State.modStream_migrations (s : State) (n : Nat) (f : Stream → Stream) : (s.modStream n f).migrations = s.migrations := rfl
@[simp] theorem State.modStream_resvs (s : State) (n : Nat) (f : Stream → Stream) : (s.modStream n f).resvs = s.resvs := rfl
@[simp] theorem State.modStream_budsOut (s : State) (n : Nat) (f : Stream → Stream) : (s.modStream n f).budsOut = s.budsOut := rfl
@[simp] theorem State.modStream_returns (s : State) (n : Nat) (f : Stream → Stream) : (s.modStream n f).returns = s.returns := rfl
@[simp] theorem State.modStream_closes (s : State) (n : Nat) (f : Stream → Stream) : (s.modStream n f).closes = s.closes := rfl
@[simp] theorem State.modStream_crown (s : State) (n : Nat) (f : Stream → Stream) : (s.modStream n f).crown = s.crown := rfl

/-! `State.putHead` -/

@[simp] theorem State.putHead_cycle (s : State) (m h : Nat) (x : Head) : (s.putHead m h x).cycle = s.cycle := rfl
@[simp] theorem State.putHead_cur (s : State) (m h : Nat) (x : Head) : (s.putHead m h x).cur = s.cur := rfl
@[simp] theorem State.putHead_schedule (s : State) (m h : Nat) (x : Head) : (s.putHead m h x).schedule = s.schedule := rfl
@[simp] theorem State.putHead_fresh (s : State) (m h : Nat) (x : Head) : (s.putHead m h x).fresh = s.fresh := rfl
@[simp] theorem State.putHead_nextId (s : State) (m h : Nat) (x : Head) : (s.putHead m h x).nextId = s.nextId := rfl
@[simp] theorem State.putHead_hbm (s : State) (m h : Nat) (x : Head) : (s.putHead m h x).hbm = s.hbm := rfl
@[simp] theorem State.putHead_hbmTag (s : State) (m h : Nat) (x : Head) : (s.putHead m h x).hbmTag = s.hbmTag := rfl
@[simp] theorem State.putHead_noise (s : State) (m h : Nat) (x : Head) : (s.putHead m h x).noise = s.noise := rfl
@[simp] theorem State.putHead_poison (s : State) (m h : Nat) (x : Head) : (s.putHead m h x).poison = s.poison := rfl
@[simp] theorem State.putHead_hostMem (s : State) (m h : Nat) (x : Head) : (s.putHead m h x).hostMem = s.hostMem := rfl
@[simp] theorem State.putHead_modMem (s : State) (m h : Nat) (x : Head) : (s.putHead m h x).modMem = s.modMem := rfl
@[simp] theorem State.putHead_modTag (s : State) (m h : Nat) (x : Head) : (s.putHead m h x).modTag = s.modTag := rfl
@[simp] theorem State.putHead_modPoison (s : State) (m h : Nat) (x : Head) : (s.putHead m h x).modPoison = s.modPoison := rfl
@[simp] theorem State.putHead_podCopies (s : State) (m h : Nat) (x : Head) : (s.putHead m h x).podCopies = s.podCopies := rfl
@[simp] theorem State.putHead_sram (s : State) (m h : Nat) (x : Head) : (s.putHead m h x).sram = s.sram := rfl
@[simp] theorem State.putHead_sramTag (s : State) (m h : Nat) (x : Head) : (s.putHead m h x).sramTag = s.sramTag := rfl
@[simp] theorem State.putHead_sramPoison (s : State) (m h : Nat) (x : Head) : (s.putHead m h x).sramPoison = s.sramPoison := rfl
@[simp] theorem State.putHead_lines (s : State) (m h : Nat) (x : Head) : (s.putHead m h x).lines = s.lines := rfl
@[simp] theorem State.putHead_lineFloor (s : State) (m h : Nat) (x : Head) : (s.putHead m h x).lineFloor = s.lineFloor := rfl
@[simp] theorem State.putHead_cores (s : State) (m h : Nat) (x : Head) : (s.putHead m h x).cores = s.cores := rfl
@[simp] theorem State.putHead_groves (s : State) (m h : Nat) (x : Head) : (s.putHead m h x).groves = s.groves := rfl
@[simp] theorem State.putHead_dies (s : State) (m h : Nat) (x : Head) : (s.putHead m h x).dies = s.dies := rfl
@[simp] theorem State.putHead_parts (s : State) (m h : Nat) (x : Head) : (s.putHead m h x).parts = s.parts := rfl
@[simp] theorem State.putHead_tasks (s : State) (m h : Nat) (x : Head) : (s.putHead m h x).tasks = s.tasks := rfl
@[simp] theorem State.putHead_clusters (s : State) (m h : Nat) (x : Head) : (s.putHead m h x).clusters = s.clusters := rfl
@[simp] theorem State.putHead_groups (s : State) (m h : Nat) (x : Head) : (s.putHead m h x).groups = s.groups := rfl
@[simp] theorem State.putHead_streams (s : State) (m h : Nat) (x : Head) : (s.putHead m h x).streams = s.streams := rfl
@[simp] theorem State.putHead_heads (s : State) (m h : Nat) (x : Head) : (s.putHead m h x).heads = SMap.put s.heads (8 * m + h) x := rfl
@[simp] theorem State.putHead_graphs (s : State) (m h : Nat) (x : Head) : (s.putHead m h x).graphs = s.graphs := rfl
@[simp] theorem State.putHead_roots (s : State) (m h : Nat) (x : Head) : (s.putHead m h x).roots = s.roots := rfl
@[simp] theorem State.putHead_hbmCtl (s : State) (m h : Nat) (x : Head) : (s.putHead m h x).hbmCtl = s.hbmCtl := rfl
@[simp] theorem State.putHead_migrations (s : State) (m h : Nat) (x : Head) : (s.putHead m h x).migrations = s.migrations := rfl
@[simp] theorem State.putHead_resvs (s : State) (m h : Nat) (x : Head) : (s.putHead m h x).resvs = s.resvs := rfl
@[simp] theorem State.putHead_budsOut (s : State) (m h : Nat) (x : Head) : (s.putHead m h x).budsOut = s.budsOut := rfl
@[simp] theorem State.putHead_returns (s : State) (m h : Nat) (x : Head) : (s.putHead m h x).returns = s.returns := rfl
@[simp] theorem State.putHead_closes (s : State) (m h : Nat) (x : Head) : (s.putHead m h x).closes = s.closes := rfl
@[simp] theorem State.putHead_crown (s : State) (m h : Nat) (x : Head) : (s.putHead m h x).crown = s.crown := rfl

/-! `State.modCrown` -/

@[simp] theorem State.modCrown_cycle (s : State) (f : Crown → Crown) : (s.modCrown f).cycle = s.cycle := rfl
@[simp] theorem State.modCrown_cur (s : State) (f : Crown → Crown) : (s.modCrown f).cur = s.cur := rfl
@[simp] theorem State.modCrown_schedule (s : State) (f : Crown → Crown) : (s.modCrown f).schedule = s.schedule := rfl
@[simp] theorem State.modCrown_fresh (s : State) (f : Crown → Crown) : (s.modCrown f).fresh = s.fresh := rfl
@[simp] theorem State.modCrown_nextId (s : State) (f : Crown → Crown) : (s.modCrown f).nextId = s.nextId := rfl
@[simp] theorem State.modCrown_hbm (s : State) (f : Crown → Crown) : (s.modCrown f).hbm = s.hbm := rfl
@[simp] theorem State.modCrown_hbmTag (s : State) (f : Crown → Crown) : (s.modCrown f).hbmTag = s.hbmTag := rfl
@[simp] theorem State.modCrown_noise (s : State) (f : Crown → Crown) : (s.modCrown f).noise = s.noise := rfl
@[simp] theorem State.modCrown_poison (s : State) (f : Crown → Crown) : (s.modCrown f).poison = s.poison := rfl
@[simp] theorem State.modCrown_hostMem (s : State) (f : Crown → Crown) : (s.modCrown f).hostMem = s.hostMem := rfl
@[simp] theorem State.modCrown_modMem (s : State) (f : Crown → Crown) : (s.modCrown f).modMem = s.modMem := rfl
@[simp] theorem State.modCrown_modTag (s : State) (f : Crown → Crown) : (s.modCrown f).modTag = s.modTag := rfl
@[simp] theorem State.modCrown_modPoison (s : State) (f : Crown → Crown) : (s.modCrown f).modPoison = s.modPoison := rfl
@[simp] theorem State.modCrown_podCopies (s : State) (f : Crown → Crown) : (s.modCrown f).podCopies = s.podCopies := rfl
@[simp] theorem State.modCrown_sram (s : State) (f : Crown → Crown) : (s.modCrown f).sram = s.sram := rfl
@[simp] theorem State.modCrown_sramTag (s : State) (f : Crown → Crown) : (s.modCrown f).sramTag = s.sramTag := rfl
@[simp] theorem State.modCrown_sramPoison (s : State) (f : Crown → Crown) : (s.modCrown f).sramPoison = s.sramPoison := rfl
@[simp] theorem State.modCrown_lines (s : State) (f : Crown → Crown) : (s.modCrown f).lines = s.lines := rfl
@[simp] theorem State.modCrown_lineFloor (s : State) (f : Crown → Crown) : (s.modCrown f).lineFloor = s.lineFloor := rfl
@[simp] theorem State.modCrown_cores (s : State) (f : Crown → Crown) : (s.modCrown f).cores = s.cores := rfl
@[simp] theorem State.modCrown_groves (s : State) (f : Crown → Crown) : (s.modCrown f).groves = s.groves := rfl
@[simp] theorem State.modCrown_dies (s : State) (f : Crown → Crown) : (s.modCrown f).dies = s.dies := rfl
@[simp] theorem State.modCrown_parts (s : State) (f : Crown → Crown) : (s.modCrown f).parts = s.parts := rfl
@[simp] theorem State.modCrown_tasks (s : State) (f : Crown → Crown) : (s.modCrown f).tasks = s.tasks := rfl
@[simp] theorem State.modCrown_clusters (s : State) (f : Crown → Crown) : (s.modCrown f).clusters = s.clusters := rfl
@[simp] theorem State.modCrown_groups (s : State) (f : Crown → Crown) : (s.modCrown f).groups = s.groups := rfl
@[simp] theorem State.modCrown_streams (s : State) (f : Crown → Crown) : (s.modCrown f).streams = s.streams := rfl
@[simp] theorem State.modCrown_heads (s : State) (f : Crown → Crown) : (s.modCrown f).heads = s.heads := rfl
@[simp] theorem State.modCrown_graphs (s : State) (f : Crown → Crown) : (s.modCrown f).graphs = s.graphs := rfl
@[simp] theorem State.modCrown_roots (s : State) (f : Crown → Crown) : (s.modCrown f).roots = s.roots := rfl
@[simp] theorem State.modCrown_hbmCtl (s : State) (f : Crown → Crown) : (s.modCrown f).hbmCtl = s.hbmCtl := rfl
@[simp] theorem State.modCrown_migrations (s : State) (f : Crown → Crown) : (s.modCrown f).migrations = s.migrations := rfl
@[simp] theorem State.modCrown_resvs (s : State) (f : Crown → Crown) : (s.modCrown f).resvs = s.resvs := rfl
@[simp] theorem State.modCrown_budsOut (s : State) (f : Crown → Crown) : (s.modCrown f).budsOut = s.budsOut := rfl
@[simp] theorem State.modCrown_returns (s : State) (f : Crown → Crown) : (s.modCrown f).returns = s.returns := rfl
@[simp] theorem State.modCrown_closes (s : State) (f : Crown → Crown) : (s.modCrown f).closes = s.closes := rfl
@[simp] theorem State.modCrown_crown (s : State) (f : Crown → Crown) : (s.modCrown f).crown = f s.crown := rfl

/-! `State.post` -/

@[simp] theorem State.post_cycle (s : State) (e : Event) : (s.post e).cycle = s.cycle := rfl
@[simp] theorem State.post_cur (s : State) (e : Event) : (s.post e).cur = s.cur := rfl
@[simp] theorem State.post_schedule (s : State) (e : Event) : (s.post e).schedule = s.schedule := rfl
@[simp] theorem State.post_fresh (s : State) (e : Event) : (s.post e).fresh = s.fresh := rfl
@[simp] theorem State.post_nextId (s : State) (e : Event) : (s.post e).nextId = s.nextId := rfl
@[simp] theorem State.post_hbm (s : State) (e : Event) : (s.post e).hbm = s.hbm := rfl
@[simp] theorem State.post_hbmTag (s : State) (e : Event) : (s.post e).hbmTag = s.hbmTag := rfl
@[simp] theorem State.post_noise (s : State) (e : Event) : (s.post e).noise = s.noise := rfl
@[simp] theorem State.post_poison (s : State) (e : Event) : (s.post e).poison = s.poison := rfl
@[simp] theorem State.post_hostMem (s : State) (e : Event) : (s.post e).hostMem = s.hostMem := rfl
@[simp] theorem State.post_modMem (s : State) (e : Event) : (s.post e).modMem = s.modMem := rfl
@[simp] theorem State.post_modTag (s : State) (e : Event) : (s.post e).modTag = s.modTag := rfl
@[simp] theorem State.post_modPoison (s : State) (e : Event) : (s.post e).modPoison = s.modPoison := rfl
@[simp] theorem State.post_podCopies (s : State) (e : Event) : (s.post e).podCopies = s.podCopies := rfl
@[simp] theorem State.post_sram (s : State) (e : Event) : (s.post e).sram = s.sram := rfl
@[simp] theorem State.post_sramTag (s : State) (e : Event) : (s.post e).sramTag = s.sramTag := rfl
@[simp] theorem State.post_sramPoison (s : State) (e : Event) : (s.post e).sramPoison = s.sramPoison := rfl
@[simp] theorem State.post_lines (s : State) (e : Event) : (s.post e).lines = s.lines := rfl
@[simp] theorem State.post_lineFloor (s : State) (e : Event) : (s.post e).lineFloor = s.lineFloor := rfl
@[simp] theorem State.post_cores (s : State) (e : Event) : (s.post e).cores = s.cores := rfl
@[simp] theorem State.post_groves (s : State) (e : Event) : (s.post e).groves = s.groves := rfl
@[simp] theorem State.post_dies (s : State) (e : Event) : (s.post e).dies = s.dies := rfl
@[simp] theorem State.post_parts (s : State) (e : Event) : (s.post e).parts = s.parts := rfl
@[simp] theorem State.post_tasks (s : State) (e : Event) : (s.post e).tasks = s.tasks := rfl
@[simp] theorem State.post_clusters (s : State) (e : Event) : (s.post e).clusters = s.clusters := rfl
@[simp] theorem State.post_groups (s : State) (e : Event) : (s.post e).groups = s.groups := rfl
@[simp] theorem State.post_streams (s : State) (e : Event) : (s.post e).streams = s.streams := rfl
@[simp] theorem State.post_heads (s : State) (e : Event) : (s.post e).heads = s.heads := rfl
@[simp] theorem State.post_graphs (s : State) (e : Event) : (s.post e).graphs = s.graphs := rfl
@[simp] theorem State.post_roots (s : State) (e : Event) : (s.post e).roots = s.roots := rfl
@[simp] theorem State.post_hbmCtl (s : State) (e : Event) : (s.post e).hbmCtl = s.hbmCtl := rfl
@[simp] theorem State.post_migrations (s : State) (e : Event) : (s.post e).migrations = s.migrations := rfl
@[simp] theorem State.post_resvs (s : State) (e : Event) : (s.post e).resvs = s.resvs := rfl
@[simp] theorem State.post_budsOut (s : State) (e : Event) : (s.post e).budsOut = s.budsOut := rfl
@[simp] theorem State.post_returns (s : State) (e : Event) : (s.post e).returns = s.returns := rfl
@[simp] theorem State.post_closes (s : State) (e : Event) : (s.post e).closes = s.closes := rfl

/-! `State.answer` -/

@[simp] theorem State.answer_cycle (s : State) (d : List Nat) : (s.answer d).cycle = s.cycle := rfl
@[simp] theorem State.answer_cur (s : State) (d : List Nat) : (s.answer d).cur = s.cur := rfl
@[simp] theorem State.answer_schedule (s : State) (d : List Nat) : (s.answer d).schedule = s.schedule := rfl
@[simp] theorem State.answer_fresh (s : State) (d : List Nat) : (s.answer d).fresh = s.fresh := rfl
@[simp] theorem State.answer_nextId (s : State) (d : List Nat) : (s.answer d).nextId = s.nextId := rfl
@[simp] theorem State.answer_hbm (s : State) (d : List Nat) : (s.answer d).hbm = s.hbm := rfl
@[simp] theorem State.answer_hbmTag (s : State) (d : List Nat) : (s.answer d).hbmTag = s.hbmTag := rfl
@[simp] theorem State.answer_noise (s : State) (d : List Nat) : (s.answer d).noise = s.noise := rfl
@[simp] theorem State.answer_poison (s : State) (d : List Nat) : (s.answer d).poison = s.poison := rfl
@[simp] theorem State.answer_hostMem (s : State) (d : List Nat) : (s.answer d).hostMem = s.hostMem := rfl
@[simp] theorem State.answer_modMem (s : State) (d : List Nat) : (s.answer d).modMem = s.modMem := rfl
@[simp] theorem State.answer_modTag (s : State) (d : List Nat) : (s.answer d).modTag = s.modTag := rfl
@[simp] theorem State.answer_modPoison (s : State) (d : List Nat) : (s.answer d).modPoison = s.modPoison := rfl
@[simp] theorem State.answer_podCopies (s : State) (d : List Nat) : (s.answer d).podCopies = s.podCopies := rfl
@[simp] theorem State.answer_sram (s : State) (d : List Nat) : (s.answer d).sram = s.sram := rfl
@[simp] theorem State.answer_sramTag (s : State) (d : List Nat) : (s.answer d).sramTag = s.sramTag := rfl
@[simp] theorem State.answer_sramPoison (s : State) (d : List Nat) : (s.answer d).sramPoison = s.sramPoison := rfl
@[simp] theorem State.answer_lines (s : State) (d : List Nat) : (s.answer d).lines = s.lines := rfl
@[simp] theorem State.answer_lineFloor (s : State) (d : List Nat) : (s.answer d).lineFloor = s.lineFloor := rfl
@[simp] theorem State.answer_cores (s : State) (d : List Nat) : (s.answer d).cores = s.cores := rfl
@[simp] theorem State.answer_groves (s : State) (d : List Nat) : (s.answer d).groves = s.groves := rfl
@[simp] theorem State.answer_dies (s : State) (d : List Nat) : (s.answer d).dies = s.dies := rfl
@[simp] theorem State.answer_parts (s : State) (d : List Nat) : (s.answer d).parts = s.parts := rfl
@[simp] theorem State.answer_tasks (s : State) (d : List Nat) : (s.answer d).tasks = s.tasks := rfl
@[simp] theorem State.answer_clusters (s : State) (d : List Nat) : (s.answer d).clusters = s.clusters := rfl
@[simp] theorem State.answer_groups (s : State) (d : List Nat) : (s.answer d).groups = s.groups := rfl
@[simp] theorem State.answer_streams (s : State) (d : List Nat) : (s.answer d).streams = s.streams := rfl
@[simp] theorem State.answer_heads (s : State) (d : List Nat) : (s.answer d).heads = s.heads := rfl
@[simp] theorem State.answer_graphs (s : State) (d : List Nat) : (s.answer d).graphs = s.graphs := rfl
@[simp] theorem State.answer_roots (s : State) (d : List Nat) : (s.answer d).roots = s.roots := rfl
@[simp] theorem State.answer_hbmCtl (s : State) (d : List Nat) : (s.answer d).hbmCtl = s.hbmCtl := rfl
@[simp] theorem State.answer_migrations (s : State) (d : List Nat) : (s.answer d).migrations = s.migrations := rfl
@[simp] theorem State.answer_resvs (s : State) (d : List Nat) : (s.answer d).resvs = s.resvs := rfl
@[simp] theorem State.answer_budsOut (s : State) (d : List Nat) : (s.answer d).budsOut = s.budsOut := rfl
@[simp] theorem State.answer_returns (s : State) (d : List Nat) : (s.answer d).returns = s.returns := rfl
@[simp] theorem State.answer_closes (s : State) (d : List Nat) : (s.answer d).closes = s.closes := rfl

/-! `State.refuse` -/

@[simp] theorem State.refuse_cycle (s : State) (c : Code) : (s.refuse c).cycle = s.cycle := rfl
@[simp] theorem State.refuse_cur (s : State) (c : Code) : (s.refuse c).cur = s.cur := rfl
@[simp] theorem State.refuse_schedule (s : State) (c : Code) : (s.refuse c).schedule = s.schedule := rfl
@[simp] theorem State.refuse_fresh (s : State) (c : Code) : (s.refuse c).fresh = s.fresh := rfl
@[simp] theorem State.refuse_nextId (s : State) (c : Code) : (s.refuse c).nextId = s.nextId := rfl
@[simp] theorem State.refuse_hbm (s : State) (c : Code) : (s.refuse c).hbm = s.hbm := rfl
@[simp] theorem State.refuse_hbmTag (s : State) (c : Code) : (s.refuse c).hbmTag = s.hbmTag := rfl
@[simp] theorem State.refuse_noise (s : State) (c : Code) : (s.refuse c).noise = s.noise := rfl
@[simp] theorem State.refuse_poison (s : State) (c : Code) : (s.refuse c).poison = s.poison := rfl
@[simp] theorem State.refuse_hostMem (s : State) (c : Code) : (s.refuse c).hostMem = s.hostMem := rfl
@[simp] theorem State.refuse_modMem (s : State) (c : Code) : (s.refuse c).modMem = s.modMem := rfl
@[simp] theorem State.refuse_modTag (s : State) (c : Code) : (s.refuse c).modTag = s.modTag := rfl
@[simp] theorem State.refuse_modPoison (s : State) (c : Code) : (s.refuse c).modPoison = s.modPoison := rfl
@[simp] theorem State.refuse_podCopies (s : State) (c : Code) : (s.refuse c).podCopies = s.podCopies := rfl
@[simp] theorem State.refuse_sram (s : State) (c : Code) : (s.refuse c).sram = s.sram := rfl
@[simp] theorem State.refuse_sramTag (s : State) (c : Code) : (s.refuse c).sramTag = s.sramTag := rfl
@[simp] theorem State.refuse_sramPoison (s : State) (c : Code) : (s.refuse c).sramPoison = s.sramPoison := rfl
@[simp] theorem State.refuse_lines (s : State) (c : Code) : (s.refuse c).lines = s.lines := rfl
@[simp] theorem State.refuse_lineFloor (s : State) (c : Code) : (s.refuse c).lineFloor = s.lineFloor := rfl
@[simp] theorem State.refuse_cores (s : State) (c : Code) : (s.refuse c).cores = s.cores := rfl
@[simp] theorem State.refuse_groves (s : State) (c : Code) : (s.refuse c).groves = s.groves := rfl
@[simp] theorem State.refuse_dies (s : State) (c : Code) : (s.refuse c).dies = s.dies := rfl
@[simp] theorem State.refuse_parts (s : State) (c : Code) : (s.refuse c).parts = s.parts := rfl
@[simp] theorem State.refuse_tasks (s : State) (c : Code) : (s.refuse c).tasks = s.tasks := rfl
@[simp] theorem State.refuse_clusters (s : State) (c : Code) : (s.refuse c).clusters = s.clusters := rfl
@[simp] theorem State.refuse_groups (s : State) (c : Code) : (s.refuse c).groups = s.groups := rfl
@[simp] theorem State.refuse_streams (s : State) (c : Code) : (s.refuse c).streams = s.streams := rfl
@[simp] theorem State.refuse_heads (s : State) (c : Code) : (s.refuse c).heads = s.heads := rfl
@[simp] theorem State.refuse_graphs (s : State) (c : Code) : (s.refuse c).graphs = s.graphs := rfl
@[simp] theorem State.refuse_roots (s : State) (c : Code) : (s.refuse c).roots = s.roots := rfl
@[simp] theorem State.refuse_hbmCtl (s : State) (c : Code) : (s.refuse c).hbmCtl = s.hbmCtl := rfl
@[simp] theorem State.refuse_migrations (s : State) (c : Code) : (s.refuse c).migrations = s.migrations := rfl
@[simp] theorem State.refuse_resvs (s : State) (c : Code) : (s.refuse c).resvs = s.resvs := rfl
@[simp] theorem State.refuse_budsOut (s : State) (c : Code) : (s.refuse c).budsOut = s.budsOut := rfl
@[simp] theorem State.refuse_returns (s : State) (c : Code) : (s.refuse c).returns = s.returns := rfl
@[simp] theorem State.refuse_closes (s : State) (c : Code) : (s.refuse c).closes = s.closes := rfl

/-! `State.modWg` -/

@[simp] theorem State.modWg_cycle (s : State) (c w : Nat) (f : Wg → Wg) : (s.modWg c w f).cycle = s.cycle := rfl
@[simp] theorem State.modWg_cur (s : State) (c w : Nat) (f : Wg → Wg) : (s.modWg c w f).cur = s.cur := rfl
@[simp] theorem State.modWg_schedule (s : State) (c w : Nat) (f : Wg → Wg) : (s.modWg c w f).schedule = s.schedule := rfl
@[simp] theorem State.modWg_fresh (s : State) (c w : Nat) (f : Wg → Wg) : (s.modWg c w f).fresh = s.fresh := rfl
@[simp] theorem State.modWg_nextId (s : State) (c w : Nat) (f : Wg → Wg) : (s.modWg c w f).nextId = s.nextId := rfl
@[simp] theorem State.modWg_hbm (s : State) (c w : Nat) (f : Wg → Wg) : (s.modWg c w f).hbm = s.hbm := rfl
@[simp] theorem State.modWg_hbmTag (s : State) (c w : Nat) (f : Wg → Wg) : (s.modWg c w f).hbmTag = s.hbmTag := rfl
@[simp] theorem State.modWg_noise (s : State) (c w : Nat) (f : Wg → Wg) : (s.modWg c w f).noise = s.noise := rfl
@[simp] theorem State.modWg_poison (s : State) (c w : Nat) (f : Wg → Wg) : (s.modWg c w f).poison = s.poison := rfl
@[simp] theorem State.modWg_hostMem (s : State) (c w : Nat) (f : Wg → Wg) : (s.modWg c w f).hostMem = s.hostMem := rfl
@[simp] theorem State.modWg_modMem (s : State) (c w : Nat) (f : Wg → Wg) : (s.modWg c w f).modMem = s.modMem := rfl
@[simp] theorem State.modWg_modTag (s : State) (c w : Nat) (f : Wg → Wg) : (s.modWg c w f).modTag = s.modTag := rfl
@[simp] theorem State.modWg_modPoison (s : State) (c w : Nat) (f : Wg → Wg) : (s.modWg c w f).modPoison = s.modPoison := rfl
@[simp] theorem State.modWg_podCopies (s : State) (c w : Nat) (f : Wg → Wg) : (s.modWg c w f).podCopies = s.podCopies := rfl
@[simp] theorem State.modWg_sram (s : State) (c w : Nat) (f : Wg → Wg) : (s.modWg c w f).sram = s.sram := rfl
@[simp] theorem State.modWg_sramTag (s : State) (c w : Nat) (f : Wg → Wg) : (s.modWg c w f).sramTag = s.sramTag := rfl
@[simp] theorem State.modWg_sramPoison (s : State) (c w : Nat) (f : Wg → Wg) : (s.modWg c w f).sramPoison = s.sramPoison := rfl
@[simp] theorem State.modWg_lines (s : State) (c w : Nat) (f : Wg → Wg) : (s.modWg c w f).lines = s.lines := rfl
@[simp] theorem State.modWg_lineFloor (s : State) (c w : Nat) (f : Wg → Wg) : (s.modWg c w f).lineFloor = s.lineFloor := rfl
@[simp] theorem State.modWg_cores (s : State) (c w : Nat) (f : Wg → Wg) : (s.modWg c w f).cores = s.cores := rfl
@[simp] theorem State.modWg_groves (s : State) (c w : Nat) (f : Wg → Wg) : (s.modWg c w f).groves = s.groves := rfl
@[simp] theorem State.modWg_dies (s : State) (c w : Nat) (f : Wg → Wg) : (s.modWg c w f).dies = s.dies := rfl
@[simp] theorem State.modWg_parts (s : State) (c w : Nat) (f : Wg → Wg) : (s.modWg c w f).parts = s.parts := rfl
@[simp] theorem State.modWg_tasks (s : State) (c w : Nat) (f : Wg → Wg) : (s.modWg c w f).tasks = s.tasks := rfl
@[simp] theorem State.modWg_groups (s : State) (c w : Nat) (f : Wg → Wg) : (s.modWg c w f).groups = s.groups := rfl
@[simp] theorem State.modWg_streams (s : State) (c w : Nat) (f : Wg → Wg) : (s.modWg c w f).streams = s.streams := rfl
@[simp] theorem State.modWg_heads (s : State) (c w : Nat) (f : Wg → Wg) : (s.modWg c w f).heads = s.heads := rfl
@[simp] theorem State.modWg_graphs (s : State) (c w : Nat) (f : Wg → Wg) : (s.modWg c w f).graphs = s.graphs := rfl
@[simp] theorem State.modWg_roots (s : State) (c w : Nat) (f : Wg → Wg) : (s.modWg c w f).roots = s.roots := rfl
@[simp] theorem State.modWg_hbmCtl (s : State) (c w : Nat) (f : Wg → Wg) : (s.modWg c w f).hbmCtl = s.hbmCtl := rfl
@[simp] theorem State.modWg_migrations (s : State) (c w : Nat) (f : Wg → Wg) : (s.modWg c w f).migrations = s.migrations := rfl
@[simp] theorem State.modWg_resvs (s : State) (c w : Nat) (f : Wg → Wg) : (s.modWg c w f).resvs = s.resvs := rfl
@[simp] theorem State.modWg_budsOut (s : State) (c w : Nat) (f : Wg → Wg) : (s.modWg c w f).budsOut = s.budsOut := rfl
@[simp] theorem State.modWg_returns (s : State) (c w : Nat) (f : Wg → Wg) : (s.modWg c w f).returns = s.returns := rfl
@[simp] theorem State.modWg_closes (s : State) (c w : Nat) (f : Wg → Wg) : (s.modWg c w f).closes = s.closes := rfl
@[simp] theorem State.modWg_crown (s : State) (c w : Nat) (f : Wg → Wg) : (s.modWg c w f).crown = s.crown := rfl

/-! `State.modBank` -/

@[simp] theorem State.modBank_cycle (s : State) (g b : Nat) (f : Bank → Bank) : (s.modBank g b f).cycle = s.cycle := rfl
@[simp] theorem State.modBank_cur (s : State) (g b : Nat) (f : Bank → Bank) : (s.modBank g b f).cur = s.cur := rfl
@[simp] theorem State.modBank_schedule (s : State) (g b : Nat) (f : Bank → Bank) : (s.modBank g b f).schedule = s.schedule := rfl
@[simp] theorem State.modBank_fresh (s : State) (g b : Nat) (f : Bank → Bank) : (s.modBank g b f).fresh = s.fresh := rfl
@[simp] theorem State.modBank_nextId (s : State) (g b : Nat) (f : Bank → Bank) : (s.modBank g b f).nextId = s.nextId := rfl
@[simp] theorem State.modBank_hbm (s : State) (g b : Nat) (f : Bank → Bank) : (s.modBank g b f).hbm = s.hbm := rfl
@[simp] theorem State.modBank_hbmTag (s : State) (g b : Nat) (f : Bank → Bank) : (s.modBank g b f).hbmTag = s.hbmTag := rfl
@[simp] theorem State.modBank_noise (s : State) (g b : Nat) (f : Bank → Bank) : (s.modBank g b f).noise = s.noise := rfl
@[simp] theorem State.modBank_poison (s : State) (g b : Nat) (f : Bank → Bank) : (s.modBank g b f).poison = s.poison := rfl
@[simp] theorem State.modBank_hostMem (s : State) (g b : Nat) (f : Bank → Bank) : (s.modBank g b f).hostMem = s.hostMem := rfl
@[simp] theorem State.modBank_modMem (s : State) (g b : Nat) (f : Bank → Bank) : (s.modBank g b f).modMem = s.modMem := rfl
@[simp] theorem State.modBank_modTag (s : State) (g b : Nat) (f : Bank → Bank) : (s.modBank g b f).modTag = s.modTag := rfl
@[simp] theorem State.modBank_modPoison (s : State) (g b : Nat) (f : Bank → Bank) : (s.modBank g b f).modPoison = s.modPoison := rfl
@[simp] theorem State.modBank_podCopies (s : State) (g b : Nat) (f : Bank → Bank) : (s.modBank g b f).podCopies = s.podCopies := rfl
@[simp] theorem State.modBank_sram (s : State) (g b : Nat) (f : Bank → Bank) : (s.modBank g b f).sram = s.sram := rfl
@[simp] theorem State.modBank_sramTag (s : State) (g b : Nat) (f : Bank → Bank) : (s.modBank g b f).sramTag = s.sramTag := rfl
@[simp] theorem State.modBank_sramPoison (s : State) (g b : Nat) (f : Bank → Bank) : (s.modBank g b f).sramPoison = s.sramPoison := rfl
@[simp] theorem State.modBank_lines (s : State) (g b : Nat) (f : Bank → Bank) : (s.modBank g b f).lines = s.lines := rfl
@[simp] theorem State.modBank_lineFloor (s : State) (g b : Nat) (f : Bank → Bank) : (s.modBank g b f).lineFloor = s.lineFloor := rfl
@[simp] theorem State.modBank_cores (s : State) (g b : Nat) (f : Bank → Bank) : (s.modBank g b f).cores = s.cores := rfl
@[simp] theorem State.modBank_dies (s : State) (g b : Nat) (f : Bank → Bank) : (s.modBank g b f).dies = s.dies := rfl
@[simp] theorem State.modBank_parts (s : State) (g b : Nat) (f : Bank → Bank) : (s.modBank g b f).parts = s.parts := rfl
@[simp] theorem State.modBank_tasks (s : State) (g b : Nat) (f : Bank → Bank) : (s.modBank g b f).tasks = s.tasks := rfl
@[simp] theorem State.modBank_clusters (s : State) (g b : Nat) (f : Bank → Bank) : (s.modBank g b f).clusters = s.clusters := rfl
@[simp] theorem State.modBank_groups (s : State) (g b : Nat) (f : Bank → Bank) : (s.modBank g b f).groups = s.groups := rfl
@[simp] theorem State.modBank_streams (s : State) (g b : Nat) (f : Bank → Bank) : (s.modBank g b f).streams = s.streams := rfl
@[simp] theorem State.modBank_heads (s : State) (g b : Nat) (f : Bank → Bank) : (s.modBank g b f).heads = s.heads := rfl
@[simp] theorem State.modBank_graphs (s : State) (g b : Nat) (f : Bank → Bank) : (s.modBank g b f).graphs = s.graphs := rfl
@[simp] theorem State.modBank_roots (s : State) (g b : Nat) (f : Bank → Bank) : (s.modBank g b f).roots = s.roots := rfl
@[simp] theorem State.modBank_hbmCtl (s : State) (g b : Nat) (f : Bank → Bank) : (s.modBank g b f).hbmCtl = s.hbmCtl := rfl
@[simp] theorem State.modBank_migrations (s : State) (g b : Nat) (f : Bank → Bank) : (s.modBank g b f).migrations = s.migrations := rfl
@[simp] theorem State.modBank_resvs (s : State) (g b : Nat) (f : Bank → Bank) : (s.modBank g b f).resvs = s.resvs := rfl
@[simp] theorem State.modBank_budsOut (s : State) (g b : Nat) (f : Bank → Bank) : (s.modBank g b f).budsOut = s.budsOut := rfl
@[simp] theorem State.modBank_returns (s : State) (g b : Nat) (f : Bank → Bank) : (s.modBank g b f).returns = s.returns := rfl
@[simp] theorem State.modBank_closes (s : State) (g b : Nat) (f : Bank → Bank) : (s.modBank g b f).closes = s.closes := rfl
@[simp] theorem State.modBank_crown (s : State) (g b : Nat) (f : Bank → Bank) : (s.modBank g b f).crown = s.crown := rfl

/-! `State.setQueue` -/

@[simp] theorem State.setQueue_cycle (s : State) (g q : Nat) (l : List QEntry) : (s.setQueue g q l).cycle = s.cycle := rfl
@[simp] theorem State.setQueue_cur (s : State) (g q : Nat) (l : List QEntry) : (s.setQueue g q l).cur = s.cur := rfl
@[simp] theorem State.setQueue_schedule (s : State) (g q : Nat) (l : List QEntry) : (s.setQueue g q l).schedule = s.schedule := rfl
@[simp] theorem State.setQueue_fresh (s : State) (g q : Nat) (l : List QEntry) : (s.setQueue g q l).fresh = s.fresh := rfl
@[simp] theorem State.setQueue_nextId (s : State) (g q : Nat) (l : List QEntry) : (s.setQueue g q l).nextId = s.nextId := rfl
@[simp] theorem State.setQueue_hbm (s : State) (g q : Nat) (l : List QEntry) : (s.setQueue g q l).hbm = s.hbm := rfl
@[simp] theorem State.setQueue_hbmTag (s : State) (g q : Nat) (l : List QEntry) : (s.setQueue g q l).hbmTag = s.hbmTag := rfl
@[simp] theorem State.setQueue_noise (s : State) (g q : Nat) (l : List QEntry) : (s.setQueue g q l).noise = s.noise := rfl
@[simp] theorem State.setQueue_poison (s : State) (g q : Nat) (l : List QEntry) : (s.setQueue g q l).poison = s.poison := rfl
@[simp] theorem State.setQueue_hostMem (s : State) (g q : Nat) (l : List QEntry) : (s.setQueue g q l).hostMem = s.hostMem := rfl
@[simp] theorem State.setQueue_modMem (s : State) (g q : Nat) (l : List QEntry) : (s.setQueue g q l).modMem = s.modMem := rfl
@[simp] theorem State.setQueue_modTag (s : State) (g q : Nat) (l : List QEntry) : (s.setQueue g q l).modTag = s.modTag := rfl
@[simp] theorem State.setQueue_modPoison (s : State) (g q : Nat) (l : List QEntry) : (s.setQueue g q l).modPoison = s.modPoison := rfl
@[simp] theorem State.setQueue_podCopies (s : State) (g q : Nat) (l : List QEntry) : (s.setQueue g q l).podCopies = s.podCopies := rfl
@[simp] theorem State.setQueue_sram (s : State) (g q : Nat) (l : List QEntry) : (s.setQueue g q l).sram = s.sram := rfl
@[simp] theorem State.setQueue_sramTag (s : State) (g q : Nat) (l : List QEntry) : (s.setQueue g q l).sramTag = s.sramTag := rfl
@[simp] theorem State.setQueue_sramPoison (s : State) (g q : Nat) (l : List QEntry) : (s.setQueue g q l).sramPoison = s.sramPoison := rfl
@[simp] theorem State.setQueue_lines (s : State) (g q : Nat) (l : List QEntry) : (s.setQueue g q l).lines = s.lines := rfl
@[simp] theorem State.setQueue_lineFloor (s : State) (g q : Nat) (l : List QEntry) : (s.setQueue g q l).lineFloor = s.lineFloor := rfl
@[simp] theorem State.setQueue_cores (s : State) (g q : Nat) (l : List QEntry) : (s.setQueue g q l).cores = s.cores := rfl
@[simp] theorem State.setQueue_dies (s : State) (g q : Nat) (l : List QEntry) : (s.setQueue g q l).dies = s.dies := rfl
@[simp] theorem State.setQueue_parts (s : State) (g q : Nat) (l : List QEntry) : (s.setQueue g q l).parts = s.parts := rfl
@[simp] theorem State.setQueue_tasks (s : State) (g q : Nat) (l : List QEntry) : (s.setQueue g q l).tasks = s.tasks := rfl
@[simp] theorem State.setQueue_clusters (s : State) (g q : Nat) (l : List QEntry) : (s.setQueue g q l).clusters = s.clusters := rfl
@[simp] theorem State.setQueue_groups (s : State) (g q : Nat) (l : List QEntry) : (s.setQueue g q l).groups = s.groups := rfl
@[simp] theorem State.setQueue_streams (s : State) (g q : Nat) (l : List QEntry) : (s.setQueue g q l).streams = s.streams := rfl
@[simp] theorem State.setQueue_heads (s : State) (g q : Nat) (l : List QEntry) : (s.setQueue g q l).heads = s.heads := rfl
@[simp] theorem State.setQueue_graphs (s : State) (g q : Nat) (l : List QEntry) : (s.setQueue g q l).graphs = s.graphs := rfl
@[simp] theorem State.setQueue_roots (s : State) (g q : Nat) (l : List QEntry) : (s.setQueue g q l).roots = s.roots := rfl
@[simp] theorem State.setQueue_hbmCtl (s : State) (g q : Nat) (l : List QEntry) : (s.setQueue g q l).hbmCtl = s.hbmCtl := rfl
@[simp] theorem State.setQueue_migrations (s : State) (g q : Nat) (l : List QEntry) : (s.setQueue g q l).migrations = s.migrations := rfl
@[simp] theorem State.setQueue_resvs (s : State) (g q : Nat) (l : List QEntry) : (s.setQueue g q l).resvs = s.resvs := rfl
@[simp] theorem State.setQueue_budsOut (s : State) (g q : Nat) (l : List QEntry) : (s.setQueue g q l).budsOut = s.budsOut := rfl
@[simp] theorem State.setQueue_returns (s : State) (g q : Nat) (l : List QEntry) : (s.setQueue g q l).returns = s.returns := rfl
@[simp] theorem State.setQueue_closes (s : State) (g q : Nat) (l : List QEntry) : (s.setQueue g q l).closes = s.closes := rfl
@[simp] theorem State.setQueue_crown (s : State) (g q : Nat) (l : List QEntry) : (s.setQueue g q l).crown = s.crown := rfl

/-! `State.hostWrite` -/

@[simp] theorem State.hostWrite_cycle (s : State) (ws : List (Nat × Byte)) : (s.hostWrite ws).cycle = s.cycle := rfl
@[simp] theorem State.hostWrite_cur (s : State) (ws : List (Nat × Byte)) : (s.hostWrite ws).cur = s.cur := rfl
@[simp] theorem State.hostWrite_schedule (s : State) (ws : List (Nat × Byte)) : (s.hostWrite ws).schedule = s.schedule := rfl
@[simp] theorem State.hostWrite_fresh (s : State) (ws : List (Nat × Byte)) : (s.hostWrite ws).fresh = s.fresh := rfl
@[simp] theorem State.hostWrite_nextId (s : State) (ws : List (Nat × Byte)) : (s.hostWrite ws).nextId = s.nextId := rfl
@[simp] theorem State.hostWrite_hbm (s : State) (ws : List (Nat × Byte)) : (s.hostWrite ws).hbm = s.hbm := rfl
@[simp] theorem State.hostWrite_hbmTag (s : State) (ws : List (Nat × Byte)) : (s.hostWrite ws).hbmTag = s.hbmTag := rfl
@[simp] theorem State.hostWrite_noise (s : State) (ws : List (Nat × Byte)) : (s.hostWrite ws).noise = s.noise := rfl
@[simp] theorem State.hostWrite_poison (s : State) (ws : List (Nat × Byte)) : (s.hostWrite ws).poison = s.poison := rfl
@[simp] theorem State.hostWrite_modMem (s : State) (ws : List (Nat × Byte)) : (s.hostWrite ws).modMem = s.modMem := rfl
@[simp] theorem State.hostWrite_modTag (s : State) (ws : List (Nat × Byte)) : (s.hostWrite ws).modTag = s.modTag := rfl
@[simp] theorem State.hostWrite_modPoison (s : State) (ws : List (Nat × Byte)) : (s.hostWrite ws).modPoison = s.modPoison := rfl
@[simp] theorem State.hostWrite_podCopies (s : State) (ws : List (Nat × Byte)) : (s.hostWrite ws).podCopies = s.podCopies := rfl
@[simp] theorem State.hostWrite_sram (s : State) (ws : List (Nat × Byte)) : (s.hostWrite ws).sram = s.sram := rfl
@[simp] theorem State.hostWrite_sramTag (s : State) (ws : List (Nat × Byte)) : (s.hostWrite ws).sramTag = s.sramTag := rfl
@[simp] theorem State.hostWrite_sramPoison (s : State) (ws : List (Nat × Byte)) : (s.hostWrite ws).sramPoison = s.sramPoison := rfl
@[simp] theorem State.hostWrite_lines (s : State) (ws : List (Nat × Byte)) : (s.hostWrite ws).lines = s.lines := rfl
@[simp] theorem State.hostWrite_lineFloor (s : State) (ws : List (Nat × Byte)) : (s.hostWrite ws).lineFloor = s.lineFloor := rfl
@[simp] theorem State.hostWrite_cores (s : State) (ws : List (Nat × Byte)) : (s.hostWrite ws).cores = s.cores := rfl
@[simp] theorem State.hostWrite_groves (s : State) (ws : List (Nat × Byte)) : (s.hostWrite ws).groves = s.groves := rfl
@[simp] theorem State.hostWrite_dies (s : State) (ws : List (Nat × Byte)) : (s.hostWrite ws).dies = s.dies := rfl
@[simp] theorem State.hostWrite_parts (s : State) (ws : List (Nat × Byte)) : (s.hostWrite ws).parts = s.parts := rfl
@[simp] theorem State.hostWrite_tasks (s : State) (ws : List (Nat × Byte)) : (s.hostWrite ws).tasks = s.tasks := rfl
@[simp] theorem State.hostWrite_clusters (s : State) (ws : List (Nat × Byte)) : (s.hostWrite ws).clusters = s.clusters := rfl
@[simp] theorem State.hostWrite_groups (s : State) (ws : List (Nat × Byte)) : (s.hostWrite ws).groups = s.groups := rfl
@[simp] theorem State.hostWrite_streams (s : State) (ws : List (Nat × Byte)) : (s.hostWrite ws).streams = s.streams := rfl
@[simp] theorem State.hostWrite_heads (s : State) (ws : List (Nat × Byte)) : (s.hostWrite ws).heads = s.heads := rfl
@[simp] theorem State.hostWrite_graphs (s : State) (ws : List (Nat × Byte)) : (s.hostWrite ws).graphs = s.graphs := rfl
@[simp] theorem State.hostWrite_roots (s : State) (ws : List (Nat × Byte)) : (s.hostWrite ws).roots = s.roots := rfl
@[simp] theorem State.hostWrite_hbmCtl (s : State) (ws : List (Nat × Byte)) : (s.hostWrite ws).hbmCtl = s.hbmCtl := rfl
@[simp] theorem State.hostWrite_migrations (s : State) (ws : List (Nat × Byte)) : (s.hostWrite ws).migrations = s.migrations := rfl
@[simp] theorem State.hostWrite_resvs (s : State) (ws : List (Nat × Byte)) : (s.hostWrite ws).resvs = s.resvs := rfl
@[simp] theorem State.hostWrite_budsOut (s : State) (ws : List (Nat × Byte)) : (s.hostWrite ws).budsOut = s.budsOut := rfl
@[simp] theorem State.hostWrite_returns (s : State) (ws : List (Nat × Byte)) : (s.hostWrite ws).returns = s.returns := rfl
@[simp] theorem State.hostWrite_closes (s : State) (ws : List (Nat × Byte)) : (s.hostWrite ws).closes = s.closes := rfl
@[simp] theorem State.hostWrite_crown (s : State) (ws : List (Nat × Byte)) : (s.hostWrite ws).crown = s.crown := rfl

/-! `State.loseLines` -/

@[simp] theorem State.loseLines_cycle (s : State) (ls : List Nat) : (s.loseLines ls).cycle = s.cycle := rfl
@[simp] theorem State.loseLines_cur (s : State) (ls : List Nat) : (s.loseLines ls).cur = s.cur := rfl
@[simp] theorem State.loseLines_schedule (s : State) (ls : List Nat) : (s.loseLines ls).schedule = s.schedule := rfl
@[simp] theorem State.loseLines_fresh (s : State) (ls : List Nat) : (s.loseLines ls).fresh = s.fresh := rfl
@[simp] theorem State.loseLines_nextId (s : State) (ls : List Nat) : (s.loseLines ls).nextId = s.nextId := rfl
@[simp] theorem State.loseLines_hbm (s : State) (ls : List Nat) : (s.loseLines ls).hbm = s.hbm := rfl
@[simp] theorem State.loseLines_hbmTag (s : State) (ls : List Nat) : (s.loseLines ls).hbmTag = s.hbmTag := rfl
@[simp] theorem State.loseLines_noise (s : State) (ls : List Nat) : (s.loseLines ls).noise = s.noise := rfl
@[simp] theorem State.loseLines_poison (s : State) (ls : List Nat) : (s.loseLines ls).poison = s.poison := rfl
@[simp] theorem State.loseLines_hostMem (s : State) (ls : List Nat) : (s.loseLines ls).hostMem = s.hostMem := rfl
@[simp] theorem State.loseLines_modMem (s : State) (ls : List Nat) : (s.loseLines ls).modMem = s.modMem := rfl
@[simp] theorem State.loseLines_modTag (s : State) (ls : List Nat) : (s.loseLines ls).modTag = s.modTag := rfl
@[simp] theorem State.loseLines_modPoison (s : State) (ls : List Nat) : (s.loseLines ls).modPoison = s.modPoison := rfl
@[simp] theorem State.loseLines_podCopies (s : State) (ls : List Nat) : (s.loseLines ls).podCopies = s.podCopies := rfl
@[simp] theorem State.loseLines_sram (s : State) (ls : List Nat) : (s.loseLines ls).sram = s.sram := rfl
@[simp] theorem State.loseLines_sramTag (s : State) (ls : List Nat) : (s.loseLines ls).sramTag = s.sramTag := rfl
@[simp] theorem State.loseLines_sramPoison (s : State) (ls : List Nat) : (s.loseLines ls).sramPoison = s.sramPoison := rfl
@[simp] theorem State.loseLines_lines (s : State) (ls : List Nat) : (s.loseLines ls).lines = s.lines := rfl
@[simp] theorem State.loseLines_lineFloor (s : State) (ls : List Nat) : (s.loseLines ls).lineFloor = s.lineFloor := rfl
@[simp] theorem State.loseLines_cores (s : State) (ls : List Nat) : (s.loseLines ls).cores = s.cores := rfl
@[simp] theorem State.loseLines_groves (s : State) (ls : List Nat) : (s.loseLines ls).groves = s.groves := rfl
@[simp] theorem State.loseLines_dies (s : State) (ls : List Nat) : (s.loseLines ls).dies = s.dies := rfl
@[simp] theorem State.loseLines_parts (s : State) (ls : List Nat) : (s.loseLines ls).parts = s.parts := rfl
@[simp] theorem State.loseLines_tasks (s : State) (ls : List Nat) : (s.loseLines ls).tasks = s.tasks := rfl
@[simp] theorem State.loseLines_clusters (s : State) (ls : List Nat) : (s.loseLines ls).clusters = s.clusters := rfl
@[simp] theorem State.loseLines_groups (s : State) (ls : List Nat) : (s.loseLines ls).groups = s.groups := rfl
@[simp] theorem State.loseLines_streams (s : State) (ls : List Nat) : (s.loseLines ls).streams = s.streams := rfl
@[simp] theorem State.loseLines_heads (s : State) (ls : List Nat) : (s.loseLines ls).heads = s.heads := rfl
@[simp] theorem State.loseLines_graphs (s : State) (ls : List Nat) : (s.loseLines ls).graphs = s.graphs := rfl
@[simp] theorem State.loseLines_roots (s : State) (ls : List Nat) : (s.loseLines ls).roots = s.roots := rfl
@[simp] theorem State.loseLines_hbmCtl (s : State) (ls : List Nat) : (s.loseLines ls).hbmCtl = s.hbmCtl := rfl
@[simp] theorem State.loseLines_migrations (s : State) (ls : List Nat) : (s.loseLines ls).migrations = s.migrations := rfl
@[simp] theorem State.loseLines_budsOut (s : State) (ls : List Nat) : (s.loseLines ls).budsOut = s.budsOut := rfl
@[simp] theorem State.loseLines_returns (s : State) (ls : List Nat) : (s.loseLines ls).returns = s.returns := rfl
@[simp] theorem State.loseLines_closes (s : State) (ls : List Nat) : (s.loseLines ls).closes = s.closes := rfl
@[simp] theorem State.loseLines_crown (s : State) (ls : List Nat) : (s.loseLines ls).crown = s.crown := rfl

/-! `State.newId` -/

@[simp] theorem State.newId_cycle (s : State) : s.newId.2.cycle = s.cycle := rfl
@[simp] theorem State.newId_cur (s : State) : s.newId.2.cur = s.cur := rfl
@[simp] theorem State.newId_schedule (s : State) : s.newId.2.schedule = s.schedule := rfl
@[simp] theorem State.newId_fresh (s : State) : s.newId.2.fresh = s.fresh := rfl
@[simp] theorem State.newId_nextId (s : State) : s.newId.2.nextId = s.nextId + 1 := rfl
@[simp] theorem State.newId_hbm (s : State) : s.newId.2.hbm = s.hbm := rfl
@[simp] theorem State.newId_hbmTag (s : State) : s.newId.2.hbmTag = s.hbmTag := rfl
@[simp] theorem State.newId_noise (s : State) : s.newId.2.noise = s.noise := rfl
@[simp] theorem State.newId_poison (s : State) : s.newId.2.poison = s.poison := rfl
@[simp] theorem State.newId_hostMem (s : State) : s.newId.2.hostMem = s.hostMem := rfl
@[simp] theorem State.newId_modMem (s : State) : s.newId.2.modMem = s.modMem := rfl
@[simp] theorem State.newId_modTag (s : State) : s.newId.2.modTag = s.modTag := rfl
@[simp] theorem State.newId_modPoison (s : State) : s.newId.2.modPoison = s.modPoison := rfl
@[simp] theorem State.newId_podCopies (s : State) : s.newId.2.podCopies = s.podCopies := rfl
@[simp] theorem State.newId_sram (s : State) : s.newId.2.sram = s.sram := rfl
@[simp] theorem State.newId_sramTag (s : State) : s.newId.2.sramTag = s.sramTag := rfl
@[simp] theorem State.newId_sramPoison (s : State) : s.newId.2.sramPoison = s.sramPoison := rfl
@[simp] theorem State.newId_lines (s : State) : s.newId.2.lines = s.lines := rfl
@[simp] theorem State.newId_lineFloor (s : State) : s.newId.2.lineFloor = s.lineFloor := rfl
@[simp] theorem State.newId_cores (s : State) : s.newId.2.cores = s.cores := rfl
@[simp] theorem State.newId_groves (s : State) : s.newId.2.groves = s.groves := rfl
@[simp] theorem State.newId_dies (s : State) : s.newId.2.dies = s.dies := rfl
@[simp] theorem State.newId_parts (s : State) : s.newId.2.parts = s.parts := rfl
@[simp] theorem State.newId_tasks (s : State) : s.newId.2.tasks = s.tasks := rfl
@[simp] theorem State.newId_clusters (s : State) : s.newId.2.clusters = s.clusters := rfl
@[simp] theorem State.newId_groups (s : State) : s.newId.2.groups = s.groups := rfl
@[simp] theorem State.newId_streams (s : State) : s.newId.2.streams = s.streams := rfl
@[simp] theorem State.newId_heads (s : State) : s.newId.2.heads = s.heads := rfl
@[simp] theorem State.newId_graphs (s : State) : s.newId.2.graphs = s.graphs := rfl
@[simp] theorem State.newId_roots (s : State) : s.newId.2.roots = s.roots := rfl
@[simp] theorem State.newId_hbmCtl (s : State) : s.newId.2.hbmCtl = s.hbmCtl := rfl
@[simp] theorem State.newId_migrations (s : State) : s.newId.2.migrations = s.migrations := rfl
@[simp] theorem State.newId_resvs (s : State) : s.newId.2.resvs = s.resvs := rfl
@[simp] theorem State.newId_budsOut (s : State) : s.newId.2.budsOut = s.budsOut := rfl
@[simp] theorem State.newId_returns (s : State) : s.newId.2.returns = s.returns := rfl
@[simp] theorem State.newId_closes (s : State) : s.newId.2.closes = s.closes := rfl
@[simp] theorem State.newId_crown (s : State) : s.newId.2.crown = s.crown := rfl

/-! `State.freeWord` -/

@[simp] theorem State.freeWord_cycle (s : State) : s.freeWord.2.cycle = s.cycle := rfl
@[simp] theorem State.freeWord_cur (s : State) : s.freeWord.2.cur = s.cur := rfl
@[simp] theorem State.freeWord_schedule (s : State) : s.freeWord.2.schedule = s.schedule := rfl
@[simp] theorem State.freeWord_fresh (s : State) : s.freeWord.2.fresh = s.fresh + 1 := rfl
@[simp] theorem State.freeWord_nextId (s : State) : s.freeWord.2.nextId = s.nextId := rfl
@[simp] theorem State.freeWord_hbm (s : State) : s.freeWord.2.hbm = s.hbm := rfl
@[simp] theorem State.freeWord_hbmTag (s : State) : s.freeWord.2.hbmTag = s.hbmTag := rfl
@[simp] theorem State.freeWord_noise (s : State) : s.freeWord.2.noise = s.noise := rfl
@[simp] theorem State.freeWord_poison (s : State) : s.freeWord.2.poison = s.poison := rfl
@[simp] theorem State.freeWord_hostMem (s : State) : s.freeWord.2.hostMem = s.hostMem := rfl
@[simp] theorem State.freeWord_modMem (s : State) : s.freeWord.2.modMem = s.modMem := rfl
@[simp] theorem State.freeWord_modTag (s : State) : s.freeWord.2.modTag = s.modTag := rfl
@[simp] theorem State.freeWord_modPoison (s : State) : s.freeWord.2.modPoison = s.modPoison := rfl
@[simp] theorem State.freeWord_podCopies (s : State) : s.freeWord.2.podCopies = s.podCopies := rfl
@[simp] theorem State.freeWord_sram (s : State) : s.freeWord.2.sram = s.sram := rfl
@[simp] theorem State.freeWord_sramTag (s : State) : s.freeWord.2.sramTag = s.sramTag := rfl
@[simp] theorem State.freeWord_sramPoison (s : State) : s.freeWord.2.sramPoison = s.sramPoison := rfl
@[simp] theorem State.freeWord_lines (s : State) : s.freeWord.2.lines = s.lines := rfl
@[simp] theorem State.freeWord_lineFloor (s : State) : s.freeWord.2.lineFloor = s.lineFloor := rfl
@[simp] theorem State.freeWord_cores (s : State) : s.freeWord.2.cores = s.cores := rfl
@[simp] theorem State.freeWord_groves (s : State) : s.freeWord.2.groves = s.groves := rfl
@[simp] theorem State.freeWord_dies (s : State) : s.freeWord.2.dies = s.dies := rfl
@[simp] theorem State.freeWord_parts (s : State) : s.freeWord.2.parts = s.parts := rfl
@[simp] theorem State.freeWord_tasks (s : State) : s.freeWord.2.tasks = s.tasks := rfl
@[simp] theorem State.freeWord_clusters (s : State) : s.freeWord.2.clusters = s.clusters := rfl
@[simp] theorem State.freeWord_groups (s : State) : s.freeWord.2.groups = s.groups := rfl
@[simp] theorem State.freeWord_streams (s : State) : s.freeWord.2.streams = s.streams := rfl
@[simp] theorem State.freeWord_heads (s : State) : s.freeWord.2.heads = s.heads := rfl
@[simp] theorem State.freeWord_graphs (s : State) : s.freeWord.2.graphs = s.graphs := rfl
@[simp] theorem State.freeWord_roots (s : State) : s.freeWord.2.roots = s.roots := rfl
@[simp] theorem State.freeWord_hbmCtl (s : State) : s.freeWord.2.hbmCtl = s.hbmCtl := rfl
@[simp] theorem State.freeWord_migrations (s : State) : s.freeWord.2.migrations = s.migrations := rfl
@[simp] theorem State.freeWord_resvs (s : State) : s.freeWord.2.resvs = s.resvs := rfl
@[simp] theorem State.freeWord_budsOut (s : State) : s.freeWord.2.budsOut = s.budsOut := rfl
@[simp] theorem State.freeWord_returns (s : State) : s.freeWord.2.returns = s.returns := rfl
@[simp] theorem State.freeWord_closes (s : State) : s.freeWord.2.closes = s.closes := rfl
@[simp] theorem State.freeWord_crown (s : State) : s.freeWord.2.crown = s.crown := rfl

@[simp] theorem State.newId_fst (s : State) : s.newId.1 = s.nextId := rfl
@[simp] theorem State.freeWord_fst (s : State) : s.freeWord.1 = Config.freeWord s.fresh := rfl

end Sys2Proof.Machine
end

