-- ==== Sys2Proof/Laws/Memory.lean ====
section
/-! SUPPORT. Every memory operation keeps the canonical form of every memory, and the machine after reset has it. -/
namespace Sys2Proof.Machine

/-- The canonical form of the four memories, one by one. -/
theorem State.memWf_iff (s : State) : s.memWf = true ↔
    Memory.wf s.hbm = true ∧ Memory.wf s.hostMem = true ∧ Memory.wf s.modMem = true ∧ Memory.wf s.sram = true := by
  simp [State.memWf, and_assoc]

/-- The form depends on the four memories alone. -/
theorem State.memWf_congr {s t : State} (h1 : t.hbm = s.hbm) (h2 : t.hostMem = s.hostMem) (h3 : t.modMem = s.modMem)
    (h4 : t.sram = s.sram) : t.memWf = s.memWf := by
  simp [State.memWf, h1, h2, h3, h4]

theorem State.reset_memWf : State.reset.memWf = true := by decide
theorem State.reset_partyOk : State.reset.partyOk = true := by decide

/-! ## Folds that keep a property -/

/-- A fold of steps that keep a property keeps it. -/
theorem foldl_keeps {α β : Type} (p : β → Prop) (f : β → α → β) (hf : ∀ b a, p b → p (f b a)) (l : List α) (b : β)
    (h : p b) : p (l.foldl f b) := by
  induction l generalizing b with
  | nil => exact h
  | cons a l ih => exact ih _ (hf b a h)

/-- A fold of steps that keep a part of the state keeps it. -/
theorem foldl_same {α β γ : Type} (v : β → γ) (f : β → α → β) (hf : ∀ b a, v (f b a) = v b) (l : List α) (b : β) :
    v (l.foldl f b) = v b := by
  induction l generalizing b with
  | nil => rfl
  | cons a l ih => rw [List.foldl_cons, ih, hf]

/-! ## HBM -/

theorem retag_memWf (k : Nat) (s : State) (sec : Nat) (h : s.memWf = true) : (retag k s sec).memWf = true := by
  unfold retag
  dsimp only
  split
  · exact h
  · rw [State.memWf_iff] at h ⊢
    refine ⟨?_, h.2⟩
    dsimp only
    split
    · exact h.1
    · exact SMap.wf_foldl_set _ _ _ _ h.1

theorem State.hbmWrite_memWf (s : State) (k : Nat) (ws : List (Nat × Byte)) (h : s.memWf = true) :
    (s.hbmWrite k ws).memWf = true := by
  have h1 : ((sectors ws).foldl (retag k) s).memWf = true :=
    foldl_keeps (fun s => s.memWf = true) _ (fun s sec hs => retag_memWf k s sec hs) _ _ h
  rw [State.memWf_iff] at h1 ⊢
  exact ⟨SMap.wf_foldl_set ws _ _ _ h1.1, h1.2⟩

theorem State.blotHbm_memWf (s : State) (a n : Nat) (h : s.memWf = true) : (s.blotHbm a n).memWf = true := h

/-! ## Modules, host memory -/

theorem retagMod_memWf (k : Option Nat) (s : State) (sec : Nat) (h : s.memWf = true) :
    (retagMod k s sec).memWf = true := by
  unfold retagMod
  dsimp only
  split
  · exact h
  · rw [State.memWf_iff] at h ⊢
    refine ⟨h.1, h.2.1, ?_, h.2.2.2⟩
    dsimp only
    split
    · exact h.2.2.1
    · exact SMap.wf_foldl_set _ _ _ _ h.2.2.1

theorem State.modWrite_memWf (s : State) (m : Nat) (k : Option Nat) (ws : List (Nat × Byte)) (h : s.memWf = true) :
    (s.modWrite m k ws).memWf = true := by
  unfold State.modWrite
  have h1 := foldl_keeps (fun s => s.memWf = true) _ (fun s sec hs => retagMod_memWf k s sec hs)
    (sectors (ws.map (fun w => (modKey m w.1, w.2)))) _ h
  rw [State.memWf_iff] at h1 ⊢
  exact ⟨h1.1, h1.2.1, SMap.wf_foldl_set _ _ _ _ h1.2.2.1, h1.2.2.2⟩

theorem State.hostWrite_memWf (s : State) (ws : List (Nat × Byte)) (h : s.memWf = true) :
    (s.hostWrite ws).memWf = true := by
  rw [State.memWf_iff] at h ⊢
  exact ⟨h.1, SMap.wf_foldl_set ws _ _ _ h.2.1, h.2.2⟩

/-! ## SRAM -/

theorem settleSram_memWf (s : State) (sec : Nat) (h : s.memWf = true) : (settleSram s sec).memWf = true := by
  unfold settleSram
  dsimp only
  split
  · exact h
  · rw [State.memWf_iff] at h ⊢
    exact ⟨h.1, h.2.1, h.2.2.1, SMap.wf_foldl_set _ _ _ _ h.2.2.2⟩

theorem State.sramWrite_memWf (s : State) (ws : List (Nat × Byte)) (h : s.memWf = true) :
    (s.sramWrite ws).memWf = true := by
  unfold State.sramWrite
  have h1 := foldl_keeps (fun s => s.memWf = true) _ (fun s sec hs => settleSram_memWf s sec hs) (sectors ws) _ h
  rw [State.memWf_iff] at h1 ⊢
  exact ⟨h1.1, h1.2.1, h1.2.2.1, SMap.wf_foldl_set _ _ _ _ h1.2.2.2⟩

theorem State.zeroGrove_memWf (s : State) (gr : Nat) (h : s.memWf = true) : (s.zeroGrove gr).memWf = true := by
  rw [State.memWf_iff] at h ⊢
  exact ⟨h.1, h.2.1, h.2.2.1, SMap.wf_filter _ h.2.2.2⟩

end Sys2Proof.Machine
end

