-- ==== Sys2Proof/Laws/Coherence.lean ====
section
/-! SUPPORT. What an access does beside its bytes: reads, leases, recalls and merges change only the lines at their homes,
the cores' copies and times and the groves' copies; a write changes only HBM, its tags, its poison and the reservations as
well. -/
namespace Sys2Proof.Machine

/-- A state that differs from `s` in lines, cores and groves at most. -/
def CohOnly (s t : State) : Prop :=
  ∃ (l : SMap LineTs) (c : SMap Core) (g : SMap Grove), t = { s with lines := l, cores := c, groves := g }

namespace CohOnly

variable {s t u : State}

theorem refl (s : State) : CohOnly s s := ⟨_, _, _, rfl⟩
theorem trans (h : CohOnly s t) (h' : CohOnly t u) : CohOnly s u := by
  obtain ⟨l, c, g, rfl⟩ := h
  obtain ⟨l', c', g', rfl⟩ := h'
  exact ⟨l', c', g', rfl⟩

theorem cur (h : CohOnly s t) : t.cur = s.cur := by obtain ⟨_, _, _, rfl⟩ := h; rfl
theorem cycle (h : CohOnly s t) : t.cycle = s.cycle := by obtain ⟨_, _, _, rfl⟩ := h; rfl
theorem hbm (h : CohOnly s t) : t.hbm = s.hbm := by obtain ⟨_, _, _, rfl⟩ := h; rfl
theorem hbmTag (h : CohOnly s t) : t.hbmTag = s.hbmTag := by obtain ⟨_, _, _, rfl⟩ := h; rfl
theorem noise (h : CohOnly s t) : t.noise = s.noise := by obtain ⟨_, _, _, rfl⟩ := h; rfl
theorem hostMem (h : CohOnly s t) : t.hostMem = s.hostMem := by obtain ⟨_, _, _, rfl⟩ := h; rfl
theorem modMem (h : CohOnly s t) : t.modMem = s.modMem := by obtain ⟨_, _, _, rfl⟩ := h; rfl
theorem modTag (h : CohOnly s t) : t.modTag = s.modTag := by obtain ⟨_, _, _, rfl⟩ := h; rfl
theorem sram (h : CohOnly s t) : t.sram = s.sram := by obtain ⟨_, _, _, rfl⟩ := h; rfl
theorem sramTag (h : CohOnly s t) : t.sramTag = s.sramTag := by obtain ⟨_, _, _, rfl⟩ := h; rfl
theorem groups (h : CohOnly s t) : t.groups = s.groups := by obtain ⟨_, _, _, rfl⟩ := h; rfl
theorem tasks (h : CohOnly s t) : t.tasks = s.tasks := by obtain ⟨_, _, _, rfl⟩ := h; rfl
theorem clusters (h : CohOnly s t) : t.clusters = s.clusters := by obtain ⟨_, _, _, rfl⟩ := h; rfl
theorem parts (h : CohOnly s t) : t.parts = s.parts := by obtain ⟨_, _, _, rfl⟩ := h; rfl
theorem streams (h : CohOnly s t) : t.streams = s.streams := by obtain ⟨_, _, _, rfl⟩ := h; rfl
theorem resvs (h : CohOnly s t) : t.resvs = s.resvs := by obtain ⟨_, _, _, rfl⟩ := h; rfl
theorem crown (h : CohOnly s t) : t.crown = s.crown := by obtain ⟨_, _, _, rfl⟩ := h; rfl
theorem memWf (h : CohOnly s t) : t.memWf = s.memWf := by obtain ⟨_, _, _, rfl⟩ := h; rfl
theorem hbmByte (h : CohOnly s t) (k a : Nat) : t.hbmByte k a = s.hbmByte k a := by obtain ⟨_, _, _, rfl⟩ := h; rfl

theorem setLine (s : State) (l : Nat) (x : LineTs) : CohOnly s (s.setLine l x) := ⟨_, _, _, rfl⟩
theorem modCore (s : State) (c : Nat) (f : Core → Core) : CohOnly s (s.modCore c f) := ⟨_, _, _, rfl⟩
theorem modGrove (s : State) (c : Nat) (f : Grove → Grove) : CohOnly s (s.modGrove c f) := ⟨_, _, _, rfl⟩
theorem modBank (s : State) (g b : Nat) (f : Bank → Bank) : CohOnly s (s.modBank g b f) := ⟨_, _, _, rfl⟩
theorem undirty (s : State) (c l : Nat) : CohOnly s (s.undirty c l) := modCore _ _ _
theorem dropL1 (s : State) (c l : Nat) : CohOnly s (s.dropL1 c l) := modCore _ _ _

theorem setPts (s : State) (c : Nat) (x : Time) : CohOnly s (s.setPts c x) := by
  unfold State.setPts; split
  · exact refl _
  · exact modCore _ _ _

theorem raisePts (s : State) (c : Nat) (x : Time) : CohOnly s (s.raisePts c x) := setPts _ _ _

theorem foldl {α : Type} (f : State → α → State) (hf : ∀ s a, CohOnly s (f s a)) (l : List α) (s : State) :
    CohOnly s (l.foldl f s) := by
  induction l generalizing s with
  | nil => exact refl _
  | cons a l ih => exact (hf s a).trans (ih _)

theorem recallLine (s : State) (l : Nat) : CohOnly s (s.recall l) := by
  unfold State.recall; dsimp only
  split
  · exact refl _
  · split
    · exact ((setLine _ _ _).trans (undirty _ _ _)).trans (modGrove _ _ _)
    · exact ((setLine _ _ _).trans (undirty _ _ _)).trans (modCore _ _ _)

theorem mergeLine (s : State) (l : Nat) : CohOnly s (s.mergeLine l) := by
  unfold State.mergeLine; dsimp only
  split
  · exact refl _
  · exact (setLine _ _ _).trans (foldl _ (fun s (h : Holder) => undirty s h.core l) _ _)

theorem bringHome (s : State) (l : Nat) : CohOnly s (s.bringHome l) := (mergeLine _ _).trans (recallLine _ _)

theorem touch (s : State) (a n : Nat) : CohOnly s (s.touch a n) := foldl _ (fun s l => bringHome s l) _ _

theorem writeBack (s : State) (c l : Nat) : CohOnly s (s.writeBack c l) := by
  unfold State.writeBack; dsimp only
  split
  · exact recallLine _ _
  · split
    · exact mergeLine _ _
    · exact (mergeLine _ _).trans (modCore _ _ _)

theorem markDirty (s : State) (c l : Nat) : CohOnly s (s.markDirty c l) := by
  unfold State.markDirty; dsimp only
  split
  · exact refl _
  · refine trans (t := _) ?_ (modCore _ _ _)
    split
    · split
      · exact refl _
      · exact writeBack _ _ _
    · exact refl _

theorem l1Room (s : State) (c l : Nat) : CohOnly s (s.l1Room c l) := by
  unfold State.l1Room; dsimp only
  split
  · exact refl _
  · split
    · exact refl _
    · split
      · exact (writeBack _ _ _).trans (dropL1 _ _ _)
      · exact dropL1 _ _ _

theorem l1Put (s : State) (c l : Nat) (cp : Copy) : CohOnly s (s.l1Put c l cp) := (l1Room _ _ _).trans (modCore _ _ _)

theorem dropGrove (s : State) (g l : Nat) : CohOnly s (s.dropGrove g l) := modGrove _ _ _

theorem evictGrove (s : State) (g l : Nat) : CohOnly s (s.evictGrove g l) := by
  unfold State.evictGrove
  split
  · split
    · exact (recallLine _ _).trans (dropGrove _ _ _)
    · exact dropGrove _ _ _
  · exact dropGrove _ _ _

theorem groveWay {s : State} {g l : Nat} {r : Nat × State} (h : s.groveWay g l = some r) : CohOnly s r.2 := by
  unfold State.groveWay at h; dsimp only at h
  split at h
  · cases h; exact refl _
  · split at h
    · cases h; exact refl _
    · split at h
      · cases h
      · obtain ⟨x, -, rfl⟩ := Option.map_eq_some_iff.mp h
        exact evictGrove _ _ _

theorem grovePut (s : State) (g l : Nat) (cp : Copy) : CohOnly s (s.grovePut g l cp) := by
  unfold State.grovePut
  split
  · exact refl _
  · rename_i h; exact (groveWay h).trans (modGrove _ _ _)

theorem flushBank (s : State) (g b : Nat) : CohOnly s (s.flushBank g b) := by
  unfold State.flushBank; dsimp only
  exact (foldl State.recall recallLine _ s).trans (modGrove _ _ _)

theorem flushGrove (s : State) (g : Nat) : CohOnly s (s.flushGrove g) := foldl _ (fun s b => flushBank s g b) _ _

theorem holderWrite (s : State) (c l : Nat) (p : Time) : CohOnly s (s.holderWrite c l p) :=
  ((((setPts _ _ _).trans (setLine _ _ _)).trans (l1Room _ _ _)).trans (dropL1 _ _ _)).trans (markDirty _ _ _)

theorem grantLine (s : State) (c l : Nat) (m : BitVec 128) (o : Option Owner) : CohOnly s (s.grantLine c l m o) := by
  have h0 : ∀ t : Time, CohOnly s ((s.bringHome l).setPts c t) := fun t => (bringHome s l).trans (setPts _ _ _)
  unfold State.grantLine; dsimp only
  split
  · exact (h0 _).trans (setLine _ _ _)
  · split
    · split
      · exact (h0 _).trans (setLine _ _ _)
      · rename_i h
        exact ((((h0 _).trans (groveWay h)).trans (dropGrove _ _ _)).trans (setLine _ _ _)).trans (markDirty _ _ _)
    · exact ((((h0 _).trans (l1Room _ _ _)).trans (dropL1 _ _ _)).trans (setLine _ _ _)).trans (markDirty _ _ _)

theorem ownerWrite (s : State) (c l : Nat) : CohOnly s (s.ownerWrite c l) :=
  ((setPts _ _ _).trans (setLine _ _ _)).trans (markDirty _ _ _)

theorem strangerWrite (s : State) (k c l : Nat) (m : BitVec 128) (o : Option Owner) (b : Bool) :
    CohOnly s (s.strangerWrite k c l m o b) := by
  unfold State.strangerWrite; dsimp only
  refine (bringHome s l).trans ?_
  split
  · split
    · exact (setLine _ _ _).trans (holderWrite _ _ _ _)
    · exact (setLine _ _ _).trans (grantLine _ _ _ _ _)
  · exact grantLine _ _ _ _ _

theorem writeTimes (s : State) (k c l : Nat) (m : BitVec 128) (o : Option Owner) (b : Bool) :
    CohOnly s (s.writeTimes k c l m o b) := by
  have h0 : CohOnly s (if b = true then s.bringHome l else s.mergeLine l) := by
    split
    · exact bringHome _ _
    · exact mergeLine _ _
  unfold State.writeTimes; dsimp only
  revert h0
  generalize (if b = true then s.bringHome l else s.mergeLine l) = u
  intro h0
  split
  · exact holderWrite _ _ _ _
  · split
    · exact h0.trans (ownerWrite _ _ _)
    · exact h0.trans (strangerWrite _ _ _ _ _ _ _)

theorem refreshL1 (s : State) (k c l : Nat) : CohOnly s (s.refreshL1 k c l) := by
  unfold State.refreshL1; exact modCore _ _ _

theorem atomTimes (s : State) (k c a n : Nat) : CohOnly s (s.atomTimes k c a n) := writeTimes _ _ _ _ _ _ _

theorem allocate (s : State) (c l : Nat) (h : Hint) (cp : Copy) : CohOnly s (s.allocate c l h cp) := by
  unfold State.allocate
  split
  · exact grovePut _ _ _ _
  · exact (l1Put _ _ _ _).trans (grovePut _ _ _ _)

theorem readHome (s : State) (k c l : Nat) (lease : BitVec 8) (h : Hint) : CohOnly s (s.readHome k c l lease h) :=
  (((bringHome s l).trans (setPts _ _ _)).trans (setLine _ _ _)).trans (allocate _ _ _ _ _)

theorem renew {s : State} {c l : Nat} {lease : BitVec 8} {w : Time} {r : State × Time}
    (h : s.renew c l lease w = some r) : CohOnly s r.1 := by
  unfold State.renew at h; dsimp only at h
  split at h
  · cases h; exact (bringHome _ _).trans (setLine _ _ _)
  · cases h

theorem hit {s : State} {c l : Nat} {lease : BitVec 8} {cp : Copy} {r : Copy × State}
    (h : s.hit c l lease cp = some r) : CohOnly s r.2 := by
  unfold State.hit at h
  split at h
  · cases h; exact setPts _ _ _
  · obtain ⟨x, hx, rfl⟩ := Option.map_eq_some_iff.mp h
    exact (renew hx).trans (setPts _ _ _)

theorem holderRead (s : State) (k c l a n : Nat) : CohOnly s (s.holderRead k c l a n).2 := by
  unfold State.holderRead; dsimp only
  split
  · exact setPts _ _ _
  · exact (setPts _ _ _).trans (setLine _ _ _)

theorem ownerRead (s : State) (k c l a n : Nat) : CohOnly s (s.ownerRead k c l a n).2 :=
  (setPts _ _ _).trans (setLine _ _ _)

theorem ite_snd {p : Prop} [Decidable p] {α : Type} {x y : α × State} (h1 : CohOnly s x.2) (h2 : CohOnly s y.2) :
    CohOnly s (if p then x else y).2 := by
  split
  · exact h1
  · exact h2

theorem coreRead (s : State) (k c : Nat) (lease : BitVec 8) (h : Hint) (a n : Nat) :
    CohOnly s (s.coreRead k c lease h a n).2 := by
  unfold State.coreRead; dsimp only
  split
  · exact holderRead _ _ _ _ _ _
  · have h0 := mergeLine s (lineOf a)
    refine h0.trans (ite_snd (ownerRead _ _ _ _ _ _) ?_)
    split
    · split
      · rename_i e; have h1 := hit e; dsimp only at h1 ⊢; exact h1.trans (modCore _ _ _)
      · exact readHome _ _ _ _ _ _
    · split
      · split
        · rename_i e
          have h1 := hit e
          dsimp only at h1 ⊢
          split
          · exact h1.trans (modGrove _ _ _)
          · exact (h1.trans (modGrove _ _ _)).trans (l1Put _ _ _ _)
        · exact readHome _ _ _ _ _ _
      · exact readHome _ _ _ _ _ _

theorem prefetchLine (s : State) (k c l : Nat) (lease : BitVec 8) (h : Hint) : CohOnly s (s.prefetch k c l lease h) := by
  unfold State.prefetch; dsimp only
  split
  · split
    · exact refl _
    · exact ((bringHome s l).trans (setLine _ _ _)).trans (allocate _ _ _ _ _)
  · split
    · exact refl _
    · exact ((bringHome s l).trans (setLine _ _ _)).trans (allocate _ _ _ _ _)

theorem lrTimes (s : State) (c l : Nat) (lease : BitVec 8) : CohOnly s (s.lrTimes c l lease) :=
  ((bringHome s l).trans (setPts _ _ _)).trans (setLine _ _ _)

theorem ownRead (s : State) (k : Nat) (x : Time) (lease : BitVec 8) (a n : Nat) :
    CohOnly s (s.ownRead k x lease a n).2.2 := (bringHome s (lineOf a)).trans (setLine _ _ _)

theorem bankTime (s : State) (c a : Nat) (wr : Bool) : CohOnly s (s.bankTime c a wr) := by
  unfold State.bankTime; dsimp only
  split
  · exact (setPts _ _ _).trans (modBank _ _ _ _)
  · exact setPts _ _ _

theorem bankTimeOwn (s : State) (x : Time) (a : Nat) (wr : Bool) : CohOnly s (s.bankTimeOwn x a wr).2 := by
  unfold State.bankTimeOwn; dsimp only
  split
  · exact modBank _ _ _ _
  · exact refl _

end CohOnly

/-! ## Writes of HBM -/

/-- A state that differs from `s` in lines, cores, groves, HBM with its tags and poison, reservations and resting lists at most. -/
def HbmOnly (s t : State) : Prop :=
  ∃ u h g p r w, CohOnly s u ∧ t = { u with hbm := h, hbmTag := g, poison := p, resvs := r, idleWork := w }

namespace HbmOnly

variable {s t u : State}

theorem of_coh (h : CohOnly s t) : HbmOnly s t := ⟨t, _, _, _, _, _, h, rfl⟩
theorem trans (h : HbmOnly s t) (h' : HbmOnly t u) : HbmOnly s u := by
  obtain ⟨v, a, b, c, d, e, ⟨l, m, n, rfl⟩, rfl⟩ := h
  obtain ⟨v', a', b', c', d', e', ⟨l', m', n', rfl⟩, rfl⟩ := h'
  exact ⟨_, a', b', c', d', e', ⟨l', m', n', rfl⟩, rfl⟩

theorem cur (h : HbmOnly s t) : t.cur = s.cur := by obtain ⟨_, _, _, _, _, _, ⟨_, _, _, rfl⟩, rfl⟩ := h; rfl
theorem groups (h : HbmOnly s t) : t.groups = s.groups := by obtain ⟨_, _, _, _, _, _, ⟨_, _, _, rfl⟩, rfl⟩ := h; rfl
theorem tasks (h : HbmOnly s t) : t.tasks = s.tasks := by obtain ⟨_, _, _, _, _, _, ⟨_, _, _, rfl⟩, rfl⟩ := h; rfl
theorem clusters (h : HbmOnly s t) : t.clusters = s.clusters := by
  obtain ⟨_, _, _, _, _, _, ⟨_, _, _, rfl⟩, rfl⟩ := h; rfl
theorem parts (h : HbmOnly s t) : t.parts = s.parts := by obtain ⟨_, _, _, _, _, _, ⟨_, _, _, rfl⟩, rfl⟩ := h; rfl
theorem streams (h : HbmOnly s t) : t.streams = s.streams := by
  obtain ⟨_, _, _, _, _, _, ⟨_, _, _, rfl⟩, rfl⟩ := h; rfl
theorem hostMem (h : HbmOnly s t) : t.hostMem = s.hostMem := by
  obtain ⟨_, _, _, _, _, _, ⟨_, _, _, rfl⟩, rfl⟩ := h; rfl
theorem modMem (h : HbmOnly s t) : t.modMem = s.modMem := by obtain ⟨_, _, _, _, _, _, ⟨_, _, _, rfl⟩, rfl⟩ := h; rfl
theorem sram (h : HbmOnly s t) : t.sram = s.sram := by obtain ⟨_, _, _, _, _, _, ⟨_, _, _, rfl⟩, rfl⟩ := h; rfl
theorem crown (h : HbmOnly s t) : t.crown = s.crown := by obtain ⟨_, _, _, _, _, _, ⟨_, _, _, rfl⟩, rfl⟩ := h; rfl

theorem retag (k : Nat) (s : State) (sec : Nat) : HbmOnly s (retag k s sec) := by
  unfold Machine.retag; dsimp only
  split
  · exact of_coh (CohOnly.refl _)
  · exact ⟨s, _, _, _, _, _, CohOnly.refl _, rfl⟩

theorem foldl {α : Type} (f : State → α → State) (hf : ∀ s a, HbmOnly s (f s a)) (l : List α) (s : State) :
    HbmOnly s (l.foldl f s) := by
  induction l generalizing s with
  | nil => exact of_coh (CohOnly.refl _)
  | cons a l ih => exact (hf s a).trans (ih _)

theorem hbmWrite (s : State) (k : Nat) (ws : List (Nat × Byte)) : HbmOnly s (s.hbmWrite k ws) :=
  (foldl _ (fun s x => retag k s x) (sectors ws) s).trans ⟨_, _, _, _, _, _, CohOnly.refl _, rfl⟩

theorem coreWrite (s : State) (k c : Nat) (b : Hint) (ws : List (Nat × Byte)) : HbmOnly s (s.coreWrite k c b ws) := by
  unfold State.coreWrite
  split
  · exact of_coh (CohOnly.refl _)
  · dsimp only
    have h0 := fun l m o ws => (of_coh (CohOnly.writeTimes s k c l m o false)).trans (hbmWrite _ k ws)
    split
    · exact (h0 _ _ _ _).trans (of_coh (CohOnly.refreshL1 _ _ _ _))
    · exact h0 _ _ _ _

theorem ownWrite (s : State) (k : Nat) (x : Time) (ws : List (Nat × Byte)) : HbmOnly s (s.ownWrite k x ws).2 := by
  unfold State.ownWrite
  split
  · exact of_coh (CohOnly.refl _)
  · exact (of_coh ((CohOnly.bringHome _ _).trans (CohOnly.setLine _ _ _))).trans (hbmWrite _ _ _)

theorem stntWrite (s : State) (k : Nat) (ws : List (Nat × Byte)) : HbmOnly s (s.stntWrite k ws).2 := by
  unfold State.stntWrite
  split
  · exact of_coh (CohOnly.refl _)
  · exact (of_coh ((CohOnly.bringHome _ _).trans (CohOnly.setLine _ _ _))).trans (hbmWrite _ _ _)

end HbmOnly

/-! ## The canonical form through writes -/

theorem State.coreWrite_memWf (s : State) (k c : Nat) (b : Hint) (ws : List (Nat × Byte)) (h : s.memWf = true) :
    (s.coreWrite k c b ws).memWf = true := by
  unfold State.coreWrite
  split
  · exact h
  · dsimp only
    have h0 := fun l m o ws => State.hbmWrite_memWf (s.writeTimes k c l m o false) k ws
      (by rw [(CohOnly.writeTimes _ _ _ _ _ _ _).memWf]; exact h)
    split
    · rw [(CohOnly.refreshL1 _ _ _ _).memWf]; exact h0 _ _ _ _
    · exact h0 _ _ _ _

theorem State.ownWrite_memWf (s : State) (k : Nat) (x : Time) (ws : List (Nat × Byte)) (h : s.memWf = true) :
    (s.ownWrite k x ws).2.memWf = true := by
  unfold State.ownWrite
  split
  · exact h
  · exact State.hbmWrite_memWf _ _ _
      (by rw [((CohOnly.bringHome _ _).trans (CohOnly.setLine _ _ _)).memWf]; exact h)

theorem State.homeStore_memWf (s : State) (k : Nat) (ws : List (Nat × Byte)) (x : Option Time) (h : s.memWf = true) :
    (s.homeStore k ws x).memWf = true := by
  unfold State.homeStore
  split
  · exact h
  · exact State.ownWrite_memWf _ _ _ _ h

theorem State.windowWrite_memWf (s : State) (k : Nat) (ws : List (Nat × Byte)) (h : s.memWf = true) :
    (s.windowWrite k ws).memWf = true := State.ownWrite_memWf s k s.crown.windowTs _ h

theorem State.stntWrite_memWf (s : State) (k : Nat) (ws : List (Nat × Byte)) (h : s.memWf = true) :
    (s.stntWrite k ws).2.memWf = true := by
  unfold State.stntWrite
  split
  · exact h
  · exact State.hbmWrite_memWf _ _ _
      (by rw [((CohOnly.bringHome _ _).trans (CohOnly.setLine _ _ _)).memWf]; exact h)

end Sys2Proof.Machine
end

