-- ==== Sys2Proof/Laws/Access.lean ====
section
/-! SUPPORT. What looking up an object and a page changes: the lines that its tables' reads bring home, the copies of
translations in the cores and the dies, and the count of free values where a full OTLB loses one, nothing else. -/
namespace Sys2Proof.Machine

/-- A state that differs from `s` in lines, cores, groves, dies and the count of free values at most. -/
def LookOnly (s t : State) : Prop :=
  ∃ u d n, CohOnly s u ∧ t = { u with dies := d, fresh := n }

namespace LookOnly

variable {s t u : State}

theorem of_coh (h : CohOnly s t) : LookOnly s t := ⟨t, _, _, h, rfl⟩
theorem refl (s : State) : LookOnly s s := of_coh (CohOnly.refl s)
theorem trans (h : LookOnly s t) (h' : LookOnly t u) : LookOnly s u := by
  obtain ⟨v, d, n, ⟨a, b, c, rfl⟩, rfl⟩ := h
  obtain ⟨v', d', n', ⟨a', b', c', rfl⟩, rfl⟩ := h'
  exact ⟨_, d', n', ⟨a', b', c', rfl⟩, rfl⟩

theorem cur (h : LookOnly s t) : t.cur = s.cur := by obtain ⟨_, _, _, ⟨_, _, _, rfl⟩, rfl⟩ := h; rfl
theorem groups (h : LookOnly s t) : t.groups = s.groups := by obtain ⟨_, _, _, ⟨_, _, _, rfl⟩, rfl⟩ := h; rfl
theorem tasks (h : LookOnly s t) : t.tasks = s.tasks := by obtain ⟨_, _, _, ⟨_, _, _, rfl⟩, rfl⟩ := h; rfl
theorem clusters (h : LookOnly s t) : t.clusters = s.clusters := by obtain ⟨_, _, _, ⟨_, _, _, rfl⟩, rfl⟩ := h; rfl
theorem parts (h : LookOnly s t) : t.parts = s.parts := by obtain ⟨_, _, _, ⟨_, _, _, rfl⟩, rfl⟩ := h; rfl
theorem streams (h : LookOnly s t) : t.streams = s.streams := by obtain ⟨_, _, _, ⟨_, _, _, rfl⟩, rfl⟩ := h; rfl
theorem resvs (h : LookOnly s t) : t.resvs = s.resvs := by obtain ⟨_, _, _, ⟨_, _, _, rfl⟩, rfl⟩ := h; rfl
theorem crown (h : LookOnly s t) : t.crown = s.crown := by obtain ⟨_, _, _, ⟨_, _, _, rfl⟩, rfl⟩ := h; rfl
theorem hbm (h : LookOnly s t) : t.hbm = s.hbm := by obtain ⟨_, _, _, ⟨_, _, _, rfl⟩, rfl⟩ := h; rfl
theorem hostMem (h : LookOnly s t) : t.hostMem = s.hostMem := by obtain ⟨_, _, _, ⟨_, _, _, rfl⟩, rfl⟩ := h; rfl
theorem modMem (h : LookOnly s t) : t.modMem = s.modMem := by obtain ⟨_, _, _, ⟨_, _, _, rfl⟩, rfl⟩ := h; rfl
theorem sram (h : LookOnly s t) : t.sram = s.sram := by obtain ⟨_, _, _, ⟨_, _, _, rfl⟩, rfl⟩ := h; rfl
theorem memWf (h : LookOnly s t) : t.memWf = s.memWf := by obtain ⟨_, _, _, ⟨_, _, _, rfl⟩, rfl⟩ := h; rfl
theorem hbmByte (h : LookOnly s t) (k a : Nat) : t.hbmByte k a = s.hbmByte k a := by obtain ⟨_, _, _, ⟨_, _, _, rfl⟩, rfl⟩ := h; rfl

theorem modCore (s : State) (c : Nat) (f : Core → Core) : LookOnly s (s.modCore c f) := of_coh (CohOnly.modCore _ _ _)
theorem modDie (s : State) (d : Nat) (f : Die → Die) : LookOnly s (s.modDie d f) := ⟨s, _, _, CohOnly.refl _, rfl⟩
theorem touch (s : State) (a n : Nat) : LookOnly s (s.touch a n) := of_coh (CohOnly.touch _ _ _)
theorem touchDir (s : State) (p : Part) (obj : Nat) : LookOnly s (s.touchDir p obj) := by
  unfold State.touchDir
  split
  · split
    · exact touch _ _ _
    · exact refl _
  · exact refl _

theorem keepDesc (s : State) (c key : Nat) (d : Desc) : LookOnly s (s.keepDesc c key d) := by
  unfold State.keepDesc; dsimp only
  split
  · exact modCore _ _ _
  · exact trans ⟨_, s.dies, s.fresh + 1, CohOnly.modCore s c _, rfl⟩ (modCore _ _ _)

theorem coreDesc (s : State) (c part obj : Nat) : LookOnly s (s.coreDesc c part obj).2 := by
  unfold State.coreDesc
  split
  · exact refl _
  · split
    · exact refl _
    · dsimp only
      split
      · exact touchDir _ _ _
      · exact (touchDir _ _ _).trans (keepDesc _ _ _ _)

theorem pageAt (s : State) (die : Nat) (p : Part) (obj : Nat) (d : Desc) (page : Nat) (wr : Bool) :
    LookOnly s (s.pageAt die p obj d page wr).2 := by
  unfold State.pageAt
  split
  · exact refl _
  · dsimp only
    split
    · exact refl _
    · split
      · dsimp only
        exact (touch _ _ _).trans (modDie _ _ _)
      · exact touch _ _ _

theorem translate (s : State) (die : Nat) (p : Part) (obj : Nat) (d : Desc) (off : Nat) (wr : Bool) :
    LookOnly s (s.translate die p obj d off wr).2 := by
  unfold State.translate
  split
  · exact refl _
  · have h := pageAt s die p obj d (off / 65536) wr
    dsimp only
    split <;> (rename_i e; rw [e] at h; exact h)

theorem findPage (s : State) (die : Nat) (g : Group) (p : Part) (obj : Nat) (d : Desc) (off : Nat) (wr : Bool) :
    LookOnly s (s.findPage die g p obj d off wr).2 := by
  unfold State.findPage
  split
  · exact refl _
  · exact translate _ _ _ _ _ _ _

theorem checkAccess (s : State) (c : Nat) (g : Group) (q : AccReq) : LookOnly s (s.checkAccess c g q).2 := by
  unfold State.checkAccess
  split
  · exact refl _
  · rename_i p _
    have h := coreDesc s c g.part (ptrObj q.ptr)
    dsimp only
    split
    · rename_i e; rw [e] at h; exact h
    · rename_i d v e
      rw [e] at h
      have h2 := h.trans (findPage v (coreDie c) g p (ptrObj q.ptr) d q.e.toNat q.wr)
      split
      · exact h
      · repeat' split
        all_goals exact h2

theorem fetchStem (s : State) (g : Group) : LookOnly s (s.fetchStem g).2 := by
  unfold State.fetchStem
  split
  · exact refl _
  · rename_i p _
    have h := coreDesc s g.coreN g.part (ptrObj g.pc)
    dsimp only
    split
    · rename_i e; rw [e] at h; exact h
    · rename_i d v e
      rw [e] at h
      have h2 := h.trans (findPage v (coreDie g.coreN) g p (ptrObj g.pc) d (ptrOff g.pc) false)
      split
      · exact h
      · split <;> (rename_i e2; rw [e2] at h2)
        · exact h2
        · exact h2
        · repeat' split
          all_goals exact h2

end LookOnly

end Sys2Proof.Machine
end

