-- ==== Sys2Proof/Laws/Ops.lean ====
section
/-! SUPPORT. What the shared operations do, said once: the frame of a stem word, of a leaf instruction, of a command. -/
namespace Sys2Proof.Machine

@[simp] theorem State.freed_groups (s : State) : s.freed.groups = s.groups := rfl
@[simp] theorem State.freed_parts (s : State) : s.freed.parts = s.parts := rfl
@[simp] theorem State.freed_crown (s : State) : s.freed.crown = s.crown := rfl
@[simp] theorem State.freed_cur (s : State) : s.freed.cur = none := rfl
@[simp] theorem State.freed_cycle (s : State) : s.freed.cycle = s.cycle := rfl
@[simp] theorem State.freed_cores (s : State) : s.freed.cores = s.cores := rfl
@[simp] theorem State.freed_groves (s : State) : s.freed.groves = s.groves := rfl
@[simp] theorem State.freed_tasks (s : State) : s.freed.tasks = s.tasks := rfl
@[simp] theorem State.freed_clusters (s : State) : s.freed.clusters = s.clusters := rfl
@[simp] theorem State.freed_streams (s : State) : s.freed.streams = s.streams := rfl

/-- A stem word of a group that is there, with no held fault due, does what its body says. -/
theorem runStem_ready {s : State} {gid : Nat} {g : Group} (h : StemReady s gid g) (body : Nat → Group → State → StemRes) :
    runStem s body = .next (State.stemApply gid g (body gid g s.freed)) := by
  obtain ⟨hc, hg, hd⟩ := h
  simp [runStem, hc, hg, hd, State.freed]

/-- A held fault comes first, and the word has not executed (R273); the stem unit's turn passes on (R77). -/
theorem runStem_held {s : State} {gid : Nat} {g : Group} {f : HeldFault} (hc : s.cur = some (.stem gid))
    (hg : SMap.find? s.groups gid = some g) (hd : g.dueHeld = some f) (body : Nat → Group → State → StemRes) :
    runStem s body = .next ((s.freed.raiseHeld gid f).giveTurn gid g) := by
  simp [runStem, hc, hg, hd, State.freed]

/-- A stem word never stops while a group is its party. -/
theorem runStem_next {s : State} {gid : Nat} {g : Group} (hc : s.cur = some (.stem gid))
    (hg : SMap.find? s.groups gid = some g) (body : Nat → Group → State → StemRes) :
    ∃ t, runStem s body = .next t := by
  cases hd : g.dueHeld with
  | none => exact ⟨_, runStem_ready ⟨hc, hg, hd⟩ body⟩
  | some f => exact ⟨_, runStem_held hc hg hd body⟩

/-- A word that only changes its group leaves the group at the next word and everything else as it was. -/
theorem stemSet_ready {s : State} {gid : Nat} {g : Group} (h : StemReady s gid g) (f : Group → Group)
    (hpc : (f g).pc = g.pc) : stemSet s f = .next (s.stemDone gid (f g)) := by
  rw [stemSet, runStem_ready h]
  simp [State.stemApply, State.stemPass, State.modGroup, State.putGroup, State.stemDone, Group.stemDone, hpc]

@[simp] theorem stemApply_put_next (gid : Nat) (g g' : Group) (s : State) (h : g'.pc = g.pc) :
    State.stemApply gid g (.next (s.putGroup gid g')) = s.putGroup gid (g'.stemDone s.cycle) := by
  simp [State.stemApply, State.stemPass, State.modGroup, State.putGroup, Group.stemDone, h]

/-- What a command does when it may. -/
theorem mailbox_ready {s : State} {v : Via} {b : Bool} (h : CommandReady s v b) (body : State → State) :
    mailbox s v b body = .next (body s) := by
  obtain ⟨h1, h2, h3⟩ := h
  rcases h3 with h3 | h3 <;> simp [mailbox, h1, h2, h3]

/-- A leaf instruction of a slot of a group that is there does what its body says. -/
theorem runLeaf_ready {s : State} {gid slot next : Nat} {g : Group} {r : Run} {p : Path}
    (h : LeafReady s gid slot next g r p) (ctl : Ctl) (body : LCtx → Group → Run → State → LRes) :
    runLeaf s ctl body = .next (s.freed.leafApply (leafCtx gid slot next g p ctl) ctl
      (body (leafCtx gid slot next g p ctl) g r s.freed)) := by
  obtain ⟨hc, hg, hr, hp⟩ := h
  cases hd : g.redo <;> simp [runLeaf, hc, hg, hr, hp, leafCtx, takersOf, State.freed, hd]

/-- A leaf instruction never stops while a slot of a group is its party. -/
theorem runLeaf_next {s : State} {gid slot next : Nat} {g : Group} {r : Run} {p : Path}
    (h : LeafReady s gid slot next g r p) (ctl : Ctl) (body : LCtx → Group → Run → State → LRes) :
    ∃ t, runLeaf s ctl body = .next t := ⟨_, runLeaf_ready h ctl body⟩

/-- The form of an arithmetic leaf instruction whose operands are ready: each taking thread's result, and the flags. -/
theorem laneOp_ready {s : State} {gid slot next : Nat} {g : Group} {r : Run} {p : Path} {o : LOp} {w : Leaf}
    {ts : List Nat} {fs : List TFault} (h : LeafReady s gid slot next g r p)
    (hp : prepare g r (takersOf g slot p w.ctl) (leafSrcs w) [w.d] = .go ts fs)
    (f : Nat → Word → Word → Word → Word → (Nat → Nat) → Word × Flags) :
    laneOp s o w f = .next (s.freed.leafApply (leafCtx gid slot next g p w.ctl) w.ctl
      (.done (s.freed.putGroup gid (ts.foldl (fun (g1 : Group) t =>
        let x := f t (argA o w g r t) (argB o w g r t) (argC o w g r t) (argE o w g r t)
          (srDraw (srState g (leafCtx gid slot next g p w.ctl) w.rm) t)
        (g1.writeDest g r w.d t x.1).raise x.2) ({ g with srseed := srState g (leafCtx gid slot next g p w.ctl) w.rm } : Group))) 1 fs)) := by
  rw [laneOp, runLeaf_ready h]
  simp only [leafCtx] at *
  simp only [hp]

/-- A word whose body only stores its group. -/
theorem runStem_put {s : State} {gid : Nat} {g g' : Group} {body : Nat → Group → State → StemRes} (h : StemReady s gid g)
    (hb : body gid g s.freed = .next (s.freed.putGroup gid g')) (hp : g'.pc = g.pc) :
    runStem s body = .next (s.stemDone gid g') := by
  rw [runStem_ready h, hb, stemApply_put_next _ _ _ _ hp]; rfl

/-- A word whose body changes nothing. -/
theorem runStem_pass {s : State} {gid : Nat} {g : Group} {body : Nat → Group → State → StemRes} (h : StemReady s gid g)
    (hb : body gid g s.freed = .next s.freed) : runStem s body = .next (s.stemDone gid g) := by
  rw [runStem_ready h, hb]
  simp [State.stemApply, State.stemPass, State.modGroup, State.putGroup, State.stemDone, Group.stemDone,
    SMap.mod_of_find h.2.1]

/-- A word whose body goes to another address and changes nothing else. -/
theorem runStem_goto {s : State} {gid : Nat} {g : Group} {body : Nat → Group → State → StemRes} {pc : Word}
    (h : StemReady s gid g) (hb : body gid g s.freed = .goto s.freed pc) :
    runStem s body = .next (s.freed.putGroup gid (g.stemAt pc s.cycle)) := by
  rw [runStem_ready h, hb]
  simp [State.stemApply, State.stemGoto, State.modGroup, State.putGroup, Group.stemAt, SMap.mod_of_find h.2.1]

/-- A word that waits. -/
theorem runStem_wait {s s' : State} {gid : Nat} {g : Group} {body : Nat → Group → State → StemRes} (h : StemReady s gid g)
    (hb : body gid g s.freed = .wait s') : runStem s body = .next (s'.stemWait gid) := by
  rw [runStem_ready h, hb]; rfl

/-- A word that turns out not to be ready: it has not issued (R285). -/
theorem runStem_unready {s s' : State} {gid : Nat} {g : Group} {body : Nat → Group → State → StemRes}
    (h : StemReady s gid g) (hb : body gid g s.freed = .unready s') :
    runStem s body = .next (s'.unissue gid g) := by
  rw [runStem_ready h, hb]; rfl

/-- A word whose body completes. -/
theorem runStem_end {s s' : State} {gid : Nat} {g : Group} {body : Nat → Group → State → StemRes}
    (h : StemReady s gid g) (hb : body gid g s.freed = .next s') : runStem s body = .next (s'.stemEnd gid g) := by
  rw [runStem_ready h, hb]; rfl

/-- A stored leaf instruction issues and waits (R112): it stays where it is. -/
theorem runLeaf_body {s : State} {gid slot next : Nat} {g : Group} {r : Run} {p : Path} {ctl : Ctl}
    {body : LCtx → Group → Run → State → LRes} {x : LRes} (h : LeafReady s gid slot next g r p)
    (hb : body (leafCtx gid slot next g p ctl) g r s.freed = x) :
    runLeaf s ctl body = .next (s.freed.leafApply (leafCtx gid slot next g p ctl) ctl x) := by
  rw [runLeaf_ready h, hb]

end Sys2Proof.Machine
end

