-- ==== Sys2Proof/Tests/Slice0.lean ====
section
/-! SUPPORT. Tests: ill-formed terms that well-formedness refuses, words that decode to what they stand for, and for every
statement that has hypotheses a concrete state that meets them. -/
namespace Sys2Proof.Machine.Tests

open Sys2Proof Sys2Proof.Machine

set_option Elab.async false

/-! ## Well-formedness: one ill-formed term for each check -/

theorem smoke_cp_block : (Instr.cp 27 {}).wf = false := by decide
theorem smoke_cp_mods : (Instr.cp 0 { cwsp := true }).wf = false := by decide
theorem smoke_cp2_block : (Instr.cp2 25 {}).wf = false := by decide
theorem smoke_cp2_i64 : (Instr.cp2 0 { i64 := true }).wf = false := by decide
theorem smoke_gth_queue : (Instr.gth 0 { q := 1 }).wf = false := by decide
theorem smoke_gth_block : (Instr.gth 27 {}).wf = false := by decide
theorem smoke_qjoin : (Instr.qjoin 0).wf = false := by decide
theorem smoke_waita : (Instr.waita 31 .eq false).wf = false := by decide
theorem smoke_task : (Instr.task 31).wf = false := by decide
theorem smoke_tgraph : (Instr.tgraph 31).wf = false ∧ (Instr.tgraphResume 31).wf = false := by decide
theorem smoke_obres_block : (Instr.obres 29 1 0).wf = false := by decide
theorem smoke_obres_units : (Instr.obres 0 0 0).wf = false ∧ (Instr.obres 0 129 0).wf = false := by decide
theorem smoke_mx : (Instr.mx 29 1 false .ob false false 0).wf = false
    ∧ (Instr.mx 0 0 false .ob false false 0).wf = false := by decide
theorem smoke_grow : (Instr.grow 0).wf = false ∧ (Instr.grow 17).wf = false := by decide
theorem smoke_shrink : (Instr.shrink 0).wf = false ∧ (Instr.shrink 17).wf = false := by decide
theorem smoke_xset : (Instr.xset 0 129 0).wf = false ∧ (Instr.xset 0 128 1).wf = false := by decide
theorem smoke_strmBind : (Instr.strmBind 0 0).wf = false := by decide
theorem smoke_mqpush : (Instr.mqpush 30 1 false).wf = false ∧ (Instr.mqpop 31 1 false).wf = false := by decide
theorem smoke_mred : (Instr.mredFadd 29 0).wf = false ∧ (Instr.mredBfadd 29 0).wf = false
    ∧ (Instr.mredIadd 29 0).wf = false ∧ (Instr.mredFmax 29 0).wf = false ∧ (Instr.mredFmin 29 0).wf = false := by decide
theorem smoke_kload : (Instr.kload 30).wf = false := by decide
theorem smoke_moviLane_type : (Instr.moviLane {} .b8 (.lane 0) 0).wf = false := by decide
theorem smoke_moviLane_dest : (Instr.moviLane {} .b64 (.areg 0) 0).wf = false := by decide
theorem smoke_bra : (Instr.bra {} (.lane 0) 0 0).wf = false := by decide
theorem smoke_grft_source : (Instr.grft {} (.pred 0) 1 0 0 false).wf = false := by decide
theorem smoke_grft_mask : (Instr.grft {} (.lane 0) 0 0 0 false).wf = false
    ∧ (Instr.grft {} (.lane 0) 0x1FF 0 0 false).wf = false := by decide
theorem smoke_gret : (Instr.gret { g1 := 0 }).wf = false ∧ (Instr.gret { g2n := true }).wf = false := by decide
theorem smoke_leaf_type : (Instr.iadd { ty := .f32, d := .lane 0, s1 := .lane 0, s2 := .lane 0 }).wf = false := by decide
theorem smoke_leaf_operand : (Instr.iadd { ty := .b32, d := .areg 0, s1 := .lane 0, s2 := .lane 0 }).wf = false := by
  decide
theorem smoke_leaf_rounding :
    (Instr.iadd { ty := .b32, d := .lane 0, s1 := .lane 0, s2 := .lane 0, rm := .rtz }).wf = false := by decide
theorem smoke_leaf_hint :
    (Instr.iadd { ty := .b32, d := .lane 0, s1 := .lane 0, s2 := .lane 0, hint := .keep }).wf = false := by decide
theorem smoke_leaf_em :
    (Instr.iadd { ty := .b32, d := .lane 0, s1 := .areg 0, s2 := .lane 0, em := 1 }).wf = false := by decide
theorem smoke_leaf_good : (Instr.iadd { ty := .b32, d := .lane 1, s1 := .lane 2, s2 := .lane 3 }).wf = true := by decide

/-! ## Decoding: words written out from the encoding tables, or worked in the manual (named by file or rule) -/

/-- `ADDI a3, a4, -8` and `BR q2, back` (03_encoding.md, worked encodings). -/
theorem test_decode_addi_br : decodeStem 0x0864FFF8#32 = .ok (.addi 3 4 0xFFF8)
    ∧ decodeStem 0x513FFFFD#32 = .ok (.br 2 false 0x3FFFFD) := ⟨rfl, rfl⟩
/-- `SEL a1, q3, a2, a3` (R85), `MOVK a3, 0xBEEF, 2` (R87), `CMPI.lt q1, a4, -1` (R88). -/
theorem test_decode_alu : decodeStem 0x04221B0F#32 = .ok (.stemSel 1 3 2 3)
    ∧ decodeStem 0x2862BEEF#32 = .ok (.movk 3 2 0xBEEF) ∧ decodeStem 0x30913FFF#32 = .ok (.cmpi 1 .lt 4 (-1)) := ⟨rfl, rfl, rfl⟩
/-- The program of 05_stem.md. -/
theorem test_decode_program : decodeStem 0x70400000#32 = .ok (.sread 2 .group) ∧ decodeStem 0x18620003#32 = .ok (.shli 3 2 3)
    ∧ decodeStem 0x34801800#32 = .ok (.padd 4 0 3) ∧ decodeStem 0x24A00003#32 = .ok (.movi 5 3)
    ∧ decodeStem 0x64000000#32 = .ok (.lrun 0) ∧ decodeStem 0x60BFFFFF#32 = .ok (.loop 5 0x1FFFFF)
    ∧ decodeStem 0x00000002#32 = .ok .lwait ∧ decodeStem 0x68C00002#32 = .ok (.rfal 6 2)
    ∧ decodeStem 0x48C40000#32 = .ok (.sst 6 4 0) ∧ decodeStem 0x00000004#32 = .ok .exit := ⟨rfl, rfl, rfl, rfl, rfl, rfl, rfl, rfl, rfl, rfl⟩
/-- `XSET x2, 16, 32` (R108): op 0x36, d[22:21] = 2, limit 32, base 16. -/
theorem test_decode_xset : decodeStem 0xD8402010#32 = .ok (.xset 2 32 16) := rfl
/-- `TASK a8` and `TGRAPH a10`, plain and resumed (R200, R201). -/
theorem test_decode_task : decodeStem 0x9D000000#32 = .ok (.task 8) ∧ decodeStem 0xA1400000#32 = .ok (.tgraph 10)
    ∧ decodeStem 0xA1400001#32 = .ok (.tgraphResume 10) := ⟨rfl, rfl, rfl⟩
/-- `WAITA.p.geu a8` (R218) and `BAR bt3` (R227). -/
theorem test_decode_sync : decodeStem 0x99000005#32 = .ok (.waita 8 .geu true)
    ∧ decodeStem 0xA4000003#32 = .ok (.bar 3) := ⟨rfl, rfl⟩
/-- The `MX` of R243: b = 16, K field 2, A from lane registers, tile 3. -/
theorem test_decode_mx : decodeStem 0xCA001203#32 = .ok (.mx 16 2 false .lr false false 3) := rfl
/-- `PSIZE a6, a4` (R288), `STRM.BIND w2, a5` (R340), `STRM.JOIN w3, w1` (R341), `MRED.fadd.w2 a16` (R349). -/
theorem test_decode_posts : decodeStem 0x40C40000#32 = .ok (.psize 6 4) ∧ decodeStem 0x80450000#32 = .ok (.strmBind 2 5)
    ∧ decodeStem 0x84610000#32 = .ok (.strmJoin 3 1) ∧ decodeStem 0xE6000010#32 = .ok (.mredFadd 16 2) := ⟨rfl, rfl, rfl, rfl⟩
/-- `KLOAD a4` (R396) and `KDROP 2, 9` (R397). -/
theorem test_decode_keys : decodeStem 0xE8800000#32 = .ok (.kload 4) ∧ decodeStem 0xEC000209#32 = .ok (.kdrop 2 9) := ⟨rfl, rfl⟩
/-- Engine words written out from R37 and R265: op 0x22 with a[4], and `QJOIN` of queue 0, op 0x25. -/
theorem test_decode_engines : decodeStem 0x88800000#32 = .ok (.cp 4 {}) ∧ decodeStem 0x94000001#32 = .ok (.qjoin 1) := ⟨rfl, rfl⟩
/-- Reserved words (R41): op 0x13, op 0x3F, a shift count field above 63, fn 8 of the zero-operand group. -/
theorem test_decode_reserved : decodeStem 0x4C000000#32 = .error .reservedOpcode
    ∧ decodeStem 0xFC000000#32 = .error .reservedOpcode ∧ decodeStem 0x18000040#32 = .error .fieldNotZero
    ∧ (decodeStem 0x00000008#32).toOption = none := ⟨rfl, rfl, rfl, rfl⟩
/-- A bit above a stem word's fields is not dropped: `NOP` with any of d, s1 or s2 set is reserved (R37). -/
theorem test_decode_nop_fields : (decodeStem 0x00200000#32).toOption = none ∧ (decodeStem 0x00010000#32).toOption = none
    ∧ (decodeStem 0x00000800#32).toOption = none := by decide

/-- `IADD.b32 v1, v2, v3` in class 00 and in class 10 (03_encoding.md). -/
theorem test_decode_iadd :
    decodeStored 0x00 [0x03, 0x41, 0x20] = .ok (.iadd { ty := .b32, d := .lane 1, s1 := .lane 2, s2 := .lane 3 })
    ∧ decodeStored 0x80 [0, 0, 0, 0x80, 0xFF, 0xFF, 0x07, 0x08, 0x08, 0x70, 0x17, 0x00]
      = .ok (.iadd { ty := .b32, d := .lane 1, s1 := .lane 2, s2 := .lane 3 }) := ⟨rfl, rfl⟩
/-- `FFMA.f32 v4, v5, v6, v4` in class 01, and with safe set and stall 2 (03_encoding.md). -/
theorem test_decode_ffma :
    decodeStored 0x40 [0x40, 0xC0, 0x40, 0x01, 0x02, 0x57, 0x23]
      = .ok (.ffma { ty := .f32, d := .lane 4, s1 := .lane 5, s2 := .lane 6, s3 := .lane 4 })
    ∧ decodeStored 0x68 [0x40, 0xC0, 0x40, 0x01, 0x02, 0x57, 0x23]
      = .ok (.ffma { ctl := { safe := true, stall := 2 }, ty := .f32, d := .lane 4, s1 := .lane 5, s2 := .lane 6,
                     s3 := .lane 4 }) := ⟨rfl, rfl⟩
/-- A prefix of class 01 whose low bits are set is malformed (R59, 03_encoding.md). -/
theorem test_decode_poisoned : decodeStored 0x41 [0, 0, 0, 0, 0, 0, 0] = .error .badPrefix := rfl
/-- `IADD.b64 v2, v2, a5` and `LEND` (05_stem.md). -/
theorem test_decode_uniform :
    decodeStored 0x40 [0xF0, 0xBF, 0x90, 0x00, 0x01, 0x07, 0x00]
      = .ok (.iadd { ty := .b64, d := .lane 2, s1 := .lane 2, s2 := .areg 5 })
    ∧ decodeStored 0x40 [0xF0, 0xFF, 0xFF, 0xFF, 0xFF, 0x07, 0x52] = .ok (.lend {}) := ⟨rfl, rfl⟩
/-- `FCVT.bf16.f32.sr v3, v1` (08_number_formats.md). -/
theorem test_decode_fcvt :
    decodeStored 0x80 [0x05, 0x28, 0x00, 0x80, 0xFF, 0xFF, 0xFF, 0x07, 0x18, 0x70, 0x77, 0x40]
      = .ok (.fcvt { ty := .bf16, d := .lane 3, s1 := .lane 1, opx := 5, rm := .sr }) := rfl
/-- `SCAN.add` with chain under p1 (09_neighbour_chain.md). -/
theorem test_decode_scan :
    decodeLeaf 0x840170180941FFFF80008000
      = .ok (.scanChain { ctl := { g1 := 1 }, ty := .b64, d := .lane 3, s1 := .lane 2, s2 := .const 0 }) := rfl
/-- `LDG.b32 v4, a6, 72` (11_grove_sram.md). -/
theorem test_decode_ldg :
    decodeStored 0x80 [0x00, 0x00, 0x01, 0x80, 0xFF, 0x48, 0x00, 0x18, 0x22, 0x70, 0x17, 0x60]
      = .ok (.ldg { ty := .b32, d := .lane 4, s1 := .areg 6, imm := some 72 }) := rfl
/-- `GRET` (R361) and `GRFT v4, look, 0x0030` (18_graft.md), plain and with `.fb`. -/
theorem test_decode_graft :
    decodeStored 0x40 [0xF0, 0xFF, 0xFF, 0xFF, 0xFF, 0x07, 0xA1] = .ok (.gret {})
    ∧ decodeLeaf 0xA0077FF81000C00074000000 = .ok (.grft {} (.lane 4) 0x30 0x1D 0 false)
    ∧ decodeLeaf 0xA0077FF81000C00074000001 = .ok (.grft {} (.lane 4) 0x30 0x1D 0 true) := ⟨rfl, rfl, rfl⟩
/-- `MOVI.b32 v2, 1` from R52: opcode 0x17, type 1, both guards p7, d = 2, [66:58] = 0x1FF, imm32 = 1. -/
theorem test_decode_movi : decodeLeaf 0x17177017FC00000004000000 = .ok (.moviLane {} .b32 (.lane 2) 1) := rfl
/-- `BRA p0, +16, reconvergence +32` from R52: func[16] set, [57:40] = 16, [39:31] = 32, s1 = p0. -/
theorem test_decode_bra : decodeLeaf 0x500770060000101000010000 = .ok (.bra {} (.pred 0) 16 32) := rfl
/-- The encoder writes the same words. -/
theorem test_encode_words : encodeStem (.stemSel 1 3 2 3) = some 0x04221B0F
    ∧ encodeLeaf (.ffma { ty := .f32, d := .lane 4, s1 := .lane 5, s2 := .lane 6, s3 := .lane 4 })
      = some 0x23577020140C04FF80000000 := by decide
/-- The host's questions: the decoder gives a row's instruction and the next step runs it (R41, R77). -/
theorem test_fetch_word : decodeTableWord 32 0x24A00003 = some (.movi 5 3)
    ∧ (match step (State.reset.withFetchWord 32 0x24A00003) with
        | .next t => (SMap.find? t.groups 0).map (fun g => (g.areg 5, g.pc))
        | _ => none) = some ((3 : Word), (0x10000000004 : Word)) := ⟨rfl, by decide +kernel⟩

/-! ## Concrete states -/

/-- A partition, a privileged task with one scratch unit, a tag and an argument block, its one cluster, and its group. -/
def wP : Part :=
  { num := 0, tenant := 0, poolBase := 0, poolCnt := 2032, bud := ⟨4096, 4096, 4096, 8, 96, 2048, 4096⟩, prio := 8
    lease := 10, fpolicy := 1, system := true, keyId := 0, dir := some (0x10000, 16), frames := 1, localS := 1
    localBase := 0x400000 }
def wK : Task :=
  { part := 0, rcb := 0x10000000200, desc := 0x10000000400, no := 0, order := 0, privileged := true, stemEntry := 2 ^ 40
    leafBase := 0x10000001000, args := 0x10000000100, ncl := 1, shape := 0, chain := false, coop := false, idem := false
    podw0 := false, ngm1 := 1, chm1 := 0, scr := 1, obu := 8, tags := 1, argLen := 64, cwPtr := 0, cwVal := 0, ranges := []
    eff := { prio := 8, lease := 10, policy := 1, pool := (0, 2032) } }
def wC : Cluster :=
  { tid := 0, idx := 0, st := .resident, wgs := [{ core := some 0, units := [0], slice := true }] }
def wG : Group :=
  { part := 0, tid := 0, cid := 0, wg := 0, idx := 0, core := some 0, pc := 0x10000000000, chunks := 2, lease := 10 }
/-- The machine with them: object 1 is 64 KiB of HBM at 0x30000, with every right. -/
def wS : State :=
  { State.reset.installWord 0 with parts := [(0, wP)], tasks := [(0, wK)], clusters := [(0, wC)], groups := [(0, wG)] }
/-- The same with the group as given, its stem word due. -/
def st (g : Group) : State := { wS with groups := [(0, g)], cur := some (.stem 0) }
/-- The descriptor of object 1. -/
def wD : Desc :=
  { valid := true, r := true, w := true, a := true, e := true, g := false, isSealed := false, lkey := false, keyh := 0
    size := 65536, plist := 0x20000, loc := ⟨0, 0, 0⟩, alt := ⟨0, 0, 0⟩, hset := false, homePkg := 0, homeDie := 0
    clean := true }
/-- A run with the pointer to object 1 in a1, and a path of thread 0. -/
def wR : Run := { off := 0, a := [(1, 0x10000000000)], x := [], lease := 10 }
def wQ : Path := { off := 0, mask := 1, jrec := none }
def wL : Group := { wG with run := some wR, slot0 := some wQ }
/-- The same with the group as given, the instruction of its leaf slot 0 due. -/
def lf (g : Group) : State := { wS with groups := [(0, g)], cur := some (.leaf 0 0 8) }

theorem stReady (g : Group) (h : g.dueHeld = none) : StemReady (st g) 0 g := ⟨rfl, rfl, h⟩
theorem lfReady (g : Group) (r : Run) (p : Path) (hr : g.run = some r) (hp : g.slot 0 = some p) :
    LeafReady (lf g) 0 0 8 g r p := ⟨rfl, rfl, hr, hp⟩

/-! ## The premises of every statement are met: the stem -/

theorem witness_StemWordDecodesToItsInstruction :
    (Instr.movk 31 3 0xFFFF).wf = true ∧ (encodeStem (.movk 31 3 0xFFFF)).isSome = true := by decide
theorem witness_AcceptedStemWordIsTheEncodersWord : decodeStem 0x2BE3FFFF#32 = .ok (.movk 31 3 0xFFFF) := rfl
theorem witness_StoredLeafInstructionDecodesToItself :
    (Instr.ffma { ty := .f32, d := .lane 127, s1 := .lane 0, s2 := .areg 31, s3 := .pred 7 }).wf = false
    ∧ (Instr.ffma { ty := .f32, d := .lane 127, s1 := .lane 0, s2 := .areg 31, s3 := .lane 4 }).wf = true
    ∧ (encodeLeaf (.ffma { ty := .f32, d := .lane 127, s1 := .lane 0, s2 := .areg 31, s3 := .lane 4 })).isSome = true := by
  decide
theorem witness_ExampleWordsDecode : (7#11).toNat = 7 ∧ 8 ≤ (8#11).toNat ∧ 8 ≤ (2047#11).toNat := by decide
theorem witness_StemArithmeticWordsWriteTheirResults : StemReady (st wG) 0 wG := stReady _ rfl
theorem witness_StemBranchesSetThePc : StemReady (st { wG with pc := 0x1FFFFFFFFFC }) 0 { wG with pc := 0x1FFFFFFFFFC } :=
  stReady _ rfl
theorem witness_PlainControlWordsCompleteOrWait :
    (StemReady (st wG) 0 wG ∧ wG.areg 1 = 0 ∧ wG.run = none ∧ wG.pend = none ∧ wG.buds = 0 ∧ wG.fills = [])
    ∧ (StemReady (st { wL with a := [(1, 256)], pend := some wR, buds := 1 }) 0
        { wL with a := [(1, 256)], pend := some wR, buds := 1 } ∧ ({ wL with a := [(1, 256)] } : Group).areg 1 ≠ 0
      ∧ wL.run.isSome = true) :=
  ⟨⟨stReady _ rfl, by decide⟩, stReady _ rfl, by decide⟩
theorem witness_StemReadsOfSpecialRegistersAndLanes :
    (StemReady (st wG) 0 wG ∧ SMap.find? (st wG).tasks wG.tid = some wK ∧ SMap.find? (st wG).clusters wG.cid = some wC
      ∧ wG.run = none ∧ wG.pend = none)
    ∧ (StemReady (st { wG with active := 0 }) 0 { wG with active := 0 } ∧ (15#7).toNat < 8 * wG.chunks
      ∧ threadsOf (0 : Mask) = [])
    ∧ (threadsOf (0x80000000 : Mask) = [31] ∧ (wG.lreg 15 31).fe = .full
      ∧ (wG.lreg 15 31).mark = none) :=
  ⟨⟨stReady _ rfl, by decide +kernel⟩, ⟨stReady _ rfl, by decide +kernel⟩, by decide +kernel⟩
theorem witness_RunsStartAndGroupsHaltExitAndDrain :
    (StemReady (st wG) 0 wG ∧ wG.pend = none ∧ wG.run = none ∧ Privileged (st wG) wG)
    ∧ (StemReady (st wL) 0 wL ∧ wL.pend = none ∧ wL.run = some wR)
    ∧ (wG.blocked = false ∧ StemReady (st { wG with blocked := true }) 0 { wG with blocked := true })
    ∧ (wG.fills = [] ∧ wG.buds = 0 ∧ (st wG).stntsDone 0 wG = true ∧ (st wG).enginePosted 0 = false
      ∧ (st wG).streamPosted 0 = false ∧ (st wG).matrixPosted 0 = false ∧ (st wG).pushPosted 0 = false ∧ wG.held = []
      ∧ wG.drainTs = [])
    ∧ (StemReady (st { wG with stnts := [{ addr := 0x30000, bytes := [] }] }) 0
        { wG with stnts := [{ addr := 0x30000, bytes := [] }] }
      ∧ (st { wG with stnts := [{ addr := 0x30000, bytes := [] }] }).stntsDone 0
        { wG with stnts := [{ addr := 0x30000, bytes := [] }] } = false) :=
  ⟨⟨stReady _ rfl, rfl, rfl, wK, rfl, rfl⟩, ⟨stReady _ rfl, rfl, rfl⟩, ⟨rfl, stReady _ rfl⟩, by decide +kernel, stReady _ rfl,
    by decide +kernel⟩
/-- An object in module 0, whose port is the package's first, bound to slot 1; object 1 as the source. -/
def wMD : Desc := { wD with loc := ⟨1, 0, 0⟩, alt := ⟨1, 0, 0⟩, size := 4096, hset := true }
def wH : Group :=
  { wG with a := [(0, 0x30000000000), (1, 0x10000004000), (2, 9), (3, 0x30000000800)], wslots := [(1, 5)] }
def wM (g : Group) : State :=
  { st g with
    crown := { podset := some (2, 0), ports := [(0, { up := true })] }
    cores := [(0, { otlb := [(1, wD), (3, wMD)] })]
    dies := [(0, { port := [(portKey 0 3 0, { alt := false, frame := 1 })] })]
    streams := [(5, { gid := 0, slot := 1, part := 0, rcb := 0x10000000200 })] }
/-- A pointer to an object that does not exist, a page that is not there, a word that is there, a page whose port is
down. -/
theorem witness_StemTrapsAndFailedFetchesFault :
    (StemReady (st wG) 0 wG ∧ FaultGoesOn (st wG) wG)
    ∧ (∃ s : State, StemReady s 0 wG ∧ ¬ Privileged s wG ∧ FaultGoesOn s wG)
    ∧ (((st wG).freed.fetchStem wG).1 = .word 0)
    ∧ (((st { wG with pc := 0x20000000000 }).freed.fetchStem { wG with pc := 0x20000000000 }).1 = .fault .objInvalid
      ∧ FaultGoesOn (st { wG with pc := 0x20000000000 }) { wG with pc := 0x20000000000 })
    ∧ (∃ s : State, StemReady s 0 wG ∧ ∃ m, (s.freed.fetchStem wG).1 = .miss m)
    ∧ (∃ (s : State) (g : Group), StemReady s 0 g ∧ (s.freed.fetchStem g).1 = .cut) := by
  refine ⟨⟨stReady _ rfl, wK, wC, rfl, rfl, rfl⟩, ⟨{ st wG with tasks := [(0, { wK with privileged := false })] },
    ⟨rfl, rfl, rfl⟩, ?_, { wK with privileged := false }, wC, rfl, rfl, rfl⟩, by decide +kernel,
    ⟨by decide +kernel, wK, wC, rfl, rfl, rfl⟩, ⟨(st wG).hbmWrite 0 [(0x20007, 0)], ⟨by decide +kernel, by decide +kernel, rfl⟩,
      { miss := { obj := 1, page := 0, mig := false }, mal := false, kind := .stemFetch, first := 0 }, by decide +kernel⟩,
    { wM { wH with pc := 0x30000000000 } with crown := { podset := some (2, 0) } }, { wH with pc := 0x30000000000 },
    ⟨rfl, rfl, rfl⟩, by decide +kernel⟩
  rintro ⟨t, h, hp⟩
  have : t = { wK with privileged := false } := by simpa [st, SMap.find?, wG] using h.symm
  subst this; exact absurd hp (by decide)
theorem witness_FaultsRestartClustersAndComeBeforeWords :
    (∃ (s : State) (k : Task), StemReady s 0 wG ∧ wG.host = none ∧ SMap.find? s.tasks wG.tid = some k
      ∧ SMap.find? s.clusters wG.cid = some { wC with restarts := 2 } ∧ k.eff.policy = 2 ∧ k.idem = true
      ∧ ({ wC with restarts := 2 } : Cluster).restarts < 3)
    ∧ (∃ (s : State) (g : Group) (f : HeldFault), s.cur = some (.stem 0) ∧ SMap.find? s.groups 0 = some g
      ∧ g.dueHeld = some f ∧ FaultGoesOn s g ∧ (encodeStem .nop).isSome = true) :=
  ⟨⟨{ st wG with tasks := [(0, { wK with idem := true, eff := { wK.eff with policy := 2 } })]
                 clusters := [(0, { wC with restarts := 2 })] }, _, ⟨rfl, rfl, rfl⟩, rfl, rfl, rfl, rfl, rfl, by decide⟩,
   ⟨st { wG with held := [{ code := .streamSeq, addr := 8 }] }, _, { code := .streamSeq, addr := 8 }, rfl, rfl, by decide,
    ⟨wK, wC, rfl, rfl, rfl⟩, by decide⟩⟩
/-- Four groups that fill a lane, each blocked in a `GROW`. -/
def wBig (i : Nat) : Group := { wG with idx := i, pos := i, chunks := 16, order := i, wait := .grow 1 }
def wFull : State := { wS with groups := [(0, wBig 0), (1, wBig 1), (2, wBig 2), (3, wBig 3)] }

/-- A `GROW` that fits, a `SHRINK`; a core whose one resident group is blocked by a `GROW`, before and after 32 cycles;
one that is being evicted; one that comes back. -/
theorem witness_GrowAndShrinkChangeTheAllotment :
    (StemReady (st wG) 0 wG ∧ wG.run = none ∧ wG.pend = none ∧ wG.chunks + (14#5).toNat ≤ 16
      ∧ (st wG).groupFitsAlone wG { lreg := 14 + (st wG).clusterChunks wG.cid } = true
      ∧ (st wG).growFits 0 wG.coreN wG.lane wG 14 14 = true ∧ (1#5).toNat < wG.chunks)
    ∧ (∃ s : State, (s.residents 0).find? (fun e => e.2.evicting) = none ∧ s.growDead 0 = true
      ∧ (s.core 0).growStuck = none)
    ∧ (∃ (s : State) (t : Nat) (e : Nat × Group), (s.residents 0).find? (fun e => e.2.evicting) = none ∧ s.growDead 0 = true
      ∧ (s.core 0).growStuck = some t ∧ t + 32 ≤ s.cycle ∧ s.youngest (s.residents 0) = some e)
    ∧ (∃ (s : State) (g : Group), (s.residents 0).find? (fun e => e.2.evicting) = some (0, g)
      ∧ SMap.find? s.groups 0 = some g ∧ s.saveReady 0 g = true)
    ∧ (∃ (s : State) (pos : Nat) (g : Group), SMap.find? s.groups 0 = some g ∧ g.core = some 0 ∧ g.wait = .grow 1
      ∧ s.placesFit 0 0 31 g = true ∧ s.stopping g = false ∧ s.freePos 0 31 = some pos ∧ g.evicted = true ∧ g.fifoAgain = []
      ∧ s.growFits 0 0 31 g (g.chunks + 1) (g.chunks - Nat.min g.chunks 2 + 1) = true) := by
  refine ⟨⟨stReady _ rfl, by decide +kernel⟩, ⟨wFull, by decide +kernel⟩,
    ⟨{ wFull.modCore 0 (fun c => { c with growStuck := some 0 }) with cycle := 32 }, 0, (3, wBig 3), by decide +kernel⟩,
    ⟨st { wG with wait := .grow 1, evicting := true }, { wG with wait := .grow 1, evicting := true }, by decide +kernel⟩,
    ⟨st { wG with wait := .grow 1, evicted := true }, 0, { wG with wait := .grow 1, evicted := true }, by decide +kernel⟩⟩

/-! ## The stem's memory, barriers, posts -/

theorem pairOf {α β : Type} {x : α × β} {a : α} (h : x.1 = a) : x = (a, x.2) := by rw [← h]
theorem okPairOf {ε α β : Type} {x : Except ε α × β} {a : α} (h : x.1.toOption = some a) : x = (.ok a, x.2) := by
  obtain ⟨x, y⟩ := x
  cases x with
  | error e => simp [Except.toOption] at h
  | ok b => simp [Except.toOption] at h; simp [h]
theorem okOf {ε α : Type} {x : Except ε α} {a : α} (h : x.toOption = some a) : x = .ok a := by
  cases x with
  | error e => simp [Except.toOption] at h
  | ok b => simp [Except.toOption] at h; simp [h]

theorem ok2Of {ε ε' α : Type} {x : Except ε (Except ε' α)} {a : α}
    (h : x.toOption.bind Except.toOption = some a) : x = .ok (.ok a) := by
  cases x with
  | error e => simp [Except.toOption] at h
  | ok y => exact congrArg _ (okOf (by simpa [Except.toOption] using h))
theorem ok2PairOf {ε ε' α β : Type} {x : Except ε (Except ε' α) × β} {a : α}
    (h : x.1.toOption.bind Except.toOption = some a) : x = (.ok (.ok a), x.2) := pairOf (ok2Of h)

def wA : Group := { wG with a := [(1, 0x10000000008)] }

/-- A descriptor that the OTLB lacks and one that it holds; both `PADDI` results inside the object's bounds, at each
end; a store's and a load's place; an access past the end. -/
theorem witness_PointerAndWordAccessesOfTheStem :
    (∃ u, (st wA).freed.coreDesc 0 0 1 = (.ok wD, u) ∧ (st wA).otlbDesc 0 wP 1 = none
      ∧ (({ st wA with cores := [(0, { otlb := [(1, wD)] })] } : State).otlbDesc 0 wP 1).bind Except.toOption = some wD
      ∧ (st wA).afterRuns 0 wA = true ∧ anyRight 0x10000000008 wD = true
      ∧ StemReady (st wA) 0 wA
      ∧ (0 : Int) ≤ 8 + (-8#16).toInt ∧ (8 : Int) + 0 ≤ 65536)
    ∧ (∃ u v bs, SMap.find? (st wA).parts 0 = some wP
      ∧ (st wA).freed.checkAccess 0 wA
          { ptr := 0x10000000008, e := 65528, n := 8, align := 8, needR := true, kind := .read }
        = (.ok (.hbm 0x3FFF8) 0 wD, u)
      ∧ u.coreRead 0 0 10 .normal 0x3FFF8 8 = (bs, v))
    ∧ (∃ u, (st wA).freed.checkAccess 0 wA
          { ptr := 0x10000000008, e := 65528, n := 8, align := 8, needW := true, wr := true, unbound := true
            kind := .write } = (.ok (.hbm 0x3FFF8) 0 wD, u))
    ∧ (∃ u, StemReady (st wA) 0 wA
      ∧ FaultGoesOn (st wA) wA
      ∧ (st wA).freed.coreDesc 0 0 1 = (.ok wD, u)
      ∧ u.tasks = (st wG).tasks ∧ u.clusters = (st wG).clusters
      ∧ u.groups = (st wA).groups
      ∧ ((65529 : Int) < 0 ∨ (wD.size : Int) < 65529 + 8)) :=
  ⟨⟨_, okPairOf (by decide +kernel), Option.isNone_iff_eq_none.mp (by decide +kernel), by decide +kernel, by decide +kernel,
      by decide, stReady _ rfl, by decide⟩,
    ⟨_, _, _, rfl, pairOf (by decide +kernel), pairOf rfl⟩, ⟨_, pairOf (by decide +kernel)⟩,
    ⟨_, stReady _ rfl, ⟨wK, wC, rfl, rfl, rfl⟩, okPairOf (by decide +kernel), (LookOnly.coreDesc _ _ _ _).tasks,
      (LookOnly.coreDesc _ _ _ _).clusters, (LookOnly.coreDesc _ _ _ _).groups, by decide⟩⟩

/-- A word that holds, one asleep; the scratch window's first word; a transaction barrier in the window's bytes 16 to 31
with one arrival left; groups at barriers: alone, released, too early, a tag in range. -/
def wTxb : State := (st { wG with a := [(1, 16), (2, 1)] }).sramWrite (addrBytes 16 (bytesOf 16 (2 ^ 56 + 2 ^ 40)))
theorem witness_SynchronisationWordsPassOrSleep :
    (∃ u, StemReady (st wA) 0 wA ∧ wA.wait ≠ .sleep ∧ SMap.find? (st wA).parts 0 = some wP
      ∧ (st wA).freed.checkAccess 0 wA { ptr := 0x10000000008, e := 8, n := 8, align := 8, needR := true
                                         badTiers := [2, 3], kind := .read } = (.ok (.hbm 0x30008) 0 wD, u)
      ∧ (u.lrTimes 0 (lineOf 0x30008) 10).hbmBytes 0 0x30008 8 = bytesOf 8 (0 : Word).toNat)
    ∧ ((st wG).checkScratch wG (wG.areg 1).toInt 8 8 = .ok 0 ∧ (st wG).sramBad 0 8 = false
      ∧ ((st wG).freed.scratchRead 0 0 8).1 = bytesOf 8 (0 : Word).toNat)
    ∧ (StemReady wTxb 0 { wG with a := [(1, 16), (2, 1)] } ∧ wTxb.checkScratch wG 16 16 16 = .ok 16
      ∧ wTxb.txbAt 16 = .ok { phase := 0, expect := 1, remain := 1, pend := 0 } ∧ 0 + 1 < 2 ^ 40 ∧ (1 : Nat) ≠ 0)
    ∧ (SMap.find? (st wG).tasks 0 = some wK ∧ (0#3).toNat < wK.tags
      ∧ StemReady (st { wG with wait := .wgbarDone }) 0 { wG with wait := .wgbarDone }
      ∧ StemReady (st { wG with wait := .barDone 0 0 7 }) 0 { wG with wait := .barDone 0 0 7 } ∧ 0 ≤ (st wG).cycle
      ∧ StemReady (st { wG with wait := .barDone 0 96 7 }) 0 { wG with wait := .barDone 0 96 7 } ∧ (st wG).cycle < 96)
    ∧ (∃ (s : State) (g h : Group), SMap.find? s.groups 0 = some g ∧ g.host = none
      ∧ (∀ x ∈ s.groups, x.2.wait = .wgbar) ∧ SMap.find? (st h).groups 0 = some h
      ∧ (∀ x ∈ (st h).groups, x.2.wait = .bar 0 7))
    ∧ (SMap.find? (st { wG with wait := .sleep }).groups 0 = some { wG with wait := .sleep }
      ∧ ∀ v, SMap.find? (st { wG with wait := .txbSleep 16 v }).groups 0 = some { wG with wait := .txbSleep 16 v }
        ∧ (st wG).scratchAddr 0 0 16 = some 16) :=
  ⟨⟨_, stReady _ rfl, by decide, rfl, pairOf (by decide +kernel), by decide +kernel⟩,
    ⟨okOf (by decide +kernel), by decide +kernel, by decide +kernel⟩,
    ⟨⟨rfl, by decide +kernel, rfl⟩, okOf (by decide +kernel), okOf (by decide +kernel), by decide, by decide⟩,
    ⟨rfl, by decide, stReady _ rfl, stReady _ rfl, by decide, stReady _ rfl, by decide +kernel⟩,
    ⟨st { wG with wait := .wgbar }, { wG with wait := .wgbar }, { wG with wait := .bar 0 7 }, rfl, rfl, by decide, rfl,
      by decide⟩, rfl, fun _ => ⟨rfl, by decide +kernel⟩⟩
/-- Banks at reset (8 in cache mode, 7 in scratch mode and outside every window), and a FIFO bank of the cluster. -/
theorem witness_SrmodeSwitchesAFreeBank :
    (StemReady (st wG) 0 wG ∧ (((st wG).grove 0).bank 8).mode = .cache ∧ (st wG).groupFits wG { sram := 64 } = true
      ∧ (((st wG).grove 0).bank 7).mode = .scratch ∧ (st wG).bankInUse 0 7 = false)
    ∧ (∃ s : State, StemReady s 0 wG ∧ ((s.grove 0).bank 15).mode = .fifo ∧ ((s.grove 0).bank 15).owner = wG.cid
      ∧ ((s.grove 0).bank 15).entries = [] ∧ ((s.grove 0).bank 15).pushq = [] ∧ ((s.grove 0).bank 15).popq = []) :=
  ⟨⟨stReady _ rfl, by decide +kernel⟩,
    ⟨{ st wG with groves := [(0, { banks := [(15, { mode := .fifo, owner := 0 })] })] }, ⟨rfl, rfl, rfl⟩,
      by decide +kernel⟩⟩
def wB : Group := { wG with a := [(1, 5), (2, 0xFFFFFFFFFFFFFFFF)], wslots := [(1, 5), (3, 6)] }
/-- A slot bound to the identifier named, free slots, an identifier in the pool that nothing holds, two bound slots. -/
theorem witness_StreamWordsBindAndJoinSlots :
    (StemReady (st wB) 0 wB ∧ SMap.find? wB.wslots 1 = some (wB.areg 1).toNat ∧ SMap.find? wB.wslots 2 = none
      ∧ (wB.areg 2).toNat = 2 ^ 64 - 1 ∧ (st wB).bindFault wB 2031 = none ∧ (2031 : Nat) ≠ 2 ^ 64 - 1)
    ∧ (∃ (s : State) (x : Stream), StemReady s 0 wB ∧ SMap.find? wB.wslots 3 = some 6 ∧ SMap.find? wB.wslots 1 = some 5
      ∧ (3#3) ≠ 1#3 ∧ SMap.find? s.streams 6 = some x) :=
  ⟨⟨stReady _ rfl, by decide +kernel⟩,
    ⟨{ st wB with streams := [(6, { gid := 0, slot := 3, part := 0, rcb := 0 })] }, _, ⟨rfl, rfl, rfl⟩, rfl, rfl,
      by decide, rfl⟩⟩
theorem witness_ModuleQueueAndReductionWordsSend :
    (∃ u, StemReady (wM wH) 0 wH ∧ wH.wait = .none ∧ (wM wH).afterRuns 0 wH = true
      ∧ (wM wH).freed.mqCheck wH (wH.areg 0) 1 true = (.ok (.ok (0, [65536], 504)), u) ∧ u.podBlocked 0 = false)
    ∧ (∃ u, (wM wH).freed.mqCheck wH (wH.areg 0) 1 false = (.ok (.ok (0, [65536], 504)), u) ∧ u.podBlocked 0 = false)
    ∧ (∀ ok, StemReady (wM { wH with wait := .mqDone ok 7 }) 0 { wH with wait := .mqDone ok 7 })
    ∧ (∃ r : State, SMap.find? r.groups 0 = some { wH with wait := .mqSleep 0 0 512 } ∧ 0 + 1024 ≤ r.cycle)
    ∧ (SMap.find? (wM wH).parts 0 = some wP ∧ (wM wH).slotStream wH 1 = some 5
      ∧ (SMap.find? (wM wH).streams 5).isSome = true
      ∧ (wM wH).redCheck wH wP 0x30000000000 0x10000004000 0x30000000800 9 4 true = .ok (wMD, wMD)
      ∧ redPieces 0 10 0 9 = [(0, 8), (8, 1)]
      ∧ (wM wH).redPlaces wH wP 0x30000000000 wMD [0, 32] = .ok (.ok [(0, 65536), (0, 65568)])
      ∧ (wM wH).redPlaces wH wP 0x30000000800 wMD [0x800] = .ok (.ok [(0, 67584)]) ∧ (wM wH).podBlocked 0 = false) := by
  exact ⟨⟨_, ⟨rfl, rfl, rfl⟩, rfl, by decide +kernel, ok2PairOf (by decide +kernel), by decide +kernel⟩,
    ⟨_, ok2PairOf (by decide +kernel), by decide +kernel⟩, fun ok => ⟨rfl, rfl, rfl⟩,
    ⟨{ wM { wH with wait := .mqSleep 0 0 512 } with cycle := 1024 }, rfl, by decide⟩, rfl, by decide +kernel,
    by decide +kernel, okOf (by decide +kernel), by decide +kernel, ok2Of (by decide +kernel),
    ok2Of (by decide +kernel), by decide +kernel⟩

theorem wMready (push : Bool) : QueueReady (wM wH) 0 wH 0x30000000000 1 push :=
  ⟨wP, wMD, some 0, 0, 65536, 1, [65536], _, _, rfl, okPairOf (by decide +kernel), pairOf (by decide +kernel), .inl rfl,
    ok2Of (by decide +kernel),
    rfl, rfl, .inr rfl, by decide, by decide, by decide, by decide, by decide, by decide, by decide, by decide +kernel,
    by decide +kernel, by decide +kernel⟩
theorem wMreduces (esz : Nat) (h : esz = 4 ∨ esz = 2) : ReductionReady (wM wH) 0 wH 0 1 esz :=
  ⟨wP, wMD, wD, wMD, 0, [65536, 65568], 67584, rfl, okOf (by decide +kernel), okOf (by decide +kernel),
    okOf (by decide +kernel), ok2Of (by decide +kernel), ok2Of (by decide +kernel), by
    rcases h with rfl | rfl <;> decide +kernel⟩
/-- A queue and a reduction that are ready, answers that are there, a pop that has waited 1,024 cycles and one whose
header line has been taken back; descriptors and graphs as for the posting words. -/
theorem witness_QueueReductionAndPostingFormsComplete :
    (∀ push, StemReady (wM wH) 0 wH ∧ wH.wait = .none ∧ QueueReady (wM wH) 0 wH (wH.areg 0) 1 push)
    ∧ (∀ ok, StemReady (wM { wH with wait := .mqDone ok 7 }) 0 { wH with wait := .mqDone ok 7 })
    ∧ (∀ n ∈ [4, 2], ReductionReady (wM wH) 0 wH 0 1 n)
    ∧ (∀ c ∈ [0, 1], ∃ r : State, SMap.find? r.groups 0 = some { wH with wait := .mqSleep c 0 512 }
      ∧ (c = 0 ∨ c + 1024 ≤ r.cycle)) := by
  refine ⟨fun push => ⟨⟨rfl, rfl, rfl⟩, rfl, wMready push⟩, fun ok => ⟨rfl, rfl, rfl⟩, fun n hn => wMreduces n (by simpa using hn),
    fun c _ => ⟨{ wM { wH with wait := .mqSleep c 0 512 } with cycle := 1025 }, rfl, ?_⟩⟩
  simp_all; omega

/-! ## Engines, matrices, work posted, keys -/

/-- 64 bytes from one place of object 1 to another, on slot 0 of the group (not bound); every queue empty. -/
def wE : Group := { wG with a := [(0, 0x10000004000), (1, 0x10000005000), (2, 64)] }
theorem witness_EngineWordsPostToTheirQueues :
    StemReady (st wE) 0 wE ∧ SMap.find? (st wE).parts 0 = some wP
    ∧ (st wE).postCheck wP (postReq {} (cpBlock {} (fun i => wE.areg (0 + i))) 0 (4096 * (st wE).scrOf wE)
        ((st wE).slotStream wE 0).isSome) = .ok []
    ∧ (let h : Group := { wE with a := SMap.put wE.a 2 0x1_00_0000_0040 }
       (st h).postCheck wP (postReq {} (cp2Block {} (fun i => h.areg (0 + i))) 0 4096 false) = .ok [])
    ∧ (let h : Group := { wE with a := [(0, 0x10000004000), (1, 0x10000005000), (2, 0x10000006000), (3, 1 <<< 46 ||| 64)] }
       (st h).postCheck wP (postReq {} (gthBlock {} (fun i => h.areg (0 + i))) 0 4096 false) = .ok [])
    ∧ (∀ q, q < 5 → (0b11111#5).getLsbD q = true → (((st wE).grove 0).queue q).length < 64) :=
  ⟨stReady _ rfl, rfl, okOf (by decide +kernel), okOf (by decide +kernel), okOf (by decide +kernel), by decide +kernel⟩
/-- A range of 32 lines of 64 b8 elements; a group that names it in an `MX`, a lane source beside it. -/
def wRg : Range :=
  { ty := .b8, sgn := false, blk := 0, lines := 32, depth := 64, src := 0x10000004000, scale := 0, pitch := 64, units := 1
    keyh := none, isSealed := false }
def wO : Group := { wG with a := [(0, 0x10000004000), (1, 0x300400020)] }
def wOb : State :=
  { st wO with clusters := [(0, { wC with wgs := [{ core := some 0, units := [0], slice := true, ranges := [(3, wRg)] }] })] }
def wX : Group := { wG with a := [(0, 0x1B8), (2, 0x33)] }
theorem witness_OperandBufferAndMatrixWordsAct :
    (StemReady (st wO) 0 wO ∧ (st wO).holdsSlice wO = true ∧ (st wO).wg? 0 0 = wC.wgs.head?
      ∧ parseShape 0x10000004000 0x300400020 0 0 1 = some wRg ∧ 0 + wRg.units ≤ (st wO).obuOf wO
      ∧ (st wO).rangeSrc 0 wP wRg = .ok wD)
    ∧ (StemReady wOb 0 wO ∧ wOb.fillCheck 0 wP wRg = none
      ∧ (∀ x ∈ (wOb.grove 0).passes, x.names 0 3 = false)
      ∧ (∀ f ∈ (wOb.grove 0).obFills, ¬ (f.core = 0 ∧ f.ob = 3)))
    ∧ (StemReady { wOb with groups := [(0, wX)] } 0 wX
      ∧ parseOpnd .ob 0x33 0 (wOb.rangeOf wX) = some { kind := .ob, ty := .b8, sgn := false, ob := 3 }
      ∧ parseOpnd .lr 0x188 0 (wOb.rangeOf wX) = some { kind := .lr, ty := .b8, sgn := false, reg := 8 }
      ∧ (let y : MxOpnd := { kind := .ob, ty := .b8, sgn := false, ob := 3 }
         mxChecks (some y) (some y) (wOb.rangeOf wX) 32 16 4096 2 = none
         ∧ mxChecks (some { y with kind := .lr, ob := 0, reg := 8 }) (some y) (wOb.rangeOf wX) 32 16 4096 2 = none)
      ∧ (wOb.grove 0).passes.length < 32
      ∧ wX.run = none ∧ wX.pend = none ∧ firstMark wX 8 4 = none
      ∧ (∀ q ∈ span 8 4, ∀ t, t < 32 → wX.isEmpty q t = false))
    ∧ ((∀ q ∈ ((st wO).grove 0).passes, q.gid ≠ 0) ∧ (∀ f ∈ ((st wO).grove 0).obFills, f.gid ≠ 0) ∧ wO.held = []) :=
  ⟨⟨stReady _ rfl, by decide +kernel, by decide +kernel, by decide +kernel, by decide +kernel, okOf (by decide +kernel)⟩,
    ⟨⟨rfl, rfl, rfl⟩, by decide +kernel⟩, ⟨⟨rfl, rfl, rfl⟩, by decide +kernel⟩, by decide +kernel⟩
/-- A partition whose root is the group's own RCB, which lies in object 1 with a task list of one descriptor, and a
descriptor there; a graph of one node in the same object, ready (0) or faulted (3). -/
def wT : Group := { wG with a := [(1, 0x10000000600), (2, 0x10000008000)] }
def wTk (gstate : Byte) : State :=
  { (st wT).hbmWrite 0 ([(0x38000, 1), (0x38018, gstate)] ++ addrBytes 0x30228 (bytesOf 8 0x10000000700)) with
    parts := [(0, { wP with root := some 0x10000000200 })] }
theorem witness_TaskAndTgraphWordsPostWork :
    (∃ (u v w : State) (at_ : Word) (ts : Time), StemReady (wTk 0) 0 wT ∧ (wTk 0).postReady 0 wT = true
      ∧ ((wTk 0).posting 0 wT).checkAccess 0 (wT.synced 0) (structReq 0x10000000200 256 256 true) = (.ok (.hbm 0x30200) 0 wD, u)
      ∧ (u.chain 0 0x10000000200).any (fun y => samePtr y (((wTk 0).posting 0 wT).rcbOf (wT.synced 0))) = true
      ∧ u.checkAccess 0 (wT.synced 0) (structReq 0x10000000600 256 256 false) = (.ok (.hbm 0x30600) 0 wD, v)
      ∧ v.linkAt 0 0x10000000200 (v.pts 0) = (.ok (at_, ts), w)
      ∧ ((v.linkTask 0 0x10000000200 0x10000000600 (v.pts 0)).1.toOption.map (·.1)) = some 0)
    ∧ ((wTk 0).devRead 0 0x10000000228 = some 0x10000000700 ∧ (wTk 0).devBad 0 0x10000000700 8 = false
      ∧ (wTk 0).devRead 0 0x10000000700 = some 0 ∧ wS.devRead 0 0x10000000228 = some 0)
    ∧ (∀ x ∈ [0, 3], ∃ u v : State,
      ((wTk x).posting 0 wT).checkAccess 0 (wT.synced 0) (structReq 0x10000008000 64 64 true) = (.ok (.hbm 0x38000) 0 wD, u)
      ∧ u.checkAccess 0 (wT.synced 0) (structReq 0x10000000200 256 256 true) = (.ok (.hbm 0x30200) 0 wD, v)
      ∧ (v.chain 0 0x10000000200).any (fun y => samePtr y (u.rcbOf (wT.synced 0))) = true
      ∧ SMap.find? v.parts 0 = some { wP with root := some 0x10000000200 }
      ∧ (let g0 : Graph := { part := 0, rcb := 0x10000000200, ptr := 0x10000008000, nodes := 0, ts := v.pts 0, order := 0 }
         let gr : Graph := { g0 with nodes := Nat.min 1024 (bits (v.graphWord g0 0) 0 16) }
         gr.nodes = 1
         ∧ v.missIn (wT.synced 0) { wP with root := some 0x10000000200 } 1 wD 0x8000 (Nat.min 0x8000 (nodeOff gr.nodes)) = none
         ∧ v.missIn (wT.synced 0) { wP with root := some 0x10000000200 } 1 wD 0x8000 (Nat.min 0x8000 (v.graphSize gr)) = none
         ∧ (let w0 := v.devTouchSpan 0 0x10000008000 (Nat.min 0x8000 (v.graphSize gr))
            bits (w0.graphWord gr 0x18) 0 8 = x.toNat ∧ w0.graphValid gr 0x8000 = true)))
    ∧ (SMap.find? wS.parts 0 = some wP ∧ wS.devAddr 0 0x10000000228 = some 0x30228 ∧ wS.hbmGone 0x30228 = false) := by
  refine ⟨⟨_, _, _, _, _, ⟨rfl, rfl, rfl⟩, by decide +kernel, pairOf (by decide +kernel), by decide +kernel,
      pairOf (by decide +kernel), okPairOf (a := (0x10000000700, 0)) (by decide +kernel), by decide +kernel⟩, by decide +kernel, ?_, by decide +kernel⟩
  simp only [List.mem_cons, List.not_mem_nil, or_false, forall_eq_or_imp, forall_eq]
  refine ⟨⟨_, _, pairOf (by decide +kernel), pairOf (by decide +kernel), by decide +kernel, by decide +kernel, by decide +kernel,
      Option.isNone_iff_eq_none.mp (by decide +kernel), Option.isNone_iff_eq_none.mp (by decide +kernel), by decide +kernel⟩,
    ⟨_, _, pairOf (by decide +kernel), pairOf (by decide +kernel), by decide +kernel, by decide +kernel, by decide +kernel,
      Option.isNone_iff_eq_none.mp (by decide +kernel), Option.isNone_iff_eq_none.mp (by decide +kernel), by decide +kernel⟩⟩
/-- A blob in object 1, for handle 5 of partition 0, and the session that it names; whether its tag verifies depends on
the session's secret, which is not known here. A partition that holds handle 5, an operation that passed its check, a fill
and a range under it, a migration of an object with that key. -/
def wY : Group := { wG with a := [(0, 5), (1, 0x10000003000)] }
def wYs : State := { (st wY).hbmWrite 0 [(0x33000, 1), (0x33010, 5)] with crown := { sessions := [(0, { live := true, secret := 7 })] } }
theorem openBlobOf {s : State} {p : Part} {h b : Nat} {x : Blob} {n : Session} {k : BitVec 256 × BitVec 256}
    (hp : parseBlob b = some x) (hs : SMap.find? s.crown.sessions x.sess = some n)
    (hc : (!n.live || !(n.lastSeq.map (fun l => decide (l < x.seq))).getD true || x.handle != h || x.part != p.num
      || x.tenant != p.tenant.toNat) = false) (hk : unwrapKey n.secret (bytesOf 128 b) = some k) :
    s.openBlob p h b = some (x, { st := .installed, isSealed := x.isSealed, key1 := k.1, key2 := k.2 }) := by
  simp only [State.openBlob, hp, hs, hc, hk]; rfl
def wHd : Handle := { st := .installed, isSealed := false, key1 := 0, key2 := 0 }
def wHp : Part := { wP with handles := [(5, wHd)] }
def wKop : EngOp :=
  { gid := 0, cid := 0, wg := 0, part := 0, word := 0, rows := 1, rowBytes := 64, dst := ⟨false, 0x10000004000⟩
    src := ⟨false, 0x10000005000⟩, dpitch := 0, spitch := 0, idx := none, i64 := false, cw := none, txb := none, key := true
    slot := 0, ts := 0, lease := 10, keys := [5] }
def wKfill : ObFill := { gid := 0, cid := 0, wg := 0, core := 0, ob := 3, txb := none, word := 0, ts := 0, lease := 10 }
def wKmig : Migration := { part := 0, obj := 1, page := 0, alt := false, frame := 40, started := true }
def wKs (busy : Bool) : State :=
  { st wY with
    parts := [(0, wHp)]
    clusters := [(0, { wC with wgs := [{ core := some 0, units := [0], slice := true, ranges := [(3, { wRg with keyh := some 5 })] }] })]
    groves := [(0, { queues := if busy then [(0, [.op wKop])] else [], obFills := [wKfill] })]
    migrations := if busy then [wKmig] else [] }
theorem witness_KeyWordsInstallAndDrop :
    (∃ (u1 u2 u3 u4 u5 : State) (x y : List Byte), StemReady wYs 0 wY ∧ Privileged wYs wY ∧ wYs.afterRuns 0 wY = true
      ∧ (wYs.freed.checkAccess 0 wY (blobReq 0x10000003000 0 128)) = (.ok (.hbm 0x33000) 0 wD, u1)
      ∧ u1.checkAccess 0 wY (blobReq 0x10000003000 0 64) = (.ok (.hbm 0x33000) 0 wD, u2)
      ∧ u2.checkAccess 0 wY (blobReq 0x10000003000 64 64) = (.ok (.hbm 0x33040) 0 wD, u3)
      ∧ u3.coreRead wP.keyId 0 10 .normal 0x33000 64 = (x, u4) ∧ u4.coreRead wP.keyId 0 10 .normal 0x33040 64 = (y, u5)
      ∧ SMap.find? u5.parts 0 = some wP ∧ SMap.find? wP.handles 5 = none
      ∧ ∀ k, unwrapKey 7 (bytesOf 128 (wordOf (x ++ y))) = some k → u5.openBlob wP 5 (wordOf (x ++ y))
          = some ({ sess := 0, seq := 0, tenant := 0, isSealed := false, part := 0, handle := 5 },
              { st := .installed, isSealed := false, key1 := k.1, key2 := k.2 }))
    ∧ (∀ x ∈ [true, false], StemReady (wKs x) 0 wY ∧ Privileged (wKs x) wY ∧ SMap.find? (wKs x).parts (0#4).toNat = some wHp
      ∧ SMap.find? wHp.handles (5#8).toNat = some wHd ∧ SMap.find? wHp.handles (6#8).toNat = none
      ∧ ((wKs x).freed.beginDrop 0 5).keyBusy 0 5 = false ∧ (wKs x).freed.keyBusy 0 5 = x)
    ∧ ((wKs false).migrations = [] ∧ wKfill ∈ ((wKs true).grove 0).obFills ∧ SMap.find? (wKs true).groups 0 = some wY
      ∧ ((((wKs true).wg? 0 0).bind (fun w => SMap.find? w.ranges 3)).bind (·.keyh)) = some 5
      ∧ (wKs true).migrations = [wKmig] ∧ wKmig.started = true
      ∧ (∃ s : State, s.migrations = [wKmig] ∧ (((s.walkDesc wHp 1).toOption).map (fun d => (d.lkey, d.keyh))) = some (true, 5))) := by
  refine ⟨⟨_, _, _, _, _, _, _, ⟨rfl, rfl, rfl⟩, ⟨wK, rfl, rfl⟩, by decide +kernel, pairOf (by decide +kernel), pairOf (by decide +kernel),
      pairOf (by decide +kernel), pairOf rfl, pairOf rfl, by decide +kernel, rfl, fun k hk =>
        openBlobOf (n := { live := true, secret := 7 }) (by decide +kernel) (by decide +kernel) (by decide +kernel) hk⟩, ?_, ?_⟩
  · intro x _
    cases x <;> exact ⟨⟨rfl, rfl, rfl⟩, ⟨wK, rfl, rfl⟩, rfl, rfl, rfl, by decide +kernel, by decide +kernel⟩
  · refine ⟨rfl, by decide, rfl, by decide +kernel, rfl, rfl, ⟨(wKs true).hbmWrite 0 [(0x10046, 5), (0x10047, 0xF9)], rfl, by decide +kernel⟩⟩

/-! ## The lanes -/

/-- The last register of the group's allotment, register 0 plus an immediate. -/
def wI : Leaf := { ty := .b32, d := .lane 15, s1 := .lane 0, imm := some 3 }
/-- A register past the allotment is a fault of the thread, and of none else. -/
def wI' : Leaf := { ty := .f32, d := .lane 16, s1 := .lane 0, s2 := .lane 1, s3 := .lane 2 }
theorem witness_IntegerLaneInstructionsWriteTheirResults :
    LeafReady (lf wL) 0 0 8 wL wR wQ ∧ prepare wL wR (takersOf wL 0 wQ {}) (leafSrcs wI) [wI.d] = .go [0] []
    ∧ prepare wL wR (takersOf wL 0 wQ {}) [] [.lane 15] = .go [0] [] :=
  ⟨lfReady _ _ _ rfl rfl, by decide +kernel⟩
theorem witness_FloatingLaneInstructionsWriteTheirResults :
    LeafReady (lf wL) 0 0 8 wL wR wQ ∧ prepare wL wR (takersOf wL 0 wQ {}) (leafSrcs wI') [.pred 1] = .go [0] []
    ∧ prepare wL wR (takersOf wL 0 wQ {}) (leafSrcs wI') [wI'.d]
      = .go [] [{ thread := 0, code := .indexRange, info := 16 }] :=
  ⟨lfReady _ _ _ rfl rfl, by decide +kernel⟩
theorem witness_ArithmeticLaneInstructionFrame :
    LeafReady (lf wL) 0 0 8 wL wR wQ ∧ wL.host = none ∧ laneDestOk wI.d = true
    ∧ prepare wL wR (takersOf wL 0 wQ wI.ctl) (leafSrcs wI) [wI.d] = .go [0] [] :=
  ⟨lfReady _ _ _ rfl rfl, by decide +kernel⟩
/-- Two threads, one of which holds p1, with and without a join record of the same offset, a path in the other slot, and a
full stack. -/
def wTwo (j : Option Nat) : Path := { off := 0, mask := 3, jrec := j }
def wRec : JoinRec := { id := 0, reconv := 4, expected := 3, arrived := 0, parent := none }
def wJ (n : Nat) (j : Option Nat) (b : Option Path) : Group :=
  { wL with slot0 := some (wTwo j), slot1 := b, p := [(1, 1)], stack := List.replicate n (.join wRec) }
theorem witness_LaneControlMovesThePath :
    (∀ n j b, LeafReady (lf (wJ n j b)) 0 0 8 (wJ n j b) wR (wTwo j)) ∧ (wTwo none).mask ≠ 0
    ∧ (let x (j : Option Nat) (c : Ctl) : Mask := takersOf (wJ 1 j none) 0 (wTwo j) c
       x none {} &&& (wJ 1 none none).preg 7 = 3 ∧ x none {} &&& (wJ 1 none none).preg 0 = 0
       ∧ x none {} &&& (wJ 1 none none).preg 1 = 1 ∧ 3 &&& ~~~(1 : Mask) ≠ 0
       ∧ x none { g1 := 0 } = 0)
    ∧ (((0 : Int) + (4#18).toInt) % 2 ^ 21).toNat = wRec.reconv
    ∧ ((wTwo (some 0)).jrec.bind (wJ 64 (some 0) none).findRec = some wRec ∧ (wJ 64 (some 0) none).slot 1 = none
      ∧ (wJ 64 (some 0) none).stack.length ≤ 64)
    ∧ ((wJ 63 (some 0) (some wQ)).findRec 0 = some wRec ∧ (wJ 63 (some 0) (some wQ)).slot 1 ≠ none
      ∧ (wJ 63 (some 0) (some wQ)).stack.length + 1 ≤ 64)
    ∧ ((wTwo none).jrec.bind (wJ 63 none none).findRec = none ∧ (wJ 63 none none).slot 1 = none
      ∧ (wJ 63 none none).stack.length + 1 ≤ 64 ∧ (wJ 62 none (some wQ)).slot 1 ≠ none
      ∧ (wJ 62 none (some wQ)).stack.length + 2 ≤ 64 ∧ 64 < (wJ 64 none none).stack.length + 1)
    ∧ ((wJ 1 (some 0) none).slot 0 = some (wTwo (some 0)) ∧ (wTwo (some 0)).jrec = some 0
      ∧ (wJ 1 (some 0) none).findRec 0 = some wRec ∧ wRec.arrived ||| (wTwo (some 0)).mask = wRec.expected
      ∧ wRec.expected ≠ 0 ∧ (wTwo (some 0)).mask &&& ~~~(1 : Mask) ≠ 0) :=
  ⟨fun _ _ _ => lfReady _ _ _ rfl rfl, by decide +kernel⟩
/-- A doubleword of object 1 from the run's a1, for a register; an object of module 0; the request of an access. -/
def wN : Leaf := { ty := .b64, d := .lane 4, s1 := .areg 1, s2 := .const 0, s3 := .lane 5, s4 := .lane 6 }
def wReq (q : AccReq) : AccReq := { q with ptr := 0x10000000000, e := 0 }
def wLd : AccReq := { ptr := 0x10000000000, e := 0, n := 8, align := 8, needR := true, kind := .read }
def wSt : AccReq :=
  { ptr := 0x10000000000, e := 0, n := 8, align := 8, needW := true, wr := true, unbound := true, kind := .write }
/-- No access of some threads goes to a pod tier. -/
theorem globalOf {s : State} {g : Group} {ts : List Nat} {load : Bool} {req : Nat → AccReq} (h : g.podLoads ts = false)
    (hf : s.fifoWaits 0 ts = false) (hr : ∀ t ∈ ts, (match (s.freed.checkAccess g.coreN g (req t)).1 with
      | .ok pl _ _ => isPod pl
      | _ => false) = false) : GlobalReady s 0 g ts load req :=
  ⟨h, hf, fun t ht pl tier d hp hq => by have := hr t ht; rw [hp] at this; simp [hq] at this⟩
theorem witness_GlobalLoadsAndStoresActByThread :
    LeafReady (lf wL) 0 0 8 wL wR wQ ∧ SMap.find? (lf wL).parts 0 = some wP
    ∧ prepare wL wR (takersOf wL 0 wQ wN.ctl) (leafSrcs wN) [wN.d] = .go [0] []
    ∧ prepare wL wR (takersOf wL 0 wQ wN.ctl) (leafSrcs wN) [] = .go [0] []
    ∧ (argA .ldg wN wL wR 0 = 0x10000000000 ∧ argB .ldg wN wL wR 0 = 0 ∧ argA .stg wN wL wR 0 = 0x10000000000
      ∧ argB .stg wN wL wR 0 = 0 ∧ (lf wL).freed.slotStream wL 0 = none)
    ∧ GlobalReady (lf wL) 0 wL [0] true (fun _ => wLd) ∧ GlobalReady (lf wL) 0 wL [0] false (fun _ => wSt)
    ∧ (∃ v, (lf wL).freed.checkAccess 0 wL wLd = (.ok (.hbm 0x30000) 0 wD, v))
    ∧ (∃ v, (lf wL).freed.checkAccess 0 wL wSt = (.ok (.hbm 0x30000) 0 wD, v))
    ∧ (∃ v, (wM wH).freed.checkAccess 0 wH { wLd with ptr := 0x30000000000 } = (.ok (.modul (some 0) 0 65536) 1 wMD, v)) :=
  ⟨lfReady _ _ _ rfl rfl, rfl, by decide +kernel, by decide +kernel, by decide +kernel, globalOf (by decide) (by decide) (by decide +kernel),
    globalOf (by decide) (by decide) (by decide +kernel), ⟨_, pairOf (by decide +kernel)⟩, ⟨_, pairOf (by decide +kernel)⟩,
    ⟨_, pairOf (by decide +kernel)⟩⟩

/-- One thread alone. -/
theorem eachOne {α : Type} {f : Nat → α → α → Prop} {t : Nat} {x y : α} (h : f t x y) : EachThread f [t] x y :=
  .cons h (.nil _)
def wAt : AccReq :=
  { ptr := 0x10000000000, e := 0, n := 8, align := 8, needR := true, needW := true, needA := true, atomic := true, wr := true
    badTiers := [3], unbound := true, kind := .write }
/-- An atomic with a destination and without one, in HBM and in a module; old values at both ends. -/
theorem witness_AtomicsReadAndWriteIndivisibly :
    LeafReady (lf wL) 0 0 8 wL wR wQ ∧ SMap.find? (lf wL).parts 0 = some wP
    ∧ prepare wL wR (takersOf wL 0 wQ wN.ctl) (leafSrcs wN) (if wN.d = .none then [] else [wN.d]) = .go [0] []
    ∧ (argA .atomAdd wN wL wR 0 = 0x10000000000 ∧ argB .atomAdd wN wL wR 0 = 0 ∧ argA .acas wN wL wR 0 = 0x10000000000
      ∧ argB .acas wN wL wR 0 = 0)
    ∧ GlobalReady (lf wL) 0 wL [0] false (fun _ => wAt)
    ∧ (∃ y, EachThread (fun _ x y => ∃ v, x.checkAccess 0 wL wAt = (.ok (.hbm 0x30000) 0 wD, v)
        ∧ y = v.atomTimes 0 0 0x30000 8) [0] (lf wL).freed y)
    ∧ (∃ v, (wM wH).freed.checkAccess 0 wH { wAt with ptr := 0x30000000000, unbound := false }
        = (.ok (.modul (some 0) 0 65536) 1 wMD, v) ∧ (wM wH).podBlocked 0 = false)
    ∧ ((2 ^ 32 - 1 : Nat) < 2 ^ (8 * 4) ∧ (2 ^ 64 - 1 : Nat) < 2 ^ (8 * 8)) :=
  ⟨lfReady _ _ _ rfl rfl, rfl, by decide +kernel, by decide +kernel, globalOf (by decide) (by decide) (by decide +kernel),
    ⟨_, eachOne ⟨_, pairOf (by decide +kernel), rfl⟩⟩, ⟨_, pairOf (by decide +kernel), by decide +kernel⟩, by decide⟩
def wLr : AccReq := { wAt with wr := false, badTiers := [1, 2, 3], kind := .read }
def wSc : AccReq := { wAt with badTiers := [1, 2, 3] }
/-- A reservation of the thread that has just expired, and one a cycle younger. -/
theorem witness_ReservationPairLoadsAndStores :
    LeafReady (lf wL) 0 0 8 wL wR wQ ∧ SMap.find? (lf wL).parts 0 = some wP
    ∧ prepare wL wR (takersOf wL 0 wQ wN.ctl) (leafSrcs wN) [wN.d] = .go [0] []
    ∧ GlobalReady (lf wL) 0 wL [0] false (fun _ => wLr) ∧ GlobalReady (lf wL) 0 wL [0] false (fun _ => wSc)
    ∧ (∃ y, EachThread (fun _ x y => ∃ v, x.checkAccess 0 wL wLr = (.ok (.hbm 0x30000) 0 wD, v)
        ∧ y = (v.lrTimes 0 (lineOf 0x30000) 10).placeResv (lineOf 0x30000) 0 0) [0] (lf wL).freed y)
    ∧ (∃ y, EachThread (fun _ x y => ∃ v, x.checkAccess 0 wL wSc = (.ok (.hbm 0x30000) 0 wD, v)
        ∧ y = v.atomTimes 0 0 0x30000 8) [0] (lf wL).freed y)
    ∧ (([] : List (Nat × Nat × Nat × Nat × Nat)).length < 256 ∧ 0 + 65536 ≤ 65536 ∧ ¬ 1 + 65536 ≤ 65536) :=
  ⟨lfReady _ _ _ rfl rfl, rfl, by decide +kernel, globalOf (by decide) (by decide) (by decide +kernel),
    globalOf (by decide) (by decide) (by decide +kernel), ⟨_, eachOne ⟨_, pairOf (by decide +kernel), rfl⟩⟩,
    ⟨_, eachOne ⟨_, pairOf (by decide +kernel), rfl⟩⟩, by decide⟩
/-- The last doubleword of the scratch window, the first of the thread's local region. -/
theorem witness_ScratchAndLocalAccessesActByThread :
    LeafReady (lf wL) 0 0 8 wL wR wQ ∧ SMap.find? (lf wL).parts 0 = some wP ∧ wL.podLoads [0] = false
    ∧ (lf wL).fifoWaits 0 [0] = false ∧ (lf wL).freed.placeFailed (.hbm 0x400400) = false
    ∧ prepare wL wR (takersOf wL 0 wQ wN.ctl) (leafSrcs wN) [wN.d] = .go [0] []
    ∧ prepare wL wR (takersOf wL 0 wQ wN.ctl) (leafSrcs wN) [] = .go [0] []
    ∧ prepare wL wR (takersOf wL 0 wQ wN.ctl) (leafSrcs wN) (if wN.d = .none then [] else [wN.d]) = .go [0] []
    ∧ (lf wL).freed.checkScratch wL 4088 8 8 = .ok 4088 ∧ (lf wL).freed.sramBad 4088 8 = false
    ∧ checkLocal wP wL 0 0 8 = .ok 0x400400 ∧ checkLocal wP wL 31 1016 8 = .ok (0x400400 + 256 * 127 + 8 * 31)
    ∧ (lf wL).freed.hbmBadSpan 0x400400 8 = false :=
  ⟨lfReady _ _ _ rfl rfl, rfl, by decide, by decide +kernel, by decide +kernel, by decide +kernel, by decide +kernel,
    by decide +kernel, okOf (by decide +kernel), by decide +kernel, okOf (by decide +kernel), okOf (by decide +kernel), by decide +kernel⟩
/-- The first word of the argument block; a prefetch of the object's last byte, of a byte past its end, of a page that is
not there; a FIFO bank of the cluster; requests that just fit. -/
def wF (es : List Word) (push pop : List FifoReq) : State :=
  { lf wL with groves := [(0, { banks := [(15, { mode := .fifo, owner := 0, entries := es, pushq := push, popq := pop })] })] }
def wFi : Leaf := { d := .lane 4, s1 := .const 15, s4 := .lane 6 }
def wPf : AccReq := { ptr := 0x10000000000, e := 65535, n := 1, align := 1, needR := true }
theorem witness_ArgumentPrefetchAndFifoActByThread :
    (LeafReady (lf wL) 0 0 8 wL wR wQ ∧ SMap.find? (lf wL).parts 0 = some wP ∧ SMap.find? (lf wL).tasks 0 = some wK
      ∧ wL.host = none)
    ∧ (∃ v v' : State, (lf wL).freed.coreDesc 0 0 1 = (.ok wD, v) ∧ wK.args = 0x10000000100 ∧ wD.r = true
      ∧ (0x100 : Int) + 56 + 8 ≤ wD.size ∧ (56 : Int) + 8 ≤ wK.argLen ∧ sealFault (keyClass wP wD) = none
      ∧ (56 : Int).toNat % 8 = 0 ∧ (lf wL).argHeld 0 wL wP 56 8 = false
      ∧ v.argWalkBad wP 0 wL 1 wD (0x100 + 56) = false
      ∧ ((v.argBytes wP 0 wL 1 wD (0x100 + 56) 8) matches .ok _ _) = true
      ∧ v.findPage 0 wL wP 1 wD (32 * 9) false = (.place (.hbm 0x30120) 0, v') ∧ SMap.find? wK.lk 9 = none
      ∧ SMap.find? ({ wK with lk := [(9, List.replicate 32 0)] } : Task).lk 9 = some (List.replicate 32 0)
      ∧ v'.placeLost (.hbm 0x30120) = false ∧ v'.placeBad (.hbm 0x30120) 32 = false)
    ∧ (∃ v, (lf wL).freed.checkAccess 0 wL wPf = (.ok (.hbm 0x3FFFF) 0 wD, v))
    ∧ (∃ v, (lf wL).freed.checkAccess 0 wL { wPf with e := 65536 } = (.fault .bounds, v))
    ∧ (∃ m v, ({ (st wL).hbmWrite 0 [(0x20007, 0)] with cur := none } : State).checkAccess 0 wL wPf = (.miss m, v))
    ∧ (∃ v, (wM wH).freed.checkAccess 0 wH { wPf with ptr := 0x30000000000, e := 0 } = (.ok (.modul (some 0) 0 65536) 1 wMD, v))
    ∧ (∀ e q q', LeafReady (wF e q q') 0 0 8 wL wR wQ)
    ∧ (wL.podLoads [0] = false ∧ prepare wL wR 1 (leafSrcs { wFi with d := .none }) [] = .go [0] []
      ∧ prepare wL wR 1 (leafSrcs { wFi with s4 := .none }) [.lane 4] = .go [0] []
      ∧ (argA .fpush wFi wL wR 0).toNat % 16 = 15
      ∧ (((wF [] [] []).grove 0).bank 15).mode = .fifo ∧ (((wF [] [] []).grove 0).bank 15).owner = wL.cid
      ∧ (((wF [] [] []).grove 0).bank 15).pushq = [])
    ∧ (let q : FifoReq := { gid := 0, push := [7], pop := [] }
       (((wF [] [q] []).grove 0).bank 15).pushq = [q] ∧ ([] : List Word).length + q.push.length ≤ 32767)
    ∧ (let q : FifoReq := { gid := 0, push := [], pop := [(4, 0)] }
       (((wF [7] [] [q]).grove 0).bank 15).popq = [q] ∧ q.pop.length ≤ (((wF [7] [] [q]).grove 0).bank 15).entries.length) :=
  ⟨⟨lfReady _ _ _ rfl rfl, rfl, rfl, rfl⟩,
    ⟨_, _, okPairOf (by decide +kernel), rfl, rfl, by decide, by decide, by decide, by decide, by decide +kernel, by decide +kernel, by decide +kernel,
      pairOf (by decide +kernel), rfl, rfl, by decide +kernel, by decide +kernel⟩, ⟨_, pairOf (by decide +kernel)⟩,
    ⟨_, pairOf (by decide +kernel)⟩, ⟨{ miss := { obj := 1, page := 0, mig := false }, mal := false, kind := .read, first := 65535 }, _,
      pairOf (by decide +kernel)⟩, ⟨_, pairOf (by decide +kernel)⟩, fun _ _ _ => ⟨rfl, rfl, rfl, rfl⟩,
    by decide +kernel, by decide +kernel, by decide +kernel⟩

/-- Threads 0 and 31 of a group, the first of its workgroup's two. -/
def wPz : Path := { off := 0, mask := 0x80000001, jrec := none }
def wZ : Group := { wL with slot0 := some wPz }
def wU : Leaf := { ty := .b32, d := .lane 4, s1 := .lane 0, s2 := .const 0 }
theorem witness_CrossLaneInstructionsWriteTheirResults :
    (LeafReady (lf wZ) 0 0 8 wZ wR wPz ∧ takersOf wZ 0 wPz { g1 := 0 } = 0)
    ∧ takersOf wZ 0 wPz {} = 0x80000001 ∧ takersOf wZ 0 wPz {} ≠ 0
    ∧ (∀ ns ∈ [[2], [2, 3], [1, 2], [1]], readable wZ wR 0x80000001 (srcList wU ns) [wU.s1, wU.d] = some ([0, 31], [])
      ∧ readable wZ wR 0x80000001 (srcList wU ns) [wU.d] = some ([0, 31], []))
    ∧ (∀ t ∈ [0, 31], dstWaits wZ wR t [wU.d] = false)
    ∧ (∀ t ∈ [0, 31], ∀ u ∈ [0, 31], (argB .nbrLeft wU wZ wR t).toNat = (argB .nbrLeft wU wZ wR u).toNat)
    ∧ (∀ u, u < 32 → wZ.isEmpty 0 u = false ∧ (wZ.lreg 0 u).mark = none ∧ (wZ.lreg 4 u).fe ≠ .pending)
    ∧ ((lf wZ).neighbour wZ false 0 = .edge ∧ (lf wZ).neighbour wZ false 31 = .here 30
      ∧ (lf wZ).neighbour wZ true 0 = .here 1 ∧ (lf wZ).neighbour wZ true 31 = .far 0 1 0) := by
  refine ⟨⟨lfReady _ _ _ rfl rfl, by decide +kernel⟩, by decide +kernel⟩
/-- The first group of the cluster and the second, whose left neighbour is the first; a chain read of a group that waits,
of one that is not there, of one that is; a carry that is there. -/
def wZ2 : Group := { wZ with idx := 1 }
def wS2 (f : FillSrc) (e : Bool) (q : List ScanWait) : State :=
  { wS with groups := [(0, { wZ with evicted := e }), (1, { wZ2 with fills := [{ reg := 4, thread := 0, src := f }], scans := q })] }
def wScan : ScanWait :=
  { key := 5, leftWg := 0, leftGroup := 0, reg := 4, ty := .b32, op := 0, sgn := false, rm := .rne, takers := 1, vals := [0] }
theorem witness_ChainInstructionsTakeTheirCarry :
    (LeafReady (lf wZ) 0 0 8 wZ wR wPz ∧ takersOf wZ 0 wPz {} ≠ 0 ∧ (∀ t ∈ [0, 31], dstWaits wZ wR t [wU.d] = false)
      ∧ (wZ.lreg 4 31).fe ≠ .pending ∧ (resolveReg wZ wR 0 wU.d).toBool = true ∧ (lf wZ).neighbour wZ false 0 = .edge
      ∧ readable wZ wR 0x80000001 (srcList wU [1, 2]) [wU.d] = some ([0, 31], [])
      ∧ (∀ t ∈ [0, 31], ∀ u ∈ [0, 31], argB .scanChain wU wZ wR t = argB .scanChain wU wZ wR u))
    ∧ (LeafReady (lf wZ2) 0 0 8 wZ2 wR wPz ∧ (lf wZ2).neighbour wZ2 false 0 = .far 0 0 31
      ∧ readable wZ2 wR 0x80000001 (srcList wU [1]) [wU.d] = some ([0, 31], []))
    ∧ (∀ f e q, SMap.find? (wS2 f e q).groups 1 = some { wZ2 with fills := [{ reg := 4, thread := 0, src := f }], scans := q })
    ∧ ((wS2 (.chainRead 0 0 31 4) true []).chainRes wZ2 0 0 31 4 = none
      ∧ (wS2 (.chainRead 0 7 31 4) false []).chainRes wZ2 0 7 31 4 = some (.mark .brk)
      ∧ (wS2 (.chainRead 0 0 31 4) false []).chainRes wZ2 0 0 31 4 = some (.value 0 0))
    ∧ ([wScan].find? (fun q => q.key == 5) = some wScan
      ∧ wScan.got.or ((wS2 (.scanCarry 5) false [wScan]).chainRes wZ2 0 0 31 4) = some (.value 0 0))
    ∧ (∃ v, SMap.find? (wS2 (.chainRead 0 0 31 4) false []).groups 1 = some v ∧ v.cid = wZ.cid ∧ v.host = none
      ∧ 4 < 8 * wZ.chunks ∧ (∃ f ∈ v.fills, f.src = .chainRead wZ.wg wZ.idx 31 4) ∧ (wZ.lreg 4 31).fe = .full
      ∧ (wZ.lreg 4 31).mark = none ∧ ((wZ.setLreg 4 31 { val := 0, fe := .empty }).lreg 4 31).fe ≠ .full
      ∧ ((wZ.setLreg 4 31 { val := 0, mark := some .brk }).lreg 4 31).mark = some .brk) :=
  ⟨⟨lfReady _ _ _ rfl rfl, by decide +kernel⟩, ⟨lfReady _ _ _ rfl rfl, by decide +kernel⟩, fun _ _ _ => rfl,
    by decide +kernel, by decide +kernel,
    ⟨_, rfl, rfl, rfl, by decide, ⟨_, List.mem_singleton.mpr rfl, rfl⟩, by decide +kernel⟩⟩
/-- Eight registers from 8 on, the last that fit; a thread whose eight would run past the allotment. -/
def wTl : Leaf := { d := .lane 8, s1 := .lane 8, s2 := .const 0 }
theorem witness_LaneStateAndTileInstructionsAct :
    (LeafReady (lf wZ) 0 0 8 wZ wR wPz ∧ prepare wZ wR 0x80000001 [] [wTl.d] = .go [0, 31] []
      ∧ prepare wZ wR 0x80000001 (leafSrcs { wTl with s2 := .none }) [] = .go [0, 31] []
      ∧ rangeFault wZ wR 0 [wTl.s1] = none ∧ (rangeFault wZ wR 0 [.lane 16]).isSome = true
      ∧ spanFault wZ wR 0 (.lane 8) 8 = none ∧ (spanFault wZ wR 0 (.lane 9) 8).isSome = true
      ∧ ∀ t ∈ [0, 31], ∀ k ∈ (List.range 8).map (fun i => 8 + i), (wZ.lreg k t).fe ≠ .pending
        ∧ wZ.isEmpty k t = false ∧ (wZ.lreg k t).mark = none)
    ∧ (wZ.host = none ∧ (lf wZ).holdsSlice wZ = true ∧ [0, 31].head? = some 0
      ∧ moveThreads wZ wR wTl 0x80000001 wTl.d = some ([0, 31], [])
      ∧ moveThreads wZ wR wTl 0x80000001 wTl.s1 = some ([0, 31], [])
      ∧ (∀ t ∈ moveResolved wZ wR wTl 0x80000001 wTl.s1, ∀ k ∈ span (regOf wZ wR t wTl.s1) 8, wZ.isEmpty k t = false)
      ∧ (∀ t ∈ [0, 31], (argB .zmov wTl wZ wR t).toNat % 64 = 0 ∧ (argB .zld wTl wZ wR t).toNat % 64 = 0)
      ∧ (wC.wgs.head?).map (fun w => (0, w)) = (lf wZ).holderOf wZ.cid 0 ∧ (0x80000001 : Mask).getLsbD 31 = true) :=
  ⟨⟨lfReady _ _ _ rfl rfl, by decide +kernel⟩, by decide +kernel⟩
/-- One thread's address at home, the other's on die 1; a path under a graft record, and one of a host group. -/
def wG2 : Group := { wZ with v := [(0, { val := 0x10000000000 }), (31, { val := 0x30000000000 })] }
def wGs : State :=
  { lf wG2 with cores := [(0, { otlb := [(1, { wD with g := true, hset := true }),
                                        (3, { wD with g := true, hset := true, homeDie := 1 })] })] }
def wG3 : Group := { wL with slot0 := some (wTwo (some 0)), stack := [.join { wRec with graft := true }] }
theorem witness_GraftInstructionsSplitAndReturn :
    (∃ (u : State) (g' : Group), LeafReady wGs 0 0 8 wG2 wR wPz ∧ [0, 15].all (fun n => n < 8 * wG2.chunks) = true
      ∧ readable wG2 wR 0x80000001 [(.lane 0, false), (.lane 0, false), (.lane 15, false)] [] = some ([0, 31], [])
      ∧ wGs.freed.graftHomes wG2 [(0, 0x10000000000), (31, 0x30000000000)]
        = ([(0, 0x10000000000, .at_ 0 0), (31, 0x30000000000, .at_ 0 1)], u) ∧ u.pkg = 0 ∧ wG2.hopsOf 31 < 3
      ∧ wG2.graftSplit 0 8 64 1 = some g')
    ∧ (LeafReady (lf wG3) 0 0 8 wG3 wR (wTwo (some 0)) ∧ wG3.findRec 0 = some { wRec with graft := true })
    ∧ (LeafReady (lf wL) 0 0 8 wL wR wQ ∧ wQ.jrec = none ∧ wL.host = none)
    ∧ (let g : Group := { wL with host := some { die := 0, recv := 0, buds := [] } }
       LeafReady (lf g) 0 0 8 g wR wQ ∧ g.underGraft g.stack.length wQ.jrec = false)
    ∧ (let g : Group := { wL with host := some { die := 0, recv := 0, buds := [] }, slot0 := some (wTwo (some 1))
                                  stack := [.join { wRec with graft := true }, .join { wRec with id := 1, parent := some 0 }] }
       LeafReady (lf g) 0 0 8 g wR (wTwo (some 1)) ∧ (g.findRec 1).map (·.graft) = some false
       ∧ g.underGraft g.stack.length (some 1) = true) :=
  ⟨⟨_, _, ⟨rfl, rfl, rfl, rfl⟩, by decide, by decide +kernel, pairOf (by decide +kernel), rfl, by decide, rfl⟩,
    ⟨lfReady _ _ _ rfl rfl, by decide⟩, ⟨lfReady _ _ _ rfl rfl, rfl, rfl⟩,
    ⟨lfReady _ _ _ rfl rfl, by decide⟩, lfReady _ _ _ rfl rfl, by decide⟩

/-! ## Commands -/

/-- The base range, and the range of a system partition, before any group; parameters at their bounds. -/
def wCm : State := { State.reset.installWord 0 with
    parts := [(0, wP), (2, { wP with num := 2, system := false })], tasks := [], clusters := [], groups := [], cur := none }
theorem witness_PartitionCommandsActAndAnswer :
    CommandReady wCm .base false ∧ CommandReady wCm (.part 0) false ∧ SMap.find? wCm.parts 0 = some wP
    ∧ wP.tdi = .unlocked ∧ (∃ k q, (Via.part 0) = .part k ∧ SMap.find? wCm.parts k = some q ∧ q.system = true)
    ∧ SMap.find? wCm.parts 15 = none
    ∧ (let b : Budgets := ⟨0xFFFFE, 0xFFFFE, 0xFFFFE, 14, 254, 0xFFE, 0xFFFE⟩
       b.blreg < 0xFFFFF ∧ b.bsram < 0xFFFFF ∧ b.bob < 0xFFFFF ∧ b.btag < 15 ∧ b.bgrove < 255 ∧ b.bstrm < 0xFFF
       ∧ b.bbud < 0xFFFF)
    ∧ ((2032 : Nat) ≤ 2048 ∧ 2048 * wCm.pkg ≤ 0 ∧ 0 + 2032 ≤ 2048 * wCm.pkg + 2032)
    ∧ (wP.dir.isSome = true ∧ (wCm.rootPlace wP 0x10000000200).isSome = true)
    ∧ ((∀ e ∈ wCm.tasks, e.2.part ≠ 0) ∧ (∀ e ∈ wCm.groups, e.2.part ≠ 0) ∧ wP.ctxUsed = 0 ∧ wP.invs = 0
      ∧ ∀ e ∈ wCm.streams, e.2.part = 0 → e.1 < 2048 * wCm.pkg + 2032 → wP.poolBase ≤ e.1)
    ∧ (0 + 1 * frameBytes 64 ≤ 2 ^ 39 ∧ wCm.translated 0 = false ∧ (2 ^ 21 : Nat) ≤ 2 ^ 21 ∧ (2 ^ 39 - 64) + 64 ≤ 2 ^ 39)
    ∧ (∃ u : State, CommandReady u .base false ∧ ∃ q, SMap.find? u.parts 0 = some q ∧ q.tdi ≠ .unlocked) := by
  refine ⟨⟨rfl, rfl, .inr rfl⟩, ⟨rfl, rfl, .inr rfl⟩, rfl, rfl, ⟨0, wP, rfl, rfl, rfl⟩, by decide +kernel, by decide +kernel,
    by decide +kernel, by decide +kernel, by decide +kernel, by decide +kernel,
    { wCm with parts := [(0, { wP with tdi := .locked })] }, ⟨rfl, rfl, .inr rfl⟩, _, rfl, by decide⟩
/-- A page of object 1 that no migration names; a subtree with nothing in it, with one cluster in it, one that was
closed already; a halted group. -/
theorem witness_MigrationAndPreemptionCommandsAct :
    (CommandReady wS .base false ∧ SMap.find? wS.parts 0 = some wP
      ∧ ((wS.pageOf wP 1 0).toOption.map (fun x => (x.1, x.2.alt)) = some (wD, false)) ∧ wS.migrations = [] ∧ wS.roots = [] ∧ wD.loc.tier = 0
      ∧ 100 * 65536 < 2 ^ 39)
    ∧ (wS.isPreempted wP 0x10000000200 = false ∧ wCm.subtreeSaved 0 0x10000000200 = true ∧ wP.answers = []
      ∧ (∀ e ∈ wS.clusters, e.2.hold = none))
    ∧ ((wTk 0).clustersUnder 0 0x10000000200 .resident = [(0, wC, wK)] ∧ (wTk 0).clustersUnder 0 0x10000000200 .stopping = []
      ∧ SMap.find? (wTk 0).clusters 0 = some wC ∧ wK.discards = false
      ∧ ((wTk 0).die wC.die).shadow + (wTk 0).imageSize 0 wC wK.scr ≤ 96 * 2 ^ 20)
    ∧ (let hit (l : List (Word × Bool)) (r : Word) : Bool := l.any (fun x => x.1 == r || (x.1 != 0 && r != 0 && samePtr x.1 r))
       hit [] 0 = false ∧ hit [(0, true)] 0 = true ∧ hit [(0x10000000200, true)] (0x8000010000000200) = true
       ∧ hit [(0x10000000200, true)] 0 = false)
    ∧ (∃ (s : State) (gn : GroupName) (h : Group), CommandReady s .base false ∧ s.haltedGroup gn = some (0, h)
      ∧ SMap.find? s.groups 0 = some h ∧ SMap.find? s.tasks h.tid = some wK ∧ SMap.find? s.clusters h.cid = some wC
      ∧ wC.tid = h.tid)
    ∧ (∃ gn, wS.haltedGroup gn = none) :=
  ⟨⟨⟨rfl, rfl, .inr rfl⟩, rfl, by decide +kernel, rfl, rfl, rfl, by decide⟩, by decide +kernel,
    ⟨by decide +kernel, by decide +kernel, rfl, rfl, by decide +kernel⟩, by decide +kernel,
    ⟨{ wS with groups := [(0, { wG with halted := true })] }, ⟨0, 0, 0, 0, 0⟩, { wG with halted := true },
      ⟨rfl, rfl, .inr rfl⟩, by decide +kernel, rfl, rfl, rfl, rfl⟩, ⟨0, 0, 0, 0, 0⟩, by decide +kernel⟩
/-- A machine out of its pod, with a part of it chosen, with a lost module, in sapling mode. -/
def wPm : State := { wCm with crown := { podset := some (2, 6), lostMods := [0] } }
def wSap : State := { wCm with crown := { sapling := true } }
theorem witness_PackageCommandsActAndAnswer :
    (CommandReady wCm .base true ∧ CommandReady wCm (.part 0) true ∧ wCm.crown.sapling = false
      ∧ (6 : Nat) < 2 * 2 + 2 + 1 ∧ (∀ e ∈ wCm.crown.ports, e.2.up = false) ∧ (2 : Nat) ≤ 5)
    ∧ (∃ s : State, CommandReady s .base true ∧ ∃ e ∈ s.crown.ports, e.2.up = true)
    ∧ (CommandReady wPm .base true ∧ wPm.crown.podset = some (2, 6) ∧ (wPm.portModule 0).isSome = true
      ∧ (2 + 1) * 2 * 2 * (64 + 131072) ≤ 1573632 ∧ SMap.find? wPm.parts 0 = some wP ∧ wP.tdi = .unlocked
      ∧ wPm.modLost 0 = true)
    ∧ (hmapOk (14 <<< 53) = true ∧ (∀ r ∈ wCm.roots, r.stack ≠ some 7) ∧ wCm.migrations = [] ∧ (∀ e ∈ wCm.groups, e.2.stnts = []))
    ∧ (CommandReady State.reset .base true ∧ State.reset.parts = [])
    ∧ (CommandReady wSap .base true ∧ wSap.crown.sapling ≠ false ∧ spareOk (.lane 383 31) = true)
    ∧ (∃ k q, (Via.part 0) = .part k ∧ SMap.find? wCm.parts k = some q ∧ q.system = true)
    ∧ (¬ ∃ k q, Via.base = .part k ∧ SMap.find? wCm.parts k = some q ∧ q.system = true) :=
  ⟨⟨⟨rfl, rfl, .inl rfl⟩, ⟨rfl, rfl, .inl rfl⟩, by decide +kernel⟩,
    ⟨{ wCm with crown := { ports := [(5, { up := true })] } }, ⟨rfl, rfl, .inl rfl⟩, (5, { up := true }), by decide, rfl⟩,
    ⟨⟨rfl, rfl, .inl rfl⟩, by decide +kernel⟩, by decide +kernel, ⟨⟨rfl, rfl, .inl rfl⟩, rfl⟩,
    ⟨⟨rfl, rfl, .inl rfl⟩, by decide, by decide⟩, ⟨0, wP, rfl, rfl, rfl⟩, fun ⟨_, _, h, _⟩ => by cases h⟩
/-- A partition in each state of its interface; a responder that has negotiated, with a session begun and a live one; a
port whose key slots are free at both ends, both full, and rotating, with an operation under the old key sent and
acknowledged. -/
def wLk (t : TdiState) : State :=
  { wCm with parts := [(0, { wP with tdi := t })]
             crown := { podset := some (2, 0), spdm := .negotiated, sessions := [(0, { live := false, secret := 0 }), (1, { live := true, secret := 1 })] } }
theorem witness_LinkRequestsAreAnswered :
    (∀ t, (wLk t).crown.down = false ∧ SMap.find? (wLk t).parts 0 = some { wP with tdi := t })
    ∧ ((wLk .locked).crown.sapling = false ∧ (wLk .locked).crown.spdm = .negotiated ∧ (wLk .locked).crown.spdm ≠ .start
      ∧ (∃ m, (wLk .locked).measurement 1 0 = some m) ∧ (∃ m, (wLk .locked).measurement 6 0 = some m) ∧ SMap.find? (wLk .locked).crown.sessions 2 = none
      ∧ SMap.find? (wLk .locked).crown.sessions 0 = some { live := false, secret := 0 }
      ∧ SMap.find? (wLk .locked).crown.sessions 1 = some { live := true, secret := 1 }
      ∧ (∃ e ∈ (wLk .locked).crown.sessions, e.2.live = true)
      ∧ SMap.find? (((wLk .locked).podPort 5).side 1).2.1 1 = none
      ∧ ((wLk .locked).portModule 0).isSome = true ∧ (wLk .locked).farKey 0 1 1 = none)
    ∧ (∃ (s : State) (keys : SMap (BitVec 256)), s.crown.down = false ∧ SMap.find? s.parts 0 = some wP
      ∧ (s.podPort 0).side 0 = (0, keys, none) ∧ (s.keyEnds 0 0 1).1.isSome = true)
    ∧ (∀ st ∈ [1, 2], ∃ s : State, s.crown.down = false ∧ SMap.find? s.parts 0 = some wP
      ∧ (s.podPort 0).side 0 = (1, [(0, 1), (1, 2)], some [(5, 0)])
      ∧ ([(5, 0)].all (fun x : Nat × Nat => (s.ownOp x.1 x.2).all (fun o => o.state != 1 + 0))) = decide (st = 2)) :=
  ⟨fun _ => ⟨rfl, rfl⟩,
    ⟨rfl, rfl, by decide, ⟨_, rfl⟩, ⟨_, rfl⟩, rfl, rfl, rfl, ⟨(1, { live := true, secret := 1 }), by decide, rfl⟩, rfl,
      by decide +kernel, by decide +kernel⟩,
    ⟨{ wCm with crown := { ports := [(0, { keyTx := [(0, 1), (1, 2)] })] } }, [(0, 1), (1, 2)], rfl, rfl, rfl, by decide +kernel⟩,
    fun st h => ⟨{ wCm with
        crown := { ports := [(0, { slotTx := 1, keyTx := [(0, 1), (1, 2)], retiringTx := some [(5, 0)] })] }
        streams := [(5, { gid := 0, slot := 1, part := 0, rcb := 0, ops := [
          { seq := 0, resync := false, dest := .modul 1, op := .write [] none, gid := 0, addr := 0, part := 0, state := st }] })] },
        rfl, rfl, rfl, by
      simp only [List.mem_cons, List.not_mem_nil, or_false] at h
      rcases h with rfl | rfl <;> decide +kernel⟩⟩

/-! ## The scheduler and issue -/

/-- A word of HBM in place. -/
def wPut (a : Nat) (w : Nat) (s : State) : State := s.hbmWrite 0 (addrBytes a (bytesOf 8 w))
/-- A partition that runs, whose root says that one task is posted: a descriptor of one cluster at 0x10000000600. -/
def wRun : Part := { wP with root := some 0x10000000200, tdi := .run, frames := 8 }
def wNo : State := { wS with parts := [(0, wRun)], tasks := [], clusters := [], groups := [] }
def wTs : State :=
  wNo |> wPut 0x30200 1 |> wPut 0x30228 0x10000000600 |> wPut 0x30238 1 |> wPut 0x30620 (2 ^ 32 + 1) |> wPut 0x30628 (2 ^ 56 + 2 ^ 52)
/-- A graph of one node of a kind, at 0x10000008000. -/
def wGr : Graph := { part := 0, rcb := 0x10000000200, ptr := 0x10000008000, nodes := 1, ts := 0, order := 0 }
def wNd (kind : Nat) (fin : List Nat) : State :=
  { wPut 0x38000 1 (wPut 0x38040 0x10000000600 (wPut 0x38048 kind wNo)) with graphs := [(0, { wGr with finished := fin })] }
theorem eresOf {α : Type} {x : ERes α} {a : α} (h : (match x with
    | .ok b _ => some b
    | _ => none) = some a) : ∃ u, x = .ok a u := by
  cases x with
  | ok b u => simp only [Option.some.injEq] at h; exact ⟨u, by rw [h]⟩
  | fail _ _ => cases h
  | miss _ _ => cases h
def wTou (s : State) : State := s.touchChain 0 0x10000000200
/-- A task listed, no task listed, nothing to take, and a list that rests; a graph's node of each kind. -/
theorem witness_WorkEntersAndCompletes :
    (([7] : List Byte) ≠ [] ∧ 0x3001F % 32 + 1 ≤ 32 ∧ 0x3001F < 2 ^ 39 ∧ wS.hbmGone 0x3001F = false ∧ (SMap.find? wS.parts 0).isSome = true)
    ∧ (SMap.find? wTs.parts 0 = some wRun ∧ wRun.num = 0 ∧ wRun.root = some 0x10000000200 ∧ wRun.working = true
      ∧ wTs.crown.sapling = false ∧ bit ((wTou wTs).rcbWord 0 0x10000000200 0x38) 0 = true ∧ wRun.preempted = []
      ∧ (wTou wTs).rcbWord 0 0x10000000200 0 = 1 ∧ (wTou wTs).rcbWord 0 0x10000000200 8 = 0
      ∧ (wTou wTs).listRests wRun 0x10000000200 = false ∧ (wTou wTs).rcbClean 0 0x10000000200 = true
      ∧ (wTou wTs).sickList 0 0x10000000200 = none
      ∧ (let v := (wTou wTs).devTouch 0 (BitVec.ofNat 64 ((wTou wTs).rcbWord 0 0x10000000200 0x30))
         v.nextDesc 0 0x10000000200 = 0x10000000600 ∧ (v.devRead 0 0x10000000600).isSome = true ∧
         let u := v.modPart 0 (fun p => { p with ended := wRun.ended.filter (fun e => !samePtr e.1 0x10000000200) })
         let s2 := (u.devMod 0 0x10000000230 (fun _ => 0x10000000600)).devMod 0 0x10000000238 (fun w =>
           BitVec.ofNat 64 (w.toNat / 2 ^ 32 * 2 ^ 32 + 0 % 16 * 2 ^ 28 + w.toNat % 2 ^ 28))
         let s3 := (s2.touchChain 0 0x10000000200).devTouchSpan 0 0x10000000600 256
         let w (o : Nat) : Nat := ((s3.devRead 0 (0x10000000600 + BitVec.ofNat 64 o)).map (·.toNat)).getD 0
         s3.devBad 0 0x10000000600 256 = false ∧ s3.taskValid wRun w { parseTask w 0 0x10000000200 0x10000000600 0 s3.nextId true with
           pts := v.wordTime 0 0x10000000200, eff := s3.resolve 0 0x10000000200 } false = true))
    ∧ (let u := wTou (wPut 0x30228 0 wTs)
       bit (u.rcbWord 0 0x10000000200 0x38) 0 = true ∧ u.sickList 0 0x10000000200 = none
       ∧ (u.devTouch 0 (BitVec.ofNat 64 (u.rcbWord 0 0x10000000200 0x30))).nextDesc 0 0x10000000200 = 0 ∧ u.rcbWord 0 0x10000000200 0 = 1
       ∧ u.rcbClean 0 0x10000000200 = true ∧ u.listRests wRun 0x10000000200 = false)
    ∧ (bit ((wTou (wPut 0x30208 1 wTs)).rcbWord 0 0x10000000200 0x38) 0 = true
      ∧ (wTou (wPut 0x30208 1 wTs)).sickList 0 0x10000000200 = none ∧ (wTou (wPut 0x30208 1 wTs)).rcbWord 0 0x10000000200 8 = 1)
    ∧ (let u := wTou { wTs with parts := [(0, { wRun with ended := [(0x10000000200, 0)] })], cycle := 65535, idleWork := [0x30200] }
       bit (u.rcbWord 0 0x10000000200 0x38) 0 = true ∧ u.cycle < 0 + 65536 ∧ u.sickList 0 0x10000000200 = none
       ∧ u.devAddr 0 0x10000000200 = some 0x30200 ∧ 0x30200 ∈ u.idleWork)
    ∧ (∀ k ∈ [0, 1, 2, 3], SMap.find? (wNd k []).graphs 0 = some wGr ∧ SMap.find? (wNd k []).parts 0 = some wRun
      ∧ 0 < wGr.nodes ∧ (wNd k []).nodeState wGr 0 = 0 ∧ (wNd k []).nodeLeft wGr 0 = 0
      ∧ (wNd k []).nodeAsked wGr wRun 0 = false ∧ (wNd k []).nodePage wGr wRun 0 = none ∧ (wNd k []).nodeKind wGr 0 = k)
    ∧ (SMap.find? (wNd 3 [0]).graphs 0 = some { wGr with finished := [0] }
      ∧ ({ wGr with finished := [0] } : Graph).finished.contains 0 = true)
    ∧ (∀ p, SMap.find? ({ wNo with tasks := [(0, { wK with cwPtr := p, clEnded := 1 })] } : State).tasks 0
        = some { wK with cwPtr := p, clEnded := 1 }) ∧ wK.dead = false ∧ wK.ncl = 1 ∧ wK.cwMiss = none
    ∧ ∃ u, wNo.cwStore 0 0x10000000008 7 0 false = .ok 1 u :=
  ⟨by decide +kernel, by decide +kernel, by decide +kernel, by decide +kernel, by decide +kernel, by decide +kernel,
    by decide +kernel, fun _ => rfl, rfl, rfl, rfl, eresOf (by decide +kernel)⟩
/-- A task none of whose clusters is there, with frames for it and without; its cluster with its holds; one that backed
off. -/
def wPa (frames : Nat) : State :=
  { wNo with parts := [(0, { wRun with frames })], tasks := [(0, { wK with rcb := 0x10000000200 })] }
def wPc : PlaceArg := { tid := 0, cluster := 0, cores := [[383]], tags := [7], commit := false }
def wHo : Hold :=
  { cores := [383], units := [[0]], lanes := [[(0, 1), (1, 1)]], slices := [true], banks := [], tags := [7], sids := 0
    frames := 2, lead := 1, since := 0 }
def wCw : Cluster := { tid := 0, idx := 0, hold := some wHo }
def wKe : Task := { wK with eff := (wPa 2).resolve 0 wK.rcb, nextCl := 1 }
def wPb : State := { wPa 2 with tasks := [(0, wKe)], clusters := [(1, wCw)], nextId := 2, cycle := 256 }
theorem effOf {x y : Eff} (h : x.prio = y.prio ∧ x.lease = y.lease ∧ x.policy = y.policy) (r : x.root = y.root) (p : x.pool = y.pool)
    (l : x.limits = y.limits) (g : x.log = y.log) : x = y := by
  cases x; cases y; simp_all
theorem wPbEff : wKe.eff = (wPb.touchChain 0 wKe.rcb).resolve 0 wKe.rcb :=
  effOf (by decide +kernel) (by decide +kernel) (by decide +kernel) (by decide +kernel) (by decide +kernel)
theorem wPbFits : ((wPb.touchChain 0 wKe.rcb).modTask 0 (fun t => { t with
    eff := (wPb.touchChain 0 wKe.rcb).resolve 0 wKe.rcb })).fitsIn 0 wKe.eff.limits
      { wKe.charge.times 1 with tag := wKe.tags } = true := by decide +kernel
theorem witness_PlacementHoldsCommitsAndBacksOff :
    (∀ n ∈ [1, 2], let s := wPa n
      (s.nextOffer.map (fun o => (o.tid, o.idx))) = some (0, 0) ∧ SMap.find? s.tasks 0 = some wK ∧ placeFails wK = false
      ∧ (let s1 := s.createClusters 0 wK 0
         let cs := s1.reservation 0 wK 0
         (∀ e ∈ s1.clusters, e.2.hold = none) ∧ cs.length = 1 ∧ (∀ c ∈ wPc.cores, c ∈ coreSets wK.shape)
         ∧ wPc.tags.length = wK.tags ∧ wPc.tags.eraseDups.length = wK.tags ∧ (∀ i ∈ wPc.tags, i ∈ s1.freeTags)
         ∧ wK.tags ≤ s1.freeTags.length
         ∧ (s1.holdAll { wRun with frames := n } wK cs wPc.cores wPc.tags).isSome = decide (n = 2)
         ∧ s1.someSets { wRun with frames := n } wK cs wPc.tags = decide (n = 2)))
    ∧ (SMap.find? wPb.tasks 0 = some wKe ∧ SMap.find? wPb.parts 0 = some { wRun with frames := 2 }
      ∧ wKe.eff = (wPb.touchChain 0 wKe.rcb).resolve 0 wKe.rcb ∧ (wPb.clustersOf 0).filter (fun e => e.2.hold.isSome) = [(1, wCw)]
      ∧ wCw.idx = 0 ∧ wCw.hold = some wHo ∧ wHo.lead = 1 ∧ wHo.cores.length = shapeWgs wKe.shape
      ∧ SMap.find? wPb.clusters 1 = some wCw ∧ wCw.st = .waiting ∧ placeFails wKe = false ∧ wPb.cycle ≤ wHo.since + 256
      ∧ (let s0 := wPb.touchChain 0 wKe.rcb
         let s1 := s0.modTask 0 (fun t => { t with eff := s0.resolve 0 wKe.rcb })
         ((((s1.dropHolds 1).holdAll { wRun with frames := 2 } wKe [(1, wCw)] [wHo.cores] wHo.tags).bind (fun s2 =>
           SMap.find? s2.clusters 1)).bind (·.hold)).isSome = true
         ∧ s1.fitsIn 0 wKe.eff.limits { wKe.charge.times 1 with tag := wKe.tags } = true)
      ∧ (∀ e ∈ wPb.groups, e.2.cid ≠ 1) ∧ wKe.bound = [] ∧ wKe.tags ≤ wHo.tags.length)
    ∧ (∃ s : State, SMap.find? s.clusters 0 = some { wC with retryAt := 64 }
      ∧ ({ wC with retryAt := 64 } : Cluster).retryAt ≤ s.cycle) :=
  ⟨by decide +kernel, ⟨rfl, rfl, wPbEff, by decide +kernel, rfl, rfl, rfl, rfl, rfl, rfl, by decide, by decide,
      ⟨by decide +kernel, wPbFits⟩, by decide, rfl, by decide⟩,
    { wS with clusters := [(0, { wC with retryAt := 64 })], cycle := 64 }, rfl, by decide⟩
/-- A lane's next slot not yet come, and its one group ready; a fill at a code page that is there and at one that is not;
a pending run; values on their way, from a module that is there and from one that is lost. -/
def wIs : Group := { wL with ic := [(0, (0, some [0, 0x03, 0x41, 0x20]))] }
def wFl (f : FillSrc) : Group := { wL with fills := [{ reg := 4, thread := 31, src := f }] }
theorem witness_LanesIssueStartAndFill :
    ((wS.modCore 0 (fun c => { c with slotAt := [(0, 1)] })).cycle
        < (SMap.find? ((wS.modCore 0 (fun c => { c with slotAt := [(0, 1)] })).core 0).slotAt 0).getD 0)
    ∧ (let s : State := { wS with groups := [(0, wIs)] }
       s.issueHeld = false ∧ (SMap.find? (s.core 0).slotAt 0).getD 0 ≤ s.cycle ∧ s.onLane 0 0 = [(0, wIs)]
       ∧ wIs.busyDue = 0 ∧ wIs.pendingSet = false ∧ wIs.readySince = none ∧ s.groupIssues wIs = true ∧ wIs.issued = false
       ∧ wIs.slot (s.pickSlot wIs) = some wQ
       ∧ wIs.leafWord wQ = .instr 0 4 (.iadd { ty := .b32, d := .lane 1, s1 := .lane 2, s2 := .lane 3 })
       ∧ (∀ k ∈ [0, 1], k = 0 ∨ (wIs.slot k).isNone = true))
    ∧ wS.oldest [(0, wG)] = some (0, wG)
    ∧ (let g : Group := { wG with pend := some wR }
       g.run = none ∧ (st g).stopping g = false ∧ (SMap.find? ((st g).core 0).slotAt g.lane).getD 0 ≤ (st g).cycle)
    ∧ (wL.core.isSome = true ∧ wL.slot 0 = some wQ ∧ wL.park = none ∧ wL.evicted = false ∧ SMap.find? wL.ic 0 = none
      ∧ wL.redo = none ∧ (lf wL).leafMiss wL 0 = none ∧ (((lf wL).hbmWrite 0 [(0x20007, 0)]).leafMiss wL 0).isSome = true)
    ∧ (∀ f, SMap.find? (lf (wFl f)).groups 0 = some (wFl f)
      ∧ (wFl f).fills.find? (fun x => x.reg == 4 && x.thread == 31) = some { reg := 4, thread := 31, src := f })
    ∧ (let f : FillSrc := .podLoad (.modul (some 0) 0 65536) 8 false 0 0
       let up (s : State) : State := { s with crown := { s.crown with podset := some (2, 0), ports := [(0, { up := true })] } }
       (wFl f).fills.filter (fun x => x.src.together f) = (wFl f).fills ∧ (up (lf (wFl f))).placeDown (.modul (some 0) 0 65536) = false
       ∧ (up (lf (wFl f))).placeBad (.modul (some 0) 0 65536) 1 = false
       ∧ (up { lf (wFl f) with modPoison := [(modKey 0 65536 / 32, true)] }).placeBad (.modul (some 0) 0 65536) 1 = true ∧
       (wFl f).host = none ∧ (wFl f).fills.find? (fun x => x.thread == 31 && x.isPodLoad) = some { reg := 4, thread := 31, src := f }
       ∧ (lf (wFl f)).ownStoresPend 0 (.modul (some 0) 0 65536) = false
       ∧ (lf (wFl f)).placeLost (.modul (some 0) 0 65536) = false ∧ (lf (wFl f)).placeBad (.modul (some 0) 0 65536) 8 = false
       ∧ ({ lf (wFl f) with crown := { lostMods := [0] } } : State).placeLost (.modul (some 0) 0 65536) = true) :=
  ⟨by decide +kernel, by decide +kernel, by decide +kernel, by decide +kernel, by decide +kernel, fun _ => ⟨rfl, rfl⟩,
    by decide +kernel⟩

/-! ## Pages, saves, clocks, engines -/

def wLog : PageLog := { base := 0x600000, size := 64, ans := 0x608000, cons := 0x610000, next := 63 }
def wRq (tag : Option Nat) (seq : Option Nat) : PageReq :=
  { obj := 1, page := 0, kind := .read, first := 0, mal := false, tag, seq }
def wPq (l : List PageReq) : Part := { wP with log := some wLog, reqs := l }
def wLg (l : List PageReq) : State := { wS with parts := [(0, wPq l)] }
def wMg : Migration := { part := 0, obj := 1, page := 0, alt := false, frame := 9, started := true }
def wMv (g : Group) : State := { wS with migrations := [wMg], groups := [(0, g)] }
theorem noPoison {s : State} (h : s.poison = []) (f : s.crown.failedStacks = []) (a n : Nat) :
    s.placeBad (.hbm a) n = false := by
  simp [State.placeBad, State.hbmBadSpan, State.hbmBad, State.hbmGone, h, f]
/-- Nothing in a core's copies; a request without a tag and one with it, in a log with one place left; answers with and
without a request; a migration that waits for a store, that goes on, that meets poison, that meets a lost place. -/
theorem witness_PagesAreWalkedRequestedAndMigrated :
    (SMap.find? (wS.core 0).otlb (otlbKey 0 1) = none ∧ (wS.walkDesc wP 1).toOption = some wD ∧ frameOf wP 1 = none
      ∧ 65536 * 0 < wD.size ∧ SMap.find? (wS.die 0).port (portKey 0 1 0) = none
      ∧ wS.walkPage wP wD 0 = .here { alt := false, frame := 3 })
    ∧ (SMap.find? (wLg [wRq none none]).parts 0 = some (wPq [wRq none none])
      ∧ (wPq [wRq none none]).reqs.find? (fun r => r.obj == 1 && r.page == 0 && r.tag.isNone) = some (wRq none none)
      ∧ (4095 : Nat) < 4096 ∧ (wPq [wRq none none]).reqs.any (fun r => r.tag == some 4095) = false
      ∧ wLog.next < (wLg [wRq none none]).hbmWord 0 wLog.cons + wLog.size ∧ wLog.cons % 8 = 0 ∧ 0 < wLog.size)
    ∧ (bits (0x0100000000000040 : Word).toNat 56 8 ≠ 0
      ∧ (let hit (r : PageReq) : Bool := r.tag == some 4095 && r.seq.map (· % 2 ^ 48) == some (bits 0x0100000000000040 0 48)
         (wPq [wRq (some 4095) (some 64)]).reqs.find? hit = some (wRq (some 4095) (some 64))
         ∧ (wPq [wRq (some 4095) (some 65)]).reqs.find? hit = none))
    ∧ (∀ g, (wMv g).migrations.find? (fun m => m.started && m.part == 0 && m.obj == 1 && m.page == 0) = some wMg
      ∧ SMap.find? (wMv g).parts 0 = some wP)
    ∧ ((wMv wG).pageOf wP 1 0).toOption = some (wD, { alt := false, frame := 3 })
    ∧ (let src := ((wMv wG).placeOf wD { alt := false, frame := 3 } 0).1
       let dst := ((wMv wG).placeOf wD { alt := false, frame := 9 } 0).1
       src = .hbm 0x30000 ∧ (wMv wG).pageBusy 0 src = false ∧ (wMv wG).placeLost src = false
       ∧ (wMv wG).placeLost dst = false ∧ (wMv wG).placeDown src = false ∧ (wMv wG).placeDown dst = false
       ∧ (wMv { wG with stnts := [{ addr := 0x30000, bytes := [(0x30000, 1)] }] }).pageBusy 0 src = true
       ∧ ({ wMv wG with poison := [(0x30000 / 32, true)] } : State).placeBad src 65536 = true
       ∧ (wMv wG).placeFailed dst = false ∧ ({ wMv wG with crown := { failedStacks := [0] } } : State).placeFailed dst = true)
    ∧ ((wLg []).hbmGone wLog.cons = false
      ∧ (({ wMv wG with poison := [(0x20000 / 32, true)] } : State).pageOf wP 1 0 matches .error .uePoison) = true)
    ∧ (wMv wG).placeBad (.hbm 0x30000) 65536 = false
    ∧ ({ wS with crown := { lostMods := [0] } } : State).placeLost (.modul (some 0) 0 65536) = true :=
  ⟨by decide +kernel, by decide +kernel, by decide +kernel, fun _ => ⟨rfl, rfl⟩, by decide +kernel, by decide +kernel,
    by decide +kernel, noPoison rfl rfl _ _, by decide +kernel⟩
/-- A cluster whose group has been parked for 1,024 cycles; one that stops, its group at a safe point, and not at one, as
long as the watchdog allows and a cycle less. -/
theorem witness_ClustersStopAndAreSaved :
    (∃ (s : State) (c : Cluster), SMap.find? s.clusters 0 = some c ∧ SMap.find? s.tasks c.tid = some wK ∧ c.st = .resident
      ∧ c.parkedSince = some 0 ∧ 0 + 1024 ≤ s.cycle ∧ (∀ e ∈ s.groupsIn 0, e.2.park.isSome = true)
      ∧ (s.die c.die).shadow + s.imageSize 0 c wK.scr ≤ 96 * 2 ^ 20)
    ∧ (∃ (s : State) (c : Cluster), SMap.find? s.clusters 0 = some c ∧ c.st = .stopping ∧ c.refills = []
      ∧ ∀ e ∈ s.groupsIn 0, s.groupStopped e.1 e.2 = true ∧ s.waitsOver e.1 e.2 = true)
    ∧ (∀ n ∈ [2 ^ 20, 2 ^ 20 - 1], ∃ (s : State) (c : Cluster) (g : Group), SMap.find? s.clusters 0 = some c
      ∧ SMap.find? s.tasks c.tid = some wK ∧ c.st = .stopping ∧ c.stopAt = some 0 ∧ s.unstopped 0 c = some (0, g)
      ∧ s.liveCycles = n) :=
  ⟨⟨{ wS with clusters := [(0, { wC with parkedSince := some 0 })], cycle := 1024
              groups := [(0, { wG with park := some { slot := none, mask := 0, misses := [] } })] }, _, rfl, rfl, rfl, rfl,
      by decide, by decide +kernel, by decide +kernel⟩,
    ⟨{ wS with clusters := [(0, { wC with st := .stopping })], cur := none }, _, rfl, rfl, rfl, by decide +kernel⟩,
    fun n hn => ⟨{ wS with clusters := [(0, { wC with st := .stopping, stopAt := some 0 })], groups := [(0, wIs)], cur := none
                           cycle := n }, _, wIs, rfl, rfl, rfl, rfl, by
      simp only [List.mem_cons, List.not_mem_nil, or_false] at hn
      rcases hn with rfl | rfl <;> decide +kernel⟩⟩
theorem witness_SlowClocksAndNontemporalStores :
    (∃ s : State, (s.core 0).ptsAt ≤ s.cycle)
    ∧ (∃ (s : State) (x : LineTs), s.crown.wrapAt + 4096 ≤ s.cycle ∧ SMap.find? s.lines 0 = some x)
    ∧ wS.cycle < wS.crown.wrapAt + 4096
    ∧ (∃ (s : State) (g : Group) (x : Stnt), SMap.find? s.groups 0 = some g ∧ g.stnts[0]? = some x) :=
  ⟨⟨wS, by decide +kernel⟩, ⟨{ wS with cycle := 4096, lines := [(0, {})] }, _, by decide, rfl⟩,
    by decide, ⟨{ wS with groups := [(0, { wG with stnts := [{ addr := 0x30000, bytes := [(0x30000, 1)] }] })] }, _, _, rfl, rfl⟩⟩

/-- Posted, moved and decremented: the head of a copy queue of grove 0. -/
def wOp (done dec : Nat) : EngOp :=
  { gid := 0, cid := 0, wg := 0, part := 0, word := 0x10000000000, rows := 1, rowBytes := 64
    dst := { sp := false, val := 0x10000004000 }, src := { sp := false, val := 0x10000005000 }, dpitch := 0, spitch := 0
    idx := none, i64 := false, cw := none, txb := none, key := false, slot := 0, ts := 0, lease := 10, started := true
    done, dec, flushed := true, cwDone := true }
def wQu (o : EngOp) : State := { wS with groves := [(0, { queues := [(0, [.op o])] })] }
theorem witness_EngineOperationsStartAndEnd :
    (∀ o, (wQu o).headOp 0 0 = some o ∧ ((wQu o).grove 0).doneFence = none)
    ∧ (∀ d c, SMap.find? (wQu (wOp d c)).parts (wOp d c).part = some wP ∧ (wOp d c).started = true ∧ (wOp d c).failed = none
      ∧ (wOp d c).flushed = true ∧ (wOp d c).cwDone = true ∧ (wOp d c).unacked (wQu (wOp d c)) = false)
    ∧ ((wOp 64 64).done = (wOp 64 64).total ∧ (wOp 64 64).total ≤ (wOp 64 64).dec)
    ∧ ((wOp 64 0).dec + 64 ≤ (wOp 64 0).total ∧ (wOp 64 0).dec + 64 ≤ (wOp 64 0).done
      ∧ (wOp 32 0).dec + 32 ≤ (wOp 32 0).done)
    ∧ (∀ d c, (wOp d c).miss = none ∧ ({ wOp d c with started := false } : EngOp).started = false
      ∧ (wOp d c).cwSeq.any (wQu (wOp d c)).opPending = false) :=
  ⟨fun _ => ⟨rfl, rfl⟩, fun _ _ => ⟨rfl, rfl, rfl, rfl, rfl, rfl⟩, by decide, by decide, fun _ _ => ⟨rfl, rfl, rfl⟩⟩
/-- A fill of range 3 of core 0's slice, its source there, and past its object's end; a pass over the range, filled,
granted at cycle 0, its occupancy of 8 + 32 / 32 cycles and 24 more passed and a cycle less. -/
def wFi3 : ObFill := { gid := 0, cid := 0, wg := 0, core := 0, ob := 3, txb := none, word := 0x10000000000, ts := 0, lease := 10 }
def wPs : Pass :=
  { key := 5, gid := 0, cid := 0, core := 0, wide := false, tile := 0, acc := false, k := 32, ch := 32, a := .range 3 0 0
    b := .range 3 0 0, prio := 8, word := 0x10000000000, ts := 0, postedAt := 0 }
def wMx (r : Range) (fs : List ObFill) (ps : List Pass) : State :=
  { wS with
    cycle := 1
    clusters := [(0, { wC with wgs := [{ core := some 0, units := [0], slice := true, ranges := [(3, r)] }] })]
    groves := [(0, { obFills := fs, passes := ps, tileOps := ps.map (fun p => (0, 0, .pass p.key)) })] }
theorem eresIs {α : Type} (x : ERes α) (h : (match x with
    | .ok _ _ => true
    | _ => false) = true) : ∃ a u, x = .ok a u := by
  cases x with
  | ok a u => exact ⟨a, u, rfl⟩
  | fail _ _ => cases h
  | miss _ _ => cases h
theorem eresFails {α : Type} (x : ERes α) (h : (match x with
    | .fail _ _ => true
    | _ => false) = true) : ∃ c u, x = .fail c u := by
  cases x with
  | fail c u => exact ⟨c, u, rfl⟩
  | ok _ _ => cases h
  | miss _ _ => cases h
theorem witness_OperandFillsAndPassesProceed :
    (∀ r ps, ((wMx r [wFi3] ps).grove (coreGrove 0)).obFills.find? (fun f => f.core == 0 && f.ob == 3) = some wFi3
      ∧ (wMx r [wFi3] ps).wg? 0 0 = some { core := some 0, units := [0], slice := true, ranges := [(3, r)] }
      ∧ SMap.find? (wMx r [wFi3] ps).groups 0 = some wG ∧ SMap.find? (wMx r [wFi3] ps).parts wG.part = some wP
      ∧ ((wMx r [wFi3] ps).clusters.findSome? (fun c => c.2.wgs.find? (fun w => w.core == some 0 && w.slice)))
        = some { core := some 0, units := [0], slice := true, ranges := [(3, r)] })
    ∧ wFi3.failed = none ∧ wFi3.miss = none ∧ ({ wRg with st := .filled, data := [0] } : Range).data ≠ []
    ∧ ({ wRg with st := .reserved } : Range).st = .reserved ∧ wRg.st ≠ .stale ∧ ({ wRg with st := .stale } : Range).st = .stale
    ∧ (∃ x u, (wMx wRg [wFi3] []).readRange wP 0 10 0 wRg (some (0, 0)) = .ok x u)
    ∧ (∃ c u, (wMx wRg [wFi3] []).readRange wP 0 10 0 { wRg with src := 0x1000000FFC1 } (some (0, 0)) = .fail c u)
    ∧ (({ wRg with isSealed := true } : Range).isSealed = true ∧ wRg.isSealed = false)
    ∧ (let s := wMx { wRg with st := .filled } [] [wPs]
       s.issueHeld = false ∧ (s.grove 0).passes = [wPs] ∧ s.nextGrant (s.grove 0) = some wPs ∧ s.staleFor wPs = false)
    ∧ ({ wS with crown := { powerHold := true } } : State).issueHeld = true
    ∧ (∀ n ∈ [33, 32], ∃ s : State, (s.grove 0).passes.find? (fun p => p.key == 5) = some { wPs with granted := some 0 }
      ∧ s.cycle = n ∧ 0 + (8 + wPs.k / wPs.ch) + 24 = 33) :=
  ⟨fun _ _ => ⟨rfl, rfl, rfl, rfl, rfl⟩, rfl, rfl, by decide, rfl, by decide, rfl, eresIs _ (by decide +kernel), eresFails _ (by decide +kernel),
    ⟨rfl, rfl⟩, by decide +kernel, rfl,
    fun n _ => ⟨{ wMx wRg [] [{ wPs with granted := some 0 }] with cycle := n }, rfl, rfl, rfl⟩⟩

/-- An operation of stream 5 to module 0, behind port 0 of the package, and a write to host memory; a head of module 0
with a context of stream 5 that expects number 5. -/
def wSo (st seq : Nat) : SOp :=
  { seq, resync := false, dest := .modul 0, op := .write [(65536, 1)] none, gid := 0, addr := 0x30000000000, part := 0
    state := st }
def wHo2 : SOp := { wSo 0 5 with dest := .host, op := .write [(0, 1)] none }
def wSm (o : SOp) (sent : Option Dest) (h : Head) : State :=
  { wS with
    crown := { podset := some (2, 0), ports := [(0, { up := true }), (1, { up := true })] }
    heads := [(0, h)]
    streams := [(5, { gid := 0, slot := 1, part := 0, rcb := 0x10000000200, ops := [o], sent })] }
theorem witness_StreamOperationsAreSentAndAcknowledged :
    (∀ o ∈ [wSo 0 5, wHo2], ∀ d ∈ [none, some .host, some (.modul 0), some (.modul 3)], ∃ x,
      SMap.find? (wSm o d {}).streams 5 = some x ∧ x.ops.find? (fun o => o.state == 0) = some o ∧ x.sent = d
      ∧ (wSm o d {}).mayBeSent x o = true ∧ o.src = none ∧ o.layout = none)
    ∧ ((wSo 0 5).dest = .modul 0 ∧ wHo2.dest = .host ∧ wHo2.op = .write [(0, 1)] none)
    ∧ (wSm (wSo 2 5) none {}).ownOp 5 5 = some (wSo 2 5) ∧ (wSo 2 5).state = 2 ∧ (wSo 1 5).state ≠ 2
    ∧ (wSm (wSo 1 5) none {}).ownOp 5 5 = some (wSo 1 5) := by
  refine ⟨fun o ho d hd => ⟨_, rfl, ?_⟩, by decide⟩
  simp only [List.mem_cons, List.not_mem_nil, or_false] at ho hd
  rcases ho with rfl | rfl <;> rcases hd with rfl | rfl | rfl | rfl <;> decide +kernel
/-- The numbers that stand next, 1 and 63 ahead, 2^31 and 64 off; a head with a context and without; a wait that has just
ended. -/
def wCt (next : Nat) : Head := { ctxs := [{ sid := 5, next, resync := 0 }] }
def wMsg (sid : Nat) : ModMsg := { sid, seq := 0, resync := true, op := .write [(65536, 1)] none }
theorem witness_HeadsCommitHoldAndReject :
    (∀ h ∈ [{}, wCt 5, wCt 4, wCt 0xFFFFFFC6, wCt 0x80000005, wCt 0xFFFFFFC5], let s := wSm (wSo 1 5) (some (.modul 0)) h
      s.modLost 0 = false ∧ s.ownOp 5 5 = some (wSo 1 5) ∧ (wSo 1 5).seq = 5 ∧ (wSo 1 5).dest = .modul 0 ∧ s.headFor 0 = some 0
      ∧ (wSo 1 5).resync = false ∧ (s.head 0 0).waits.any (fun w => w.own && w.msg.sid == 5 && w.msg.seq == 5) = false
      ∧ (s.modulePort 0).isSome = true ∧ s.head 0 (s.ctxHead 0 0 5) = h)
    ∧ ({ wSm (wSo 1 5) none {} with heads := [(2, wCt 5)] } : State).ctxHead 0 0 5 = 2
    ∧ (({} : Head).ctx 5 = none ∧ ((wCt 5).ctx 5).map (·.next) = some 5 ∧ needsWindow (wSo 1 5).op = []
      ∧ ((wSo 1 5).atCommit wS 0).toOption = some (wSo 1 5).op
      ∧ (({ wSo 1 5 with layout := some { handle := wHd, obj := 0, off := 0 } } : SOp).atCommit { wS with modPoison := [(modKey 0 65536 / 32, true)] } 0).toOption
        = none)
    ∧ ((5 + 2 ^ 32 - 5) % 2 ^ 32 = 0 ∧ (5 + 2 ^ 32 - 4) % 2 ^ 32 = 1 ∧ (5 + 2 ^ 32 - 0xFFFFFFC6) % 2 ^ 32 = 63
      ∧ 2 ^ 31 ≤ (5 + 2 ^ 32 - 0x80000005) % 2 ^ 32 ∧ (5 + 2 ^ 32 - 0xFFFFFFC5) % 2 ^ 32 = 64)
    ∧ ((wMsg 2048).sid / 2048 ≠ (wSm (wSo 1 5) none {}).pkg ∧ (wSm (wSo 1 5) none {}).modulePort 0 = some 0
      ∧ (wSm (wSo 1 5) none {}).modLost 0 = false)
    ∧ (∀ q ∈ [{}, { entries := [(6, wMsg 2048)] }, { entries := List.replicate relayDepth (6, wMsg 4096) }], ∃ s : State, s.modLost 6 = false ∧ (wMsg 2048).sid / 2048 ≠ s.pkg
      ∧ s.modulePort 6 = some 1 ∧ ((s.budRoute 1).bind List.head?).bind s.modulePort = some 0 ∧ (s.podPort 0).region.isSome = true
      ∧ (s.podPort 0).up = true ∧ (s.podPort 1).up = true ∧ (SMap.find? s.crown.relayq 1).getD {} = q
      ∧ (q.entries.length < relayDepth ∨ (6, wMsg 2048) ∉ q.entries))
    ∧ (let s : State := { wSm (wSo 1 5) none {} with closes := [(0, 5)] }
       s.closes.contains (0, 5) = true ∧ s.headFor 0 = some 0 ∧ (s.head 0 (s.ctxHead 0 0 5)).waits = [])
    ∧ (∀ own, ∃ (s : State) (w : CtxWait) (x : Stream), (s.head 0 0).waits.find? (fun w => w.msg.sid == 5
        && decide (w.since + 65536 ≤ s.cycle)) = some w ∧ w.own = own ∧ SMap.find? s.streams 5 = some x) := by
  refine ⟨by decide +kernel, by decide +kernel, by decide +kernel, by decide, by decide +kernel, fun q hq => ⟨{ wS with crown := {
      podset := some (2, 0), ports := [(0, { up := true, region := some (0, 0) }), (1, { up := true })], relayq := [(1, q)] } }, ?_⟩,
    by decide +kernel, fun own => ⟨{ wSm (wSo 1 0) none { waits := [{ msg := wMsg 5, own, since := 0 }] } with cycle := 65536 },
      { msg := wMsg 5, own, since := 0 }, _, ?_, rfl, rfl⟩⟩
  · simp only [List.mem_cons, List.not_mem_nil, or_false] at hq
    rcases hq with rfl | rfl | rfl <;> decide +kernel
  cases own <;> decide +kernel
theorem witness_ModulesAndPortsFailAndRecover :
    (let s := wM { wH with wait := .mqSleep 7 0 512 }
     s.portModule 0 = some 0 ∧ SMap.find? s.groups 0 = some { wH with wait := .mqSleep 7 0 512 })
    ∧ ((wM wH).portModule 0 = some 0 ∧ ¬ ((0 : Nat) = 1 ∧ (0 : Nat) = 0) ∧ (wM wH).modLost 0 = false
      ∧ ((wM wH).podPort 0).width ≠ 0
      ∧ (({ wM wH with crown := { podset := some (2, 0), ports := [(0, { width := 0 })] } } : State).podPort 0).width = 0)
    ∧ (∀ n ∈ [2000000, 1999999], ∃ s : State, s.portModule 0 = some 0 ∧ s.modLost 0 = false ∧ (s.podPort 0).up = false
      ∧ (s.podPort 0).downSince = some 0 ∧ s.cycle = n)
    ∧ (∃ s : State, s.portModule 0 = some 0 ∧ s.modLost 0 = true) ∧ (7 : Nat) < 8 :=
  ⟨by decide +kernel, by decide +kernel,
    fun n _ => ⟨{ wS with crown := { podset := some (2, 0), ports := [(0, { downSince := some 0 })] }, cycle := n },
      rfl, rfl, rfl, rfl, rfl⟩,
    ⟨{ wS with crown := { podset := some (2, 0), lostMods := [0] } }, by decide +kernel⟩, by decide⟩

/-- A bud of thread 0 of the group to its own package's die 0, in its core's send queue, on its way, at the receiver; its
return, with and without a code; its refusal; a host group on a die that is held. -/
def wBd : Bud :=
  { spkg := 0, sdie := 0, sgrove := 0, score := 0, slane := 0, sgpos := 0, sthread := 0, hops := 1, kind := .bud, fcode := 0
    region := 64, mask := 1, strmid := 0, strmv := false, dpart := 0, pts := 0, leafbase := 0x10000001000, args := 0
    snap := [1, 2, 3, 4], subset := [5], ref := 7, obj := 1, tenant := 0 }
def wOu (b : Bud) (fb : Bool) : OutBud :=
  { gid := 0, part := 0, rcb := some 0x10000000200, fb, dest := (0, 0), off := 0, bud := b }
def wBs (b : Bud) (fb : Bool) (rs : List Bud) : State := { wS with budsOut := [wOu b fb], returns := rs }
def wLim (n : Nat) : Task :=
  { wK with eff := { wK.eff with limits := [(0x10000000200, [none, none, none, none, none, some n, none])] } }
def wSe (n : Nat) : State :=
  { wS with tasks := [(0, wLim n)], cores := [(0, { budq := [{ after := none, out := wOu wBd false }] })] }
/-- The same bud for package 1, whose route is the link of port 0 and module 0. -/
def wFar : OutBud := { wOu wBd false with dest := (1, 0) }
def wPod (s : State) : State :=
  { s with crown := { podset := some (2, 0), ports := [(0, { up := true, region := some (0, 0) })] }
           parts := [(0, { wP with graftMap := [(1, 3)] })] }
theorem witness_BudsTravelAndHostGroupsReturn :
    (BudFits wBd ∧ BudFits { wBd with kind := .ret, mask := 0, subset := [], fcode := 0x1D })
    ∧ (let s : State := wPod { wSe 1 with cores := [(0, { budq := [{ after := none, out := wFar }] })] }
       (s.core 0).budq = [{ after := none, out := wFar }] ∧ wFar.dest.1 ≠ s.pkg ∧ SMap.find? s.groups 0 = some wG
       ∧ (∀ o ∈ s.budsOut, o.waits s = false) ∧ SMap.find? s.parts wFar.part = some { wP with graftMap := [(1, 3)] }
       ∧ SMap.find? ({ wP with graftMap := [(1, 3)] } : Part).graftMap wFar.dest.1 = some 3
       ∧ s.fitsIn 0 (s.limitsOf wG) { bud := 1 } = true ∧ wFar.leaves = none ∧ wFar.arrived = false
       ∧ s.budRoute 1 = some [0] ∧ s.linkUp 0 = true ∧ ((s.modulePort 0).bind (fun h => (s.podPort h).region)).isSome = true
       ∧ s.queuedBuds 0 < relayDepth)
    ∧ (let s : State := wPod wS
       s.transportFrom 1 = true ∧ s.refuses 0 { wBd with spkg := 1 } = false)
    ∧ (∀ n ∈ [0, 1], ((wSe n).core 0).budq = [{ after := none, out := wOu wBd false }] ∧ (wOu wBd false).dest.1 = (wSe n).pkg
      ∧ SMap.find? (wSe n).groups 0 = some wG ∧ wG.host = none ∧ (∀ o ∈ (wSe n).budsOut, o.waits (wSe n) = false)
      ∧ (wSe n).fitsIn 0 ((wSe n).limitsOf wG) { bud := 1 } = decide (n = 1))
    ∧ (∀ fb, let s := wBs wBd fb []
      ((s.die 0).recv 0).queue.length < 1024 ∧ wBd.kind = .bud ∧ budReceiver wBd = 0 ∧ wBd.spkg = s.pkg
      ∧ s.outBud wBd = some (wOu wBd fb) ∧ (wOu wBd fb).arrived = false ∧ (wOu wBd fb).fallback = false
      ∧ s.refused wBd = false ∧ s.refuses 0 wBd = false
      ∧ (wOu wBd fb).dest = (s.pkg, 0) ∧ s.refuses 0 { wBd with tenant := 1 } = true)
    ∧ ({ wBd with spkg := 1 } : Bud).spkg ≠ wS.pkg
    ∧ (∀ n ∈ [4096, 4095], ∃ s : State, s.outBud wBd = some (wOu wBd false) ∧ s.refused wBd = false ∧ s.cycle = n)
    ∧ (∀ r ∈ [({ queue := [wBd] } : Receiver), { taken := [wBd] }], ∃ s : State, (s.die 0).recv 0 = r
      ∧ ((s.die 0).recv 0).assemble.taken.head? = some wBd ∧ SMap.find? s.parts wBd.dpart = some wP ∧ s.hostsOf 0 0 < 64
      ∧ coreDie 0 = 0 ∧ (s.die 0).held = false ∧ s.worksOn 0 (fun c => coreGrove c == coreGrove 0) = true
      ∧ s.pickLane 0 2 [] = some 1)
    ∧ (∃ s : State, ((s.die 0).recv 0).assemble.taken.head? = some wBd ∧ SMap.find? s.parts wBd.dpart = some wP
      ∧ 64 ≤ s.hostsOf 0 0)
    ∧ (∀ c : BitVec 8, let b : Bud := { wBd with kind := .ret, fcode := c }
      (wBs wBd false [b]).outBud b = some (wOu wBd false) ∧ (wBs wBd false [b]).refused b = false
      ∧ (wBs wBd false [b]).returns.contains b = true ∧ ∀ m ∈ (wOu wBd false).via, (wBs wBd false [b]).modLost m = false)
    ∧ (let b : Bud := { wBd with kind := .ret, fcode := 0x16 }
       let o : OutBud := { wFar with via := [0], leaves := some 0 }
       let s : State := { wS with budsOut := [o], crown := { lostMods := [0] } }
       s.outBud b = some o ∧ s.refused b = false ∧ o.dest.1 ≠ s.pkg ∧ o.leaves.isSome = true ∧ ∃ m ∈ o.via, s.modLost m = true)
    ∧ (∀ fb, let b : Bud := { wBd with kind := .refusal }
      (wBs wBd fb [b]).outBud b = some (wOu wBd fb) ∧ (wBs wBd fb [b]).returns.contains b = true
      ∧ (wOu wBd fb).fallback = false ∧ (wOu wBd fb).fb = fb ∧ (SMap.find? (wBs wBd fb [b]).parts (wOu wBd fb).part).isSome = true)
    ∧ (∃ (g : Group) (h : HostInfo), (SMap.find? (lf g).groups 0 = some g ∧ g.host = some h ∧ h.heldSince = some 0)
      ∧ (lf g).cycle < 0 + 2 ^ 20 ∧ 0 + 2 ^ 20 ≤ ({ lf g with cycle := 2 ^ 20 } : State).cycle) := by
  refine ⟨⟨by unfold BudFits; decide +kernel, by unfold BudFits; decide +kernel⟩, by decide +kernel, by decide +kernel, by decide +kernel, fun fb => ?_, by decide,
    fun n _ => ⟨{ wBs wBd false [] with cycle := n }, rfl, rfl, rfl⟩,
    fun r hr => ⟨{ wS with dies := [(0, { recvs := [(0, r)] })] }, rfl, ?_⟩,
    ⟨{ wS with dies := [(0, { recvs := [(0, { queue := [wBd] })] })]
               groups := (List.range 64).map (fun i => (i, { wL with host := some { die := 0, recv := 0, buds := [] } })) },
      by decide +kernel⟩, fun c => ⟨rfl, rfl, ?_, ?_⟩, by decide +kernel,
    fun fb => ?_, { wL with host := some { die := 0, recv := 0, buds := [], heldSince := some 0 } }, _, ⟨rfl, rfl, rfl⟩,
    by decide, by decide⟩
  · cases fb <;> decide +kernel
  · simp only [List.mem_cons, List.not_mem_nil, or_false] at hr
    rcases hr with rfl | rfl <;> decide +kernel
  · simp [wBs]
  · intro m hm; cases hm
  · cases fb <;> decide +kernel
/-- A root node of two rows of two units, waiting, bound with a burst due, and with every sum there. -/
def wNr : RootNode :=
  { graph := 0, node := 0, part := 0, wptr := 0x10000004000, wpitch := 512, kunits := 2, nrows := 2, xptr := 0x10000005000
    yptr := 0x10000006000, acc := false, ts := 0, want := some 0 }
def wNb : RootNode :=
  { wNr with stack := some 0, x := List.replicate 512 0, issued := [(1, 1)], frames := [(0, 0x30000)], seen := [(wNr.key 1 1, [0, 0])] }
def wNf : RootNode := { wNb with sums := [(0, 0), (1, 0), (2, 0), (3, 0)] }
def wNs (rs : List RootNode) : State := { wS with roots := rs, graphs := [(0, wGr)] }
def wBu : BurstArg := { node := 0, tagged := true, row := 1, unit := 1, bad := [] }
theorem witness_RootNodesAndHbmControllersProceed :
    (let s := wNs [wNr]
     s.roots.find? (fun r => r.graph == 0 && r.node == 0 && r.stack.isNone) = some wNr ∧ SMap.find? s.parts 0 = some wP
     ∧ wNr.fault = none ∧ wNr.miss = none ∧ s.nodesHeld wGr wP = true
     ∧ s.nodesHeld wGr wRun = false ∧ s.nodesHeld wGr { wRun with preempted := [0] } = true
     ∧ (s.rootCheck wP wNr matches .stack 0) = true
     ∧ (s.rootCheck wP { wNr with xptr := 0x20000000000 } matches .fault .objInvalid) = true
     ∧ ((s.hbmWrite 0 [(0x20007, 0)]).rootCheck wP wNr matches .miss _) = true
     ∧ s.crown.failedStacks.contains 0 = false ∧ s.stackFree { wNr with want := some 0 } 0 = true
     ∧ (wNs [{ wNb with order := 1 }, wNr]).stackFree { wNr with want := some 0 } 0 = false)
    ∧ (let s : State := { (wNs [wNr]).hbmWrite 0 [(0x20002, 0), (0x20004, 0x10)] with crown := { failedStacks := [1] } }
       (s.rootCheck wP wNr matches .stack 1) = true ∧ s.crown.failedStacks.contains 1 = true)
    ∧ (let s := wNs [wNb]
       s.rootAt 0 = some wNb ∧ wNb.miss = none ∧ (let ch (i u : Nat) : Option Nat := (wNb.unitAddr i u).map (channelOf (s.hmap 0))
         wNb.issued.find? (fun x => ch x.1 x.2 == ch 1 1) = some (1, 1))
       ∧ (s.burstBad wNb wBu).isNone = true ∧ (s.burstBad wNb { wBu with bad := [7] }).isSome = true
       ∧ ({ wNb with sums := [(3, 0)] } : RootNode).rowFull 1 = false ∧ wNb.addr 1 1 = some 0x34300
       ∧ (∀ j ∈ [0, 7], ((SMap.find? wNb.seen (wNb.key 1 1)).getD [])[j / 4]? = (s.unitTimes wNb 1 1)[j / 4]?))
    ∧ (let s := wNs [wNf]
       s.roots.find? (fun r => r.graph == 0 && r.node == 0 && r.stack.isSome) = some wNf
       ∧ (∀ k, k < wNf.nrows → wNf.rowFull k = true) ∧ (let z := State.writeRows wP (List.range wNf.nrows) 0 s
         z.1 = none ∧ (z.2.rootAt 0).any (fun r => (List.range 2).all (fun k => (SMap.find? r.written k).isSome)) = true))
    ∧ (let q : HbmReq := { cls := 2, at_ := 0, burst := some (0, 1, 1) }
       let c : HbmCtl := { reqs := [q], urgentRun := 64, relief := true }
       c.next = some q ∧ ({ c with relief := false } : HbmCtl).next = some q ∧ (∀ x ∈ c.reqs, x.cls ≠ 0) ∧ q ∈ c.reqs
       ∧ (({ wNs [wNb] with hbmCtl := [(0, c)] } : State).hbmCtlAt 0).next = some q
       ∧ c.reqs.any (fun r => r.cls == 2 && decide (r.at_ + 32000 ≤ 32000)) = true
       ∧ c.reqs.any (fun r => r.cls == 2 && decide (r.at_ + 32000 ≤ 31999)) = false) :=
  ⟨by decide +kernel, by decide +kernel, by decide +kernel, by decide +kernel, by decide +kernel⟩
/-! ## Power, and the machine as a whole -/

theorem witness_PowerHeatAndWearAreWatched :
    (∃ w, State.reset.crown.powerCap < w) ∧ State.reset.crown.down = false ∧ (5 : Nat) < 6 ∧ (115 : Nat) ≤ 115
    ∧ Nat.min State.reset.crown.wear.life 9 < 10 ∧ 10 ≤ Nat.min State.reset.crown.wear.life 10
    ∧ State.reset.crown.wearPosted = false
    ∧ (∃ s : State, s.crown.down = true ∧ s.crown.unserviceable = false) :=
  ⟨⟨3201, by decide⟩, by decide, by decide, by decide, by decide, by decide, by decide,
    { State.reset with crown := { down := true } }, rfl, rfl⟩
theorem nextOf {σ φ ρ : Type} (x : Host.Outcome σ φ ρ) (h : (match x with
    | .next _ => true
    | _ => false) = true) : ∃ t, x = .next t := by
  cases x with
  | next t => exact ⟨t, rfl⟩
  | fault _ => cases h
  | refused _ => cases h
/-- A word that decodes, one that does not, none; the leaf slot at an instruction; the schedule's next turn. -/
theorem witness_StepRunsTheDecodedInstruction :
    (((st wG).fetchStem wG).1 = .word 0 ∧ decodeStem 0 = .ok .nop
      ∧ (((st wG).hbmWrite 0 [(0x30003, 0xFF)]).fetchStem wG).1 = .word 0xFF000000
      ∧ (∃ e, decodeStem 0xFF000000 = .error e)
      ∧ ((st { wG with pc := 0x20000000000 }).fetchStem { wG with pc := 0x20000000000 }).1 = .fault .objInvalid
      ∧ (let s := (st wG).modTask 0 (fun t => { t with stemCode := [(0x10000000000, 7)] })
         ∃ t, SMap.find? s.tasks wG.tid = some t ∧ SMap.find? t.stemCode wG.pc.toNat = some 7 ∧ (s.fetchStem wG).1 = .word 0))
    ∧ (wIs.slot 0 = some wQ ∧ SMap.find? wIs.ic wQ.off = some (0, some [0, 0x03, 0x41, 0x20])
      ∧ ∃ i, decodeStored 0 [0x03, 0x41, 0x20] = .ok i)
    ∧ (isEvent (.ptsIdleAdvance 0) = true ∧ (({ wS with cur := none } : State).pickStem 0).isSome = true)
    ∧ (∃ (s v u : State), SMap.find? s.parts 0 = some wP ∧ s.coreDesc 0 0 1 = (.ok wD, v)
      ∧ stemFetchFault wD (keyClass wP wD) 0 = none ∧ v.findPage 0 wG wP 1 wD 0 false = (.place (.hbm 0x30000) 0, u)
      ∧ u.hbmBadSpan 0x30000 4 = false) :=
  ⟨⟨by decide +kernel, rfl, by decide +kernel, ⟨_, rfl⟩, by decide +kernel, _, rfl, by decide +kernel, by decide +kernel⟩,
    ⟨rfl, rfl, _, rfl⟩, by decide +kernel,
    ⟨{ wS with cores := [(0, { otlb := [(otlbKey 0 1, wD)] })] }, _, _, rfl, okPairOf (by decide +kernel), by decide,
      pairOf (by decide +kernel), by decide +kernel⟩⟩
theorem witness_EveryStepGoesOn : State.reset.partyOk = true ∧ (st wG).partyOk = true ∧ (lf wL).partyOk = true := by
  decide +kernel
theorem witness_EveryStepKeepsTheInvariant : (lf wL).memWf = true ∧ (lf wL).partyOk = true ∧ ∃ t, step (lf wIs) = .next t :=
  ⟨by decide +kernel, by decide +kernel, nextOf _ (by decide +kernel)⟩
theorem witness_StemRegisterWordsChangeNothingElse :
    StemReady (st wG) 0 wG ∧ ∃ t, exec (.add 31 0 31) (st wG) = .next t := ⟨stReady _ rfl, _, rfl⟩
def wSs : AccReq :=
  { ptr := 0x10000000008, e := 65528, n := 8, align := 8, needW := true, wr := true, unbound := true, kind := .write }
theorem witness_StoresChangeTheirBytesAlone :
    (StemReady (st wA) 0 wA ∧ (∃ u, (st wA).freed.checkAccess 0 wA wSs = (.ok (.hbm 0x3FFF8) 0 wD, u))
      ∧ ∃ t, exec (.sst 0 1 (-8)) (st wA) = .next t)
    ∧ (LeafReady (lf wL) 0 0 8 wL wR wQ ∧ wL.host = none ∧ wL.podLoads [0] = false
      ∧ prepare wL wR (takersOf wL 0 wQ wN.ctl) (leafSrcs wN) [] = .go [0] []
      ∧ (∃ u, (lf wL).freed.checkAccess 0 wL wSt = (.ok (.hbm 0x30000) 0 wD, u))
      ∧ (lf wL).checkScratch wL 4088 8 8 = .ok 4088 ∧ checkLocal wP wL 0 1016 8 = .ok (0x400400 + 256 * 127)
      ∧ (∃ t, exec (.stg wN) (lf wL) = .next t) ∧ (∃ t, exec (.stp wN) (lf wL) = .next t)
      ∧ ∃ t, exec (.stl wN) (lf wL) = .next t) :=
  ⟨⟨stReady _ rfl, ⟨_, pairOf (by decide +kernel)⟩, nextOf _ (by decide +kernel)⟩, lfReady _ _ _ rfl rfl, rfl, rfl,
    by decide +kernel, ⟨_, pairOf (by decide +kernel)⟩, okOf (by decide +kernel), okOf (by decide +kernel),
    nextOf _ (by decide +kernel), nextOf _ (by decide +kernel), nextOf _ (by decide +kernel)⟩

/-- Rows of a copy, ascending and descending, and the bytes that lie in them (R266, R269). -/
theorem test_rows_of_a_copy : rowsHit 0 64 4 32 70 = true ∧ rowsHit 0 64 4 32 40 = false ∧ rowsHit 0 64 4 32 256 = false
    ∧ rowsHit 256 (-64) 4 32 200 = true ∧ rowsHit 256 (-64) 4 32 230 = false ∧ rowsHit 256 (-64) 4 32 31 = false := by
  decide

end Sys2Proof.Machine.Tests
end

section
/-! SUPPORT. What a reset leaves (R203, R375, R437-R444). -/
namespace Sys2Proof.Machine

/-- What failed stacks that the self-test of a reset reports can change: which stacks are failed, and the events. -/
def StackOnly (s t : State) : Prop :=
  ∃ f e, t = { s with crown := { s.crown with failedStacks := f, events := e } }

namespace StackOnly

theorem refl (s : State) : StackOnly s s := ⟨_, _, rfl⟩

theorem trans {s t u : State} (h : StackOnly s t) (h' : StackOnly t u) : StackOnly s u := by
  obtain ⟨f, e, rfl⟩ := h
  obtain ⟨f', e', rfl⟩ := h'
  exact ⟨f', e', rfl⟩

theorem post (s : State) (e : Event) : StackOnly s (s.post e) := ⟨_, _, rfl⟩

theorem failStack (s : State) (k : Nat) : StackOnly s (s.failStack k) := by
  unfold State.failStack
  split
  · exact refl s
  · exact ⟨_, _, rfl⟩

theorem failStacks (ks : List Nat) (s : State) :
    StackOnly s (ks.foldl (fun t k => if k < 8 then t.failStack k else t) s) := by
  induction ks generalizing s with
  | nil => exact refl s
  | cons k ks ih =>
    refine trans ?_ (ih _)
    dsimp only
    split
    · exact failStack s k
    · exact refl s

end StackOnly

/-- The state of a package reset before its self-test reports failed stacks and too few spares (R439). -/
def State.resetCore (s : State) (r : ResetReport) : State :=
  let u := sparesAfter s.crown.nextSpares r
  { State.reset with
    schedule := s.schedule, fresh := s.fresh, nextId := s.nextId, hbm := s.hbm, hbmTag := s.hbmTag, noise := s.noise
    poison := s.poison, hostMem := s.hostMem, modMem := s.modMem, modTag := s.modTag, modPoison := s.modPoison
    heads := s.heads
    crown := {
      spares := u, nextSpares := u, ports := portsAfter u, hostWidth := hostWidth r.badHostLanes, sapling := r.strap
      unserviceable := tooFewSpares u, down := tooFewSpares u, wear := s.crown.wear, wearPosted := s.crown.wearPosted
      lostMods := s.crown.lostMods, lostHeads := s.crown.lostHeads, events := s.crown.events } }

theorem State.packageReset_stackOnly (s : State) (r : ResetReport) : StackOnly (s.resetCore r) (s.packageReset r) := by
  have h := StackOnly.failStacks r.badStacks (s.resetCore r)
  unfold State.packageReset
  dsimp only
  split
  · exact h.trans (StackOnly.post _ _)
  · exact h

/-- A package reset comes unless a thermal trip holds the package (R437, R444). -/
theorem execPackageReset_of_free {s : State} {r : ResetReport}
    (h : s.crown.down = false ∨ s.crown.unserviceable = true) :
    execPackageReset r s = .next (s.packageReset r) := by
  rcases h with h | h <;> simp [execPackageReset, h]

/-- A reset through the mailbox comes where the package is held in reset or takes commands (R444). -/
theorem execMailboxReset_of_ready {s : State} {v : Via} {r : ResetReport}
    (h : s.crown.down = true ∨ CommandReady s v false) : execMailboxReset v r s = .next (s.packageReset r) := by
  rcases h with h | ⟨hd, hv, hs⟩
  · simp [execMailboxReset, h]
  · have hs : s.crown.sapling = false := hs.resolve_left (by decide)
    simp [execMailboxReset, hd, hv, hs]

/-- A grove that nothing has used has every bank at its reset mode, with its noise at rest (R203). -/
theorem State.bank_of_no_groves {s : State} (h : s.groves = []) (g b : Nat) : (s.grove g).bank b = bankReset b := by
  simp [State.grove, h, Grove.bank]

/-- The grove SRAM reads zero after reset (R203). -/
theorem State.reset_sramByte (a : Nat) : State.reset.sramByte a = 0 := by
  have h : State.reset.sramNoise a = 0 := by
    simp only [State.sramNoise, State.bank_of_no_groves (s := State.reset) rfl]
    rfl
  simp only [State.sramByte, h, true_or, if_true]
  rfl

/-- Settles O54: the fields of the state after reset are read off its definition; a package reset differs from such a
state in the failed stacks and the events at most. -/
theorem resetLeavesTheStatedState : Obligations.ResetLeavesTheStatedState := by
  unfold Obligations.ResetLeavesTheStatedState
  refine ⟨?_, fun s v r => ⟨s.packageReset r, execPackageReset_of_free, execMailboxReset_of_ready, ?_⟩⟩
  · have hb (gr b : Nat) (_ : b < 16) :
        ((State.reset.grove gr).bank b).mode = if b < 8 then .scratch else .cache := by
      rw [State.bank_of_no_groves rfl]; rfl
    exact ⟨rfl, rfl, rfl, rfl, rfl, fun _ => rfl, rfl, rfl, rfl, rfl, rfl, fun _ => rfl, hb, State.reset_sramByte,
      State.reset_memWf, State.reset_partyOk⟩
  · obtain ⟨f, e, ht⟩ := s.packageReset_stackOnly r
    rw [ht]
    refine ⟨rfl, rfl, rfl, rfl, rfl, rfl, rfl, rfl, rfl, rfl, rfl, rfl, rfl, rfl, rfl, rfl, rfl, rfl, rfl, rfl, rfl,
      by simp only [State.resetCore], rfl, rfl, rfl, rfl, rfl, rfl, rfl, fun g b => ?_⟩
    rw [State.bank_of_no_groves rfl]
    exact ⟨rfl, rfl⟩

end Sys2Proof.Machine
end

section
/-! SUPPORT. Sparse maps whose records are changed in place, and folds that reach a property. -/
namespace Sys2Proof.Machine

/-! ## Records of a map -/

/-- Records of a map changed in place, each under its key. -/
theorem SMap.find?_map_keyed {β : Type} {F : Nat × β → Nat × β} (m : SMap β) (hF : ∀ e, (F e).1 = e.1) (k : Nat) :
    SMap.find? (m.map F) k = (SMap.find? m k).map (fun v => (F (k, v)).2) := by
  induction m with
  | nil => rfl
  | cons e m ih =>
    obtain ⟨n, v⟩ := e
    rw [List.map_cons, show F (n, v) = (n, (F (n, v)).2) from Prod.ext (hF (n, v)) rfl]
    simp only [SMap.find?]
    split
    · rename_i h; subst h; rfl
    · exact ih

theorem SMap.find?_map_values {β : Type} (f : β → β) (m : SMap β) (k : Nat) :
    SMap.find? (m.map (fun e => (e.1, f e.2))) k = (SMap.find? m k).map f :=
  SMap.find?_map_keyed (F := fun e => (e.1, f e.2)) m (fun _ => rfl) k

theorem SMap.mem_put {β : Type} {m : SMap β} {k : Nat} {x : β} {e : Nat × β} (h : e ∈ SMap.put m k x) :
    e = (k, x) ∨ e ∈ m := by
  refine (SMap.mem_insert h).imp_right fun h => ?_
  rw [SMap.erase_eq_filter] at h
  exact (List.mem_filter.mp h).1

theorem SMap.mem_of_find? {β : Type} {m : SMap β} {k : Nat} {v : β} (h : SMap.find? m k = some v) : (k, v) ∈ m := by
  induction m with
  | nil => cases h
  | cons e m ih =>
    obtain ⟨n, w⟩ := e
    simp only [SMap.find?] at h
    split at h
    · rename_i hn; subst hn; cases h; simp
    · exact List.mem_cons_of_mem _ (ih h)

/-! ## Folds that reach a property -/

/-- A fold one of whose steps brings a property about, which every step keeps, ends with it. -/
theorem foldl_reaches {α β : Type} (p : β → Prop) (f : β → α → β) {l : List α} {a : α} (ha : a ∈ l)
    (hf : ∀ b, p (f b a)) (hk : ∀ b x, p b → p (f b x)) (b : β) : p (l.foldl f b) := by
  induction l generalizing b with
  | nil => cases ha
  | cons x l ih =>
    rcases List.mem_cons.mp ha with rfl | h
    · exact foldl_keeps p f hk l _ (hf b)
    · exact ih h _

end Sys2Proof.Machine
end

section
/-! SUPPORT. What an access of a memory leaves as it is: partitions, work and the crown controller, and what stands in
the engines' queues. -/
namespace Sys2Proof.Machine

/-- The two states have the same partitions and work, the same crown controller and the same engine queues: at most
memories, copies of lines, translations and times differ. -/
structure WorkSame (s t : State) : Prop where
  cycle : t.cycle = s.cycle
  parts : t.parts = s.parts
  tasks : t.tasks = s.tasks
  clusters : t.clusters = s.clusters
  groups : t.groups = s.groups
  graphs : t.graphs = s.graphs
  roots : t.roots = s.roots
  migrations : t.migrations = s.migrations
  crown : t.crown = s.crown
  queues : ∀ gr, (t.grove gr).queues = (s.grove gr).queues

theorem State.grove_modGrove (s : State) (n gr : Nat) (f : Grove → Grove) :
    (s.modGrove n f).grove gr = if n = gr then f (s.grove gr) else s.grove gr := by
  by_cases h : n = gr
  · subst h; simp [State.grove, State.modGrove, State.putGrove]
  · simp [State.grove, State.modGrove, State.putGrove, SMap.find?_put, h]

namespace WorkSame

variable {s t u : State}

theorem refl (s : State) : WorkSame s s := ⟨rfl, rfl, rfl, rfl, rfl, rfl, rfl, rfl, rfl, fun _ => rfl⟩

theorem trans (h : WorkSame s t) (h' : WorkSame t u) : WorkSame s u where
  cycle := h'.cycle.trans h.cycle
  parts := h'.parts.trans h.parts
  tasks := h'.tasks.trans h.tasks
  clusters := h'.clusters.trans h.clusters
  groups := h'.groups.trans h.groups
  graphs := h'.graphs.trans h.graphs
  roots := h'.roots.trans h.roots
  migrations := h'.migrations.trans h.migrations
  crown := h'.crown.trans h.crown
  queues gr := (h'.queues gr).trans (h.queues gr)

theorem foldl {α : Type} (f : State → α → State) (hf : ∀ s a, WorkSame s (f s a)) (l : List α) (s : State) :
    WorkSame s (l.foldl f s) := by
  induction l generalizing s with
  | nil => exact refl _
  | cons a l ih => exact (hf s a).trans (ih _)

/-! ## Lines, copies and times -/

theorem setLine (s : State) (l : Nat) (x : LineTs) : WorkSame s (s.setLine l x) :=
  ⟨rfl, rfl, rfl, rfl, rfl, rfl, rfl, rfl, rfl, fun _ => rfl⟩

theorem modCore (s : State) (c : Nat) (f : Core → Core) : WorkSame s (s.modCore c f) :=
  ⟨rfl, rfl, rfl, rfl, rfl, rfl, rfl, rfl, rfl, fun _ => rfl⟩

theorem modDie (s : State) (d : Nat) (f : Die → Die) : WorkSame s (s.modDie d f) :=
  ⟨rfl, rfl, rfl, rfl, rfl, rfl, rfl, rfl, rfl, fun _ => rfl⟩

theorem modGrove (s : State) (n : Nat) {f : Grove → Grove} (hf : ∀ g, (f g).queues = g.queues) :
    WorkSame s (s.modGrove n f) :=
  ⟨rfl, rfl, rfl, rfl, rfl, rfl, rfl, rfl, rfl, fun gr => by
    rw [State.grove_modGrove]
    split
    · exact hf _
    · rfl⟩

theorem modBank (s : State) (g b : Nat) (f : Bank → Bank) : WorkSame s (s.modBank g b f) := modGrove s g fun _ => rfl

theorem newId (s : State) : WorkSame s s.newId.2 := ⟨rfl, rfl, rfl, rfl, rfl, rfl, rfl, rfl, rfl, fun _ => rfl⟩

theorem freeWord (s : State) : WorkSame s s.freeWord.2 := ⟨rfl, rfl, rfl, rfl, rfl, rfl, rfl, rfl, rfl, fun _ => rfl⟩

theorem setPts (s : State) (c : Nat) (x : Time) : WorkSame s (s.setPts c x) := by
  unfold State.setPts
  split
  · exact refl _
  · exact modCore _ _ _

theorem raisePts (s : State) (c : Nat) (x : Time) : WorkSame s (s.raisePts c x) := setPts _ _ _

theorem clearGrowStuck (s : State) (c : Nat) : WorkSame s (s.clearGrowStuck c) := by
  unfold State.clearGrowStuck
  split
  · exact modCore _ _ _
  · exact refl _

theorem recallLine (s : State) (l : Nat) : WorkSame s (s.recall l) := by
  have h (x : LineTs) (c : Nat) : WorkSame s ((s.setLine l x).undirty c l) := (setLine _ _ _).trans (modCore _ _ _)
  unfold State.recall; dsimp only
  split
  · exact refl _
  · split
    · exact (h _ _).trans (modGrove _ _ fun _ => rfl)
    · exact (h _ _).trans (modCore _ _ _)

theorem mergeLine (s : State) (l : Nat) : WorkSame s (s.mergeLine l) := by
  unfold State.mergeLine; dsimp only
  split
  · exact refl _
  · exact (setLine _ _ _).trans (foldl _ (fun s (h : Holder) => modCore s h.core _) _ _)

theorem bringHome (s : State) (l : Nat) : WorkSame s (s.bringHome l) := (mergeLine _ _).trans (recallLine _ _)

theorem touch (s : State) (a n : Nat) : WorkSame s (s.touch a n) := foldl _ (fun s l => bringHome s l) _ _

/-! ## Writes of the memories -/

theorem retag (k : Nat) (s : State) (sec : Nat) : WorkSame s (retag k s sec) := by
  unfold Machine.retag; dsimp only
  split
  · exact refl _
  · exact ⟨rfl, rfl, rfl, rfl, rfl, rfl, rfl, rfl, rfl, fun _ => rfl⟩

theorem hbmWrite (s : State) (k : Nat) (ws : List (Nat × Byte)) : WorkSame s (s.hbmWrite k ws) :=
  (foldl _ (fun s x => retag k s x) (sectors ws) s).trans
    ⟨rfl, rfl, rfl, rfl, rfl, rfl, rfl, rfl, rfl, fun _ => rfl⟩

theorem ownWrite (s : State) (k : Nat) (x : Time) (ws : List (Nat × Byte)) : WorkSame s (s.ownWrite k x ws).2 := by
  unfold State.ownWrite
  split
  · exact refl _
  · exact ((bringHome _ _).trans (setLine _ _ _)).trans (hbmWrite _ _ _)

theorem stntWrite (s : State) (k : Nat) (ws : List (Nat × Byte)) : WorkSame s (s.stntWrite k ws).2 := by
  unfold State.stntWrite
  split
  · exact refl _
  · exact ((bringHome _ _).trans (setLine _ _ _)).trans (hbmWrite _ _ _)

theorem homeStore (s : State) (k : Nat) (ws : List (Nat × Byte)) (x : Option Time) :
    WorkSame s (s.homeStore k ws x) := by
  unfold State.homeStore
  split
  · exact refl _
  · exact ownWrite _ _ _ _

theorem retagMod (k : Option Nat) (s : State) (sec : Nat) : WorkSame s (retagMod k s sec) := by
  unfold Machine.retagMod; dsimp only
  split
  · exact refl _
  · exact ⟨rfl, rfl, rfl, rfl, rfl, rfl, rfl, rfl, rfl, fun _ => rfl⟩

theorem modWrite (s : State) (m : Nat) (k : Option Nat) (ws : List (Nat × Byte)) : WorkSame s (s.modWrite m k ws) :=
  (foldl _ (fun s x => retagMod k s x) _ s).trans ⟨rfl, rfl, rfl, rfl, rfl, rfl, rfl, rfl, rfl, fun _ => rfl⟩

theorem hostWrite (s : State) (ws : List (Nat × Byte)) : WorkSame s (s.hostWrite ws) :=
  ⟨rfl, rfl, rfl, rfl, rfl, rfl, rfl, rfl, rfl, fun _ => rfl⟩

/-! ## The device's own accesses (R20) -/

theorem devStore (s : State) (part : Nat) (ptr w : Word) (x : Option Time) : WorkSame s (s.devStore part ptr w x) := by
  unfold State.devStore
  split
  · exact refl _
  · split
    · exact refl _
    · exact homeStore _ _ _ _

theorem devMod (s : State) (part : Nat) (ptr : Word) (f : Word → Word) (x : Option Time) :
    WorkSame s (s.devMod part ptr f x) := by
  unfold State.devMod
  split
  · exact refl _
  · exact devStore _ _ _ _ _

theorem touchDir (s : State) (p : Part) (obj : Nat) : WorkSame s (s.touchDir p obj) := by
  unfold State.touchDir
  split
  · split
    · exact touch _ _ _
    · exact refl _
  · exact refl _

theorem pageAt (s : State) (die : Nat) (p : Part) (obj : Nat) (d : Desc) (page : Nat) (wr : Bool) :
    WorkSame s (s.pageAt die p obj d page wr).2 := by
  unfold State.pageAt
  split
  · exact refl _
  · dsimp only
    split
    · exact refl _
    · split
      · dsimp only
        exact (touch _ _ _).trans (modDie _ _ _)
      · exact touch _ _ _

theorem translate (s : State) (die : Nat) (p : Part) (obj : Nat) (d : Desc) (off : Nat) (wr : Bool) :
    WorkSame s (s.translate die p obj d off wr).2 := by
  unfold State.translate
  split
  · exact refl _
  · have h := pageAt s die p obj d (off / 65536) wr
    dsimp only
    split <;> (rename_i e; rw [e] at h; exact h)

theorem devWalk (s : State) (part : Nat) (ptr : Word) : WorkSame s (s.devWalk part ptr) := by
  unfold State.devWalk
  split
  · exact refl _
  · dsimp only
    split
    · exact touchDir _ _ _
    · exact (touchDir _ _ _).trans (translate _ _ _ _ _ _ _)

theorem devTouch (s : State) (part : Nat) (ptr : Word) : WorkSame s (s.devTouch part ptr) := by
  unfold State.devTouch; dsimp only
  split
  · exact devWalk _ _ _
  · exact (devWalk _ _ _).trans (touch _ _ _)

theorem touchChain (s : State) (part : Nat) (rcb : Word) : WorkSame s (s.touchChain part rcb) :=
  foldl _ (fun s r => foldl _ (fun s i => devTouch s part (r + BitVec.ofNat 64 (128 * i))) _ s) _ s

/-! ## Records in memory: charges, counts, states of descriptors and nodes -/

theorem chargeLevel (s : State) (part : Nat) (c : Charge) (up : Bool) (r : Word) :
    WorkSame s (s.chargeLevel part c up r) :=
  ((devMod _ _ _ _ _).trans (devMod _ _ _ _ _)).trans (devMod _ _ _ _ _)

theorem chargeAt (s : State) (part : Nat) (path : List Word) (c : Charge) : WorkSame s (s.chargeAt part path c) := by
  unfold State.chargeAt
  split
  · exact refl _
  · exact foldl _ (fun s r => chargeLevel s part c true r) _ _

theorem reclaimAt (s : State) (part : Nat) (path : List Word) (c : Charge) :
    WorkSame s (s.reclaimAt part path c) := by
  unfold State.reclaimAt
  split
  · exact refl _
  · exact foldl _ (fun s r => chargeLevel s part c false r) _ _

theorem setTaskState (s : State) (part : Nat) (desc : Word) (v : Nat) (x : Option Time) :
    WorkSame s (s.setTaskState part desc v x) := devMod _ _ _ _ _

theorem countUp (s : State) (part : Nat) (path : List Word) (off : Nat) (high : Bool) (x : Option Time) :
    WorkSame s (s.countUp part path off high x) := foldl _ (fun s _ => devMod s _ _ _ _) _ _

theorem graphMod (s : State) (g : Graph) (off : Nat) (f : Nat → Nat) : WorkSame s (s.graphMod g off f) :=
  devMod _ _ _ _ _

theorem setNodeState (s : State) (g : Graph) (i v : Nat) : WorkSame s (s.setNodeState g i v) := graphMod _ _ _ _

theorem stntPerform (s : State) (part : Nat) (x : Stnt) (rest : List Stnt) :
    WorkSame s (s.stntPerform part x rest).2 := by
  unfold State.stntPerform; dsimp only
  split
  · exact (stntWrite s (s.keyOf part) x.bytes).trans
      ⟨rfl, rfl, rfl, rfl, rfl, rfl, rfl, rfl, rfl, fun _ => rfl⟩
  · exact stntWrite _ _ _

theorem stntAll (part : Nat) (l : List Stnt) (s : State) : WorkSame s (State.stntAll part l s).2 := by
  induction l generalizing s with
  | nil => exact refl _
  | cons x r ih => exact (stntPerform s part x r).trans (ih _)

theorem performStnts (s : State) (g : Group) : WorkSame s (s.performStnts g) := stntAll _ _ _

/-! ## Groves that change hands (R203) -/

theorem flushBank (s : State) (g b : Nat) : WorkSame s (s.flushBank g b) := by
  unfold State.flushBank; dsimp only
  exact (foldl State.recall recallLine _ s).trans (modGrove _ _ fun _ => rfl)

theorem flushGrove (s : State) (g : Nat) : WorkSame s (s.flushGrove g) := foldl _ (fun s b => flushBank s g b) _ _

theorem zeroGrove (s : State) (gr : Nat) : WorkSame s (s.zeroGrove gr) :=
  ⟨rfl, rfl, rfl, rfl, rfl, rfl, rfl, rfl, rfl, (modGrove s gr (f := fun g => { g with
    banks := g.banks.map (fun b => (b.1, { bankReset b.1 with bts := b.2.bts })), copies := [] }) fun _ => rfl).queues⟩

theorem claimGrove (s : State) (part gr : Nat) : WorkSame s (s.claimGrove part gr) := by
  have h (bs : List Nat) : WorkSame s ((bs.foldl
      (fun (s : State) b => s.modBank gr b (fun x => { x with mode := .scratch }))
      ((s.flushGrove gr).zeroGrove gr)).modGrove gr (fun g => { g with turned := [] })) :=
    (((flushGrove s gr).trans (zeroGrove _ gr)).trans (foldl _ (fun s b => modBank s gr b _) bs _)).trans
      (modGrove _ gr fun _ => rfl)
  unfold State.claimGrove; dsimp only
  split
  · split
    · exact modGrove _ gr fun _ => rfl
    · exact (h _).trans (modGrove _ gr fun _ => rfl)
  · exact modGrove _ gr fun _ => rfl

end WorkSame

end Sys2Proof.Machine
end

section
/-! SUPPORT. Placement (R28, R31, R191-R193): what an attempt takes, and what a commit leaves. -/
namespace Sys2Proof.Machine

/-! ## Attempts with no rival -/

theorem State.noHolds_of_none {s : State} (h : ∀ e ∈ s.clusters, e.2.hold = none) : s.noHolds = s := by
  have he : s.clusters.map (fun e => (e.1, { e.2 with hold := none })) = s.clusters.map id :=
    List.map_congr_left fun e he => Prod.ext rfl (by
      show { e.2 with hold := none } = e.2
      rw [← h e he])
  simp [State.noHolds, he]

theorem State.holdTags_of_none {s : State} (h : ∀ e ∈ s.clusters, e.2.hold = none) (tid : Nat) :
    s.holdTags tid = [] := by
  simp only [State.holdTags, State.clustersOf, List.flatMap_eq_nil_iff, List.mem_filter]
  rintro e ⟨he, -⟩
  simp [h e he]

theorem State.rivals_of_none {s : State} (h : ∀ e ∈ s.clusters, e.2.hold = none) : s.rivals = [] := by
  simp only [State.rivals, List.filterMap_eq_nil_iff]
  intro e he
  simp [h e he]

/-- With no rival, nobody must lose so that the holds succeed (R192). -/
theorem State.losers_of_none {s : State} (h : ∀ e ∈ s.clusters, e.2.hold = none) (me : PRank)
    {hold : State → Option State} {u : State} (hu : hold s = some u) : s.losers me hold = some [] := by
  simp [State.losers, s.rivals_of_none h, hu]

/-- The device's choice for a reservation is legal, and the tags that it wants are free (R27, R226). -/
structure LegalChoice (s : State) (a : PlaceArg) (t : Task) (want : Nat) : Prop where
  cores : (s.reservation a.tid t a.cluster).length = a.cores.length
  sets : ∀ c ∈ a.cores, c ∈ coreSets t.shape
  count : a.tags.length = want
  distinct : a.tags.eraseDups.length = want
  free : ∀ i ∈ a.tags, i ∈ s.freeTags
  enough : want ≤ s.freeTags.length

/-- An attempt at the reservation that is offered next, where nothing holds: every hold is taken, or banks are converted
(R204) and the reservation backs off where no choice of cores would do (R191, R192). -/
theorem State.placeHolds_unrivalled {s : State} {a : PlaceArg} {o : Offer} {t : Task} {p : Part}
    (ho : s.nextOffer = some o) (hme : o.tid = a.tid ∧ o.idx = a.cluster)
    (ht : SMap.find? s.tasks a.tid = some t) (hp : SMap.find? s.parts t.part = some p) (hf : placeFails t = false)
    (hn : ∀ e ∈ (s.createClusters a.tid t a.cluster).clusters, e.2.hold = none)
    (hl : LegalChoice (s.createClusters a.tid t a.cluster) a t (if t.bound.isEmpty then t.tags else 0)) :
    let s1 := s.createClusters a.tid t a.cluster
    let cs := s1.reservation a.tid t a.cluster
    (∀ u, s1.holdAll p t cs a.cores a.tags = some u → s.placeHolds a = u)
    ∧ (s1.holdAll p t cs a.cores a.tags = none → s1.someSets p t cs a.tags = false →
      s.placeHolds a = (s1.convertShort t cs a.cores).backOff ((cs.head?.map (·.1)).getD 0)) := by
  intro s1 cs
  obtain ⟨hlen, hcs, htl, htd, htf, hfl⟩ := hl
  have htags : a.tags.any (fun i => !s1.freeTags.contains i) = false := by
    simpa [List.any_eq_false] using htf
  have hlegal : (cs.length == a.cores.length && a.cores.all (fun c => (coreSets t.shape).contains c)) = true := by
    simpa [cs, s1, hlen] using hcs
  unfold State.placeHolds
  simp only [ho, ht, hp, hme.1, hme.2, ne_eq, not_true_eq_false, or_self, if_false, hf, Bool.and_false,
    Bool.false_eq_true]
  rw [show s.createClusters a.tid t a.cluster = s1 from rfl] at *
  simp only [s1.holdTags_of_none hn, s1.noHolds_of_none hn, List.isEmpty_nil, Bool.and_true, Bool.not_true,
    Bool.and_false]
  rw [show s1.reservation a.tid t a.cluster = cs from rfl] at *
  simp only [hlegal, Nat.not_lt.mpr hfl, htl, htd, htags, bne_self_eq_false, Bool.or_self, Bool.not_true,
    Bool.false_eq_true, if_false]
  refine ⟨fun u hu => ?_, fun hu hs => ?_⟩
  · simp [State.losers_of_none hn o.rank (hold := fun s => s.holdAll p t cs a.cores a.tags) hu, hu]
  · simp [hu, hs]

/-! ## Holds of one cluster (R191) -/

theorem State.pickUnits_length {s : State} {part scr : Nat} {banks : List (Nat × Nat)} {cores : List Nat}
    {mine : List (Nat × Nat)} {us : List (List Nat)} (h : s.pickUnits part scr banks cores mine = some us) :
    us.length = cores.length := by
  induction cores generalizing mine us with
  | nil => simp only [State.pickUnits, Option.some.injEq] at h; simp [← h]
  | cons c r ih =>
    simp only [State.pickUnits] at h
    split at h
    · cases h
    · obtain ⟨vs, hv, rfl⟩ := Option.map_eq_some_iff.mp h
      simp [ih hv]

/-- A hold of a cluster that was never admitted names its cores, with units and a slice mark for each. -/
theorem State.holdOne_some {s : State} {t : Task} {cid lead : Nat} {c : Cluster} {cores : List Nat} {h : Hold}
    (hh : s.holdOne t cid c cores lead = some h) (hc : c.st = .waiting) :
    h.cores = cores ∧ h.units.length = cores.length ∧ h.slices.length = shapeWgs t.shape := by
  unfold State.holdOne at hh
  dsimp only at hh
  split at hh
  · cases hh
  · split at hh
    · cases hh
    · split at hh
      · rename_i hu
        cases hh
        exact ⟨rfl, State.pickUnits_length hu, by simp [State.needs, hc]⟩
      · cases hh

/-- The holds of a reservation of one cluster: the cluster's hold changes and nothing else. -/
theorem State.holdAll_single {s s2 : State} {p : Part} {t : Task} {cid : Nat} {c : Cluster} {cores tags : List Nat}
    (h : s.holdAll p t [(cid, c)] [cores] tags = some s2) :
    ∃ hd f, s.holdOne t cid c cores cid = some hd
      ∧ s2 = (s.modCluster cid (fun c => { c with hold := some hd })).modCluster cid
        (fun c => { c with hold := c.hold.map f })
      ∧ (f hd).cores = hd.cores ∧ (f hd).units = hd.units ∧ (f hd).slices = hd.slices := by
  unfold State.holdAll at h
  dsimp only at h
  split at h
  · cases h
  · obtain ⟨u, hu, rfl⟩ := Option.map_eq_some_iff.mp h
    simp only [List.zip_cons_cons, List.zip_nil_left, State.holdEach, List.head?_cons, Option.map_some,
      Option.getD_some] at hu
    split at hu
    · cases hu
    · rename_i hd hhd
      cases hu
      exact ⟨hd, _, hhd, rfl, rfl, rfl, rfl⟩

/-! ## Groups that start (R31) -/

/-- A group stands as R31 starts it. -/
def Group.startsFor (t : Task) (g : Group) : Prop :=
  g.pc = t.stemEntry ∧ g.areg 0 = t.args ∧ g.areg 1 = localPtr g.frame ∧ g.chunks = t.chm1 + 1

/-- Every group of a cluster stands as R31 starts it. -/
def State.AllStart (s : State) (t : Task) (cid : Nat) : Prop := ∀ e ∈ s.groups, e.2.cid = cid → e.2.startsFor t

/-- Two address registers written, and what their writes leave; stated for any words, for the kernel evaluates the write
of a known word. -/
theorem Group.setA_two (g : Group) (w x : Word) : let h := (g.setA 0 w).setA 1 x
    h.pc = g.pc ∧ h.areg 0 = w ∧ h.areg 1 = x ∧ h.frame = g.frame ∧ h.chunks = g.chunks :=
  ⟨rfl, by simp [Group.setA, Group.areg, SMap.get_set], by simp [Group.setA, Group.areg], rfl, rfl⟩

theorem Group.startsFor_args {t : Task} {g : Group} {k : Nat} (hpc : g.pc = t.stemEntry) (hk : g.frame = k)
    (hch : g.chunks = t.chm1 + 1) : ((g.setA 0 t.args).setA 1 (localPtr k)).startsFor t := by
  obtain ⟨h1, h2, h3, h4, h5⟩ := g.setA_two t.args (localPtr k)
  exact ⟨h1.trans hpc, h2, h3.trans (by rw [h4, hk]), h5.trans hch⟩

theorem Group.startsFor.seat {t : Task} {g : Group} (h : g.startsFor t) (s : State) (core lane : Nat) :
    (s.seat core lane g).startsFor t := h

theorem Group.startsFor.wslots {t : Task} {g : Group} (h : g.startsFor t) (w : SMap Nat) :
    Group.startsFor t { g with wslots := w } := h

theorem State.AllStart.putGroup {s : State} {t : Task} {cid n : Nat} {g : Group} (h : s.AllStart t cid)
    (hg : g.startsFor t) : (s.putGroup n g).AllStart t cid := by
  intro e he hc
  rcases SMap.mem_put he with rfl | he
  · exact hg
  · exact h e he hc

theorem State.AllStart.startGroup {s : State} {t : Task} {cid : Nat} (h : s.AllStart t cid)
    (tid wg idx core lane : Nat) : (s.startGroup t tid cid wg idx core lane).AllStart t cid := by
  unfold State.startGroup
  split
  · exact h
  · have hn : s.newId.2.AllStart t cid := h
    dsimp only
    split
    · exact hn.putGroup ((Group.startsFor_args rfl rfl rfl).seat _ _ _)
    · exact hn.putGroup (((Group.startsFor_args rfl rfl rfl).seat _ _ _).wslots _)

theorem State.startGroup_clusters (s : State) (t : Task) (tid cid wg idx core lane : Nat) :
    (s.startGroup t tid cid wg idx core lane).clusters = s.clusters := by
  unfold State.startGroup
  split
  · rfl
  · dsimp only
    split <;> rfl

/-! ## The commit of one new cluster (R28, R31, R191) -/

theorem State.AllStart.startCluster {s : State} {t : Task} {cid : Nat} (h : s.AllStart t cid) (tid : Nat) (hd : Hold) :
    (s.startCluster t tid cid hd).AllStart t cid :=
  foldl_keeps (fun s : State => s.AllStart t cid) _ (fun _ _ hs =>
    foldl_keeps (fun s : State => s.AllStart t cid) _ (fun _ _ hs =>
      State.AllStart.startGroup hs _ _ _ _ _) _ _ hs) _ _ h

theorem State.startCluster_clusters (s : State) (t : Task) (tid cid : Nat) (hd : Hold) :
    (s.startCluster t tid cid hd).clusters = SMap.mod s.clusters cid (fun c => { c with
      wgs := (hd.cores.zip (hd.units.zip hd.slices)).map (fun x =>
        { core := some x.1, units := x.2.1, slice := x.2.2 }) }) :=
  foldl_same State.clusters _ (fun _ _ =>
    foldl_same State.clusters _ (fun _ _ => State.startGroup_clusters _ _ _ _ _ _ _ _) _ _) _ _

/-- The workgroups of a cluster that starts stand on the hold's cores, one on each. -/
theorem Hold.startCores {hd : Hold} (hu : hd.units.length = hd.cores.length) (hs : hd.slices.length = hd.cores.length) :
    ((hd.cores.zip (hd.units.zip hd.slices)).map (fun x =>
      ({ core := some x.1, units := x.2.1, slice := x.2.2 } : Wg))).map (·.core) = hd.cores.map some := by
  rw [List.map_map, show ((·.core) ∘ fun x : Nat × List Nat × Bool =>
    ({ core := some x.1, units := x.2.1, slice := x.2.2 } : Wg)) = some ∘ Prod.fst from rfl, ← List.map_map,
    List.map_fst_zip (by simp [hu, hs])]

/-- A cluster has become resident on some cores, and its groups stand as R31 starts them. -/
def State.ClusterStarted (s : State) (t : Task) (cid : Nat) (cores : List Nat) : Prop :=
  s.AllStart t cid ∧ ∃ y, SMap.find? s.clusters cid = some y ∧ y.st = .resident ∧ y.hold = none
    ∧ y.wgs.map (·.core) = cores.map some

theorem WorkSame.clusterStarted {s u : State} {t : Task} {cid : Nat} {cores : List Nat} (h : WorkSame s u)
    (hs : s.ClusterStarted t cid cores) : u.ClusterStarted t cid cores := by
  obtain ⟨ha, hy⟩ := hs
  exact ⟨fun e he => ha e (h.groups ▸ he), by rw [h.clusters]; exact hy⟩

/-- A cluster that was never admitted becomes resident on its hold's cores, its groups at the task's entry. -/
theorem State.seatCluster_waiting {s : State} {t : Task} {cid : Nat} {c : Cluster} {hd : Hold} (tid : Nat)
    (hc : SMap.find? s.clusters cid = some c) (hw : c.st = .waiting) (hu : hd.units.length = hd.cores.length)
    (hs : hd.slices.length = hd.cores.length) (ha : s.AllStart t cid) :
    (s.seatCluster tid t cid hd).ClusterStarted t cid hd.cores := by
  have hne : ¬ c.st = .saved := by simp [hw]
  have h1 := WorkSame.foldl (fun s gr => s.claimGrove t.part gr)
    (fun s gr => WorkSame.claimGrove s t.part gr) (grovesOf hd.cores) s
  have h2 := h1.trans (WorkSame.foldl (fun s k => (s.raisePts k t.pts).clearGrowStuck k)
    (fun s k => (WorkSame.raisePts s k t.pts).trans (WorkSame.clearGrowStuck _ k)) hd.cores _)
  have h3 := h2.trans (WorkSame.newId _)
  unfold State.seatCluster
  simp only [hc, hne, if_false]
  refine ⟨?_, ?_⟩
  · refine State.AllStart.startCluster ?_ tid hd
    intro e he
    exact ha e (h3.groups ▸ he)
  · simp only [State.noteParked, State.modCluster_clusters, State.startCluster_clusters, SMap.find?_mod,
      if_true, h3.clusters, hc, Option.map_some]
    exact ⟨_, rfl, rfl, rfl, Hold.startCores hu hs⟩

/-- The one cluster of a task that holds is found by its CLUSTER, and its reservation is it alone. -/
theorem State.holders_of_single {s : State} {tid cid idx : Nat} {c : Cluster} {h : Hold}
    (hf : (s.clustersOf tid).filter (fun e => e.2.hold.isSome) = [(cid, c)]) (hidx : c.idx = idx) (hh : c.hold = some h)
    (hl : h.lead = cid) :
    (s.clustersOf tid).find? (fun e => e.2.idx == idx && e.2.hold.isSome) = some (cid, c)
      ∧ (s.clustersOf tid).filter (fun e => (e.2.hold.map (·.lead)) == some cid) = [(cid, c)]
      ∧ s.holdTags tid = h.tags := by
  refine ⟨?_, ?_, ?_⟩
  · rw [← List.head?_filter, ← List.filter_filter, hf]
    simp [hidx]
  · calc (s.clustersOf tid).filter (fun e => (e.2.hold.map (·.lead)) == some cid)
      _ = ((s.clustersOf tid).filter (fun e => e.2.hold.isSome)).filter
            (fun e => (e.2.hold.map (·.lead)) == some cid) := by
          rw [List.filter_filter]
          refine List.filter_congr fun e _ => ?_
          cases e.2.hold <;> simp
      _ = [(cid, c)] := by simp [hf, hh, hl]
  · have hn (l : List (Nat × Cluster)) : l.flatMap (fun e => (e.2.hold.map (·.tags)).getD [])
        = (l.filter (fun e => e.2.hold.isSome)).flatMap (fun e => (e.2.hold.map (·.tags)).getD []) := by
      induction l with
      | nil => rfl
      | cons e l ih => cases he : e.2.hold <;> simp [he, ih]
    rw [State.holdTags, hn, hf]
    simp [hh]

theorem State.find?_dropHolds (s : State) (lead cid : Nat) :
    SMap.find? (s.dropHolds lead).clusters cid = (SMap.find? s.clusters cid).map (fun c => { c with
      hold := match c.hold with
        | some h => if h.lead = lead then none else some h
        | none => none }) :=
  SMap.find?_map_values (fun c : Cluster => { c with
      hold := match c.hold with
        | some h => if h.lead = lead then none else some h
        | none => none }) _ _

/-- What a reservation that commits is (R191): the one cluster of its task that holds, never admitted, within its 256
cycles. -/
structure Committing (s : State) (a : PlaceArg) (t : Task) (cid : Nat) (c : Cluster) (h : Hold) : Prop where
  alone : (s.clustersOf a.tid).filter (fun e => e.2.hold.isSome) = [(cid, c)]
  idx : c.idx = a.cluster
  hold : c.hold = some h
  lead : h.lead = cid
  cores : h.cores.length = shapeWgs t.shape
  found : SMap.find? s.clusters cid = some c
  waiting : c.st = .waiting
  within : s.cycle ≤ h.since + 256
  tags : t.bound = [] → t.tags ≤ h.tags.length

/-- The holds of the one cluster made again for its commit: the cluster and its hold's cores are as they were. -/
theorem Committing.held {s s1 s2 : State} {a : PlaceArg} {t : Task} {p : Part} {cid : Nat} {c x : Cluster} {h h2 : Hold}
    (hc : Committing s a t cid c h) (hs : s1.clusters = s.clusters)
    (ha : (s1.dropHolds cid).holdAll p t [(cid, c)] [h.cores] h.tags = some s2)
    (hx : SMap.find? s2.clusters cid = some x) (hh : x.hold = some h2) :
    x.st = .waiting ∧ h2.cores = h.cores ∧ h2.units.length = h2.cores.length ∧ h2.slices.length = h2.cores.length
      ∧ s2.groups = s1.groups := by
  obtain ⟨hd, f, hone, rfl, hfc, hfu, hfs⟩ := State.holdAll_single ha
  obtain ⟨hdc, hdu, hds⟩ := State.holdOne_some hone hc.waiting
  simp only [State.modCluster_clusters, SMap.find?_mod, if_true, State.find?_dropHolds, hs, hc.found, Option.map_some,
    Option.some.injEq] at hx
  subst hx
  cases hh
  exact ⟨hc.waiting, hfc.trans hdc, by rw [hfu, hfc, hdu, hdc], by rw [hfs, hfc, hds, hdc, hc.cores], rfl⟩

/-- A cluster as the commit of a task leaves its hold: the tags that it held are bound (R226). -/
def Cluster.tagsBound (tid : Nat) (c : Cluster) : Cluster :=
  if c.tid = tid then { c with hold := c.hold.map (fun h => { h with tags := [] }) } else c

theorem Cluster.tagsBound_st (tid : Nat) (c : Cluster) : (c.tagsBound tid).st = c.st := by
  unfold Cluster.tagsBound
  split <;> rfl

/-- A reservation of one new cluster that still can hold, and whose charge fits, is committed (R191, R31). -/
theorem State.commitHolds_single {s s2 : State} {a : PlaceArg} {t : Task} {p : Part} {cid : Nat} {c x : Cluster}
    {h h2 : Hold} (hc : Committing s a t cid c h) (ht : SMap.find? s.tasks a.tid = some t)
    (hp : SMap.find? s.parts t.part = some p)
    (heff : t.eff = (s.touchChain t.part t.rcb).resolve t.part t.rcb) (hf : placeFails t = false) :
    let s0 := s.touchChain t.part t.rcb
    let s1 := s0.modTask a.tid (fun x => { x with eff := s0.resolve t.part t.rcb })
    (s1.dropHolds cid).holdAll p t [(cid, c)] [h.cores] h.tags = some s2 → SMap.find? s2.clusters cid = some x →
    x.hold = some h2 →
    s1.fitsIn t.part t.eff.limits { t.charge.times 1 with tag := if t.tagsCharged then 0 else t.tags } = true →
    (∀ e ∈ s.groups, e.2.cid ≠ cid) → (s.commitHolds a).ClusterStarted t cid h.cores := by
  intro s0 s1 hall hx hh hfit hg
  have h0 : WorkSame s s0 := WorkSame.touchChain s t.part t.rcb
  obtain ⟨hfind, hcs, htags⟩ := State.holders_of_single hc.alone hc.idx hc.hold hc.lead
  obtain ⟨hxw, hcores, hu, hsl, hgr⟩ := hc.held (s1 := s1) h0.clusters hall hx hh
  have heff' : s0.resolve t.part t.rcb = t.eff := heff.symm
  have ht0 : { t with eff := s0.resolve t.part t.rcb } = t := by rw [← heff]
  have hcyc : s1.cycle ≤ h.since + 256 := h0.cycle ▸ hc.within
  have hnew : c.st ≠ .saved := by simp [hc.waiting]
  have htg : (t.bound.isEmpty && decide ((if t.bound.isEmpty = true then h.tags else []).length < t.tags)) = false := by
    cases hb : t.bound with
    | nil => simpa using hc.tags hb
    | cons => rfl
  have hnews : ([(cid, c)].filter (fun e => e.2.st != .saved)).length = 1 := by simp [hc.waiting]
  have hend (u : State) (hs : u.ClusterStarted t cid h.cores) : (if t.admitted = true then u
      else (u.setTaskState t.part t.desc 2).countUp t.part (t.eff.limits.map (·.1)) 0x80 true).ClusterStarted
        t cid h.cores := by
    split
    · exact hs
    · exact ((WorkSame.setTaskState _ _ _ _ _).trans (WorkSame.countUp _ _ _ _ _ _)).clusterStarted hs
  have hw := WorkSame.chargeAt s2 t.part (t.eff.limits.map (·.1))
    { t.charge.times 1 with tag := if t.tagsCharged then 0 else t.tags }
  unfold State.commitHolds
  simp only [ht, hp, hfind, hcs, htags]
  rw [show s.touchChain t.part t.rcb = s0 from rfl, ht0]
  simp only [List.filterMap_cons, List.filterMap_nil, hc.hold]
  rw [show s0.modTask a.tid (fun t_1 => { t_1 with eff := s0.resolve t.part t.rcb }) = s1 from rfl]
  simp only [Option.map_some, Option.getD_some, hc.lead, bne_self_eq_false, Bool.false_eq_true, if_false, hf,
    Bool.and_false, hcyc, decide_true, Bool.not_true, htg, List.map_cons, List.map_nil, hall, hnews, Nat.one_ne_zero,
    heff', hfit, hx, hh, Option.bind_some, List.foldl_cons, List.foldl_nil]
  refine hend _ (hcores ▸ State.seatCluster_waiting a.tid (c := x.tagsBound a.tid) ?_
    (x.tagsBound_st a.tid ▸ hxw) hu hsl ?_)
  · exact (SMap.find?_map_values (Cluster.tagsBound a.tid) _ cid).trans (by rw [hw.clusters, hx]; rfl)
  · intro e he hcid
    exact absurd hcid (hg e (h0.groups ▸ hgr ▸ hw.groups ▸ he))

theorem exec_placementAttempt (a : PlaceArg) (s : State) :
    exec (.placementAttempt a) s = .next (if a.commit then s.commitHolds a else s.placeHolds a) := rfl

/-- Settles O40: the attempt with no rival by `placeHolds_unrivalled`, the commit by `commitHolds_single`; the end of a
back-off changes the one cluster's time. -/
theorem placementHoldsCommitsAndBacksOff : Obligations.PlacementHoldsCommitsAndBacksOff := by
  unfold Obligations.PlacementHoldsCommitsAndBacksOff
  refine ⟨?_, ?_, ?_⟩
  · intro s a o t p hc ho htid hidx ht hp hf s1 cs want hn hlen hsets hcount hdist hfree henough
    obtain ⟨htake, hback⟩ := State.placeHolds_unrivalled ho ⟨htid, hidx⟩ ht hp hf hn
      ⟨hlen, hsets, hcount, hdist, hfree, henough⟩
    have hexec : exec (.placementAttempt a) s = .next (s.placeHolds a) := by
      simp only [exec_placementAttempt, hc, Bool.false_eq_true, if_false]
    exact ⟨fun u hu => hexec.trans (congrArg _ (htake u hu)),
      fun hnone hsome => hexec.trans (congrArg _ (hback hnone hsome))⟩
  · intro s s2 a t p cid c x h h2 hc ht hp s0 heff halone hidx hh hlead hcores hfound hw hf hwithin s1 hall hx hh2 htags
      hfit hg
    have hs := State.commitHolds_single ⟨halone, hidx, hh, hlead, hcores, hfound, hw, hwithin, htags⟩ ht hp heff hf
      hall hx hh2 hfit hg
    obtain ⟨hgroups, y, hy, hst, hhold, hwgs⟩ := hs
    exact ⟨_, y, by simp only [exec_placementAttempt, hc, if_true], hy, hst, hhold, hwgs, hgroups⟩
  · intro s cid c hc hr
    exact ⟨_, rfl, by simp [SMap.find?_mod, hc, hr]⟩

end Sys2Proof.Machine
end

section
/-! SUPPORT. What is killed goes and nothing comes (R83, R389, R409): which tasks, clusters and groups an operation of
the end of work may take away, and that no task, cluster, group, graph, root node or engine operation comes with it. -/
namespace Sys2Proof.Machine

/-! ## What there is -/

/-- A task is in flight. -/
def State.taskAt (s : State) (k : Nat) : Bool := (SMap.find? s.tasks k).isSome
/-- The task of a cluster that is there. -/
def State.clusterAt (s : State) (k : Nat) : Option Nat := (SMap.find? s.clusters k).map (·.tid)
/-- The partition and the cluster of a group that is there, and whether it is no host group. -/
def State.groupAt (s : State) (k : Nat) : Option (Nat × Nat × Bool) :=
  (SMap.find? s.groups k).map (fun g => (g.part, g.cid, g.host.isNone))
/-- The partition of a graph that runs. -/
def State.graphAt (s : State) (k : Nat) : Option Nat := (SMap.find? s.graphs k).map (·.part)

/-- From `s` to `t`, of tasks, clusters and groups only those may go that `T`, `C` and `G` name; graphs, root nodes and
entries of engine queues may go, and nothing comes. -/
structure Prunes (T C G : Nat → Prop) (s t : State) : Prop where
  tasks : ∀ k, t.taskAt k = s.taskAt k ∨ T k ∧ t.taskAt k = false
  clusters : ∀ k, t.clusterAt k = s.clusterAt k ∨ C k ∧ t.clusterAt k = none
  groups : ∀ k, t.groupAt k = s.groupAt k ∨ G k ∧ t.groupAt k = none
  graphs : ∀ k, t.graphAt k = s.graphAt k ∨ t.graphAt k = none
  roots : ∀ r ∈ t.roots, r ∈ s.roots
  queues : ∀ gr q x, x ∈ (t.grove gr).queue q → x ∈ (s.grove gr).queue q

/-- Nothing named. -/
abbrev Nobody : Nat → Prop := fun _ => False

namespace Prunes

variable {T C G T' C' G' : Nat → Prop} {s t u : State}

theorem refl (s : State) : Prunes T C G s s :=
  ⟨fun _ => .inl rfl, fun _ => .inl rfl, fun _ => .inl rfl, fun _ => .inl rfl, fun _ h => h, fun _ _ _ h => h⟩

theorem trans (h : Prunes T C G s t) (h' : Prunes T C G t u) : Prunes T C G s u where
  tasks k := (h'.tasks k).elim (fun e => e ▸ h.tasks k) .inr
  clusters k := (h'.clusters k).elim (fun e => e ▸ h.clusters k) .inr
  groups k := (h'.groups k).elim (fun e => e ▸ h.groups k) .inr
  graphs k := (h'.graphs k).elim (fun e => e ▸ h.graphs k) .inr
  roots r hr := h.roots r (h'.roots r hr)
  queues gr q x hx := h.queues gr q x (h'.queues gr q x hx)

theorem mono (h : Prunes T C G s t) (hT : ∀ k, T k → T' k) (hC : ∀ k, C k → C' k) (hG : ∀ k, G k → G' k) :
    Prunes T' C' G' s t where
  tasks k := (h.tasks k).imp_right (And.imp_left (hT k))
  clusters k := (h.clusters k).imp_right (And.imp_left (hC k))
  groups k := (h.groups k).imp_right (And.imp_left (hG k))
  graphs := h.graphs
  roots := h.roots
  queues := h.queues

/-- What takes nothing away takes no more than any. -/
theorem widen (h : Prunes Nobody Nobody Nobody s t) : Prunes T C G s t :=
  h.mono (fun _ => False.elim) (fun _ => False.elim) (fun _ => False.elim)

theorem foldl_mem {α : Type} (f : State → α → State) (l : List α) (hf : ∀ s, ∀ a ∈ l, Prunes T C G s (f s a))
    (s : State) : Prunes T C G s (l.foldl f s) := by
  induction l generalizing s with
  | nil => exact refl _
  | cons a l ih => exact (hf s a (by simp)).trans (ih (fun s b hb => hf s b (by simp [hb])) _)

theorem foldl {α : Type} (f : State → α → State) (hf : ∀ s a, Prunes T C G s (f s a)) (l : List α) (s : State) :
    Prunes T C G s (l.foldl f s) := foldl_mem f l (fun s a _ => hf s a) s

theorem taskAt_false (h : Prunes T C G s t) {k : Nat} (hs : s.taskAt k = false) : t.taskAt k = false :=
  (h.tasks k).elim (fun e => e.trans hs) And.right

theorem clusterAt_none (h : Prunes T C G s t) {k : Nat} (hs : s.clusterAt k = none) : t.clusterAt k = none :=
  (h.clusters k).elim (fun e => e.trans hs) And.right

theorem groupAt_none (h : Prunes T C G s t) {k : Nat} (hs : s.groupAt k = none) : t.groupAt k = none :=
  (h.groups k).elim (fun e => e.trans hs) And.right

theorem graphAt_none (h : Prunes T C G s t) {k : Nat} (hs : s.graphAt k = none) : t.graphAt k = none :=
  (h.graphs k).elim (fun e => e.trans hs) id

/-- The same work and the same queues, whatever else differs. -/
theorem of_same (h1 : t.tasks = s.tasks) (h2 : t.clusters = s.clusters) (h3 : t.groups = s.groups)
    (h4 : t.graphs = s.graphs) (h5 : t.roots = s.roots) (h6 : ∀ gr, (t.grove gr).queues = (s.grove gr).queues) :
    Prunes T C G s t where
  tasks k := .inl (by rw [State.taskAt, h1, State.taskAt])
  clusters k := .inl (by rw [State.clusterAt, h2, State.clusterAt])
  groups k := .inl (by rw [State.groupAt, h3, State.groupAt])
  graphs k := .inl (by rw [State.graphAt, h4, State.graphAt])
  roots r hr := h5 ▸ hr
  queues gr q x hx := by rw [Grove.queue, ← h6]; exact hx

theorem of_work (h : WorkSame s t) : Prunes T C G s t :=
  of_same h.tasks h.clusters h.groups h.graphs h.roots h.queues

/-! ## Records changed in place, records that go -/

theorem modPart (s : State) (n : Nat) (f : Part → Part) : Prunes T C G s (s.modPart n f) :=
  of_same rfl rfl rfl rfl rfl fun _ => rfl

theorem modCrown (s : State) (f : Crown → Crown) : Prunes T C G s (s.modCrown f) :=
  of_same rfl rfl rfl rfl rfl fun _ => rfl

theorem answer (s : State) (d : List Nat) : Prunes T C G s (s.answer d) := of_same rfl rfl rfl rfl rfl fun _ => rfl
theorem refuse (s : State) (c : Code) : Prunes T C G s (s.refuse c) := of_same rfl rfl rfl rfl rfl fun _ => rfl

theorem modTask (s : State) (n : Nat) (f : Task → Task) : Prunes T C G s (s.modTask n f) :=
  { refl (T := T) (C := C) (G := G) s with
    tasks := fun k => .inl (by
      simp only [State.taskAt, State.modTask, SMap.find?_mod]
      split
      · rename_i h; subst h; simp
      · rfl) }

theorem modCluster (s : State) (n : Nat) {f : Cluster → Cluster} (hf : ∀ c, (f c).tid = c.tid) :
    Prunes T C G s (s.modCluster n f) :=
  { refl (T := T) (C := C) (G := G) s with
    clusters := fun k => .inl (by
      simp only [State.clusterAt, State.modCluster, SMap.find?_mod]
      split
      · rename_i h; subst h; cases SMap.find? s.clusters n <;> simp [hf]
      · rfl) }

/-- A change of a group that leaves it in its partition, its cluster and its kind. -/
def GroupKept (f : Group → Group) : Prop :=
  ∀ g, (f g).part = g.part ∧ (f g).cid = g.cid ∧ (f g).host.isNone = g.host.isNone

theorem modGroup (s : State) (n : Nat) {f : Group → Group} (hf : GroupKept f) : Prunes T C G s (s.modGroup n f) :=
  { refl (T := T) (C := C) (G := G) s with
    groups := fun k => .inl (by
      simp only [State.groupAt, State.modGroup, SMap.find?_mod]
      split
      · rename_i h; subst h
        cases SMap.find? s.groups n with
        | none => rfl
        | some g => obtain ⟨h1, h2, h3⟩ := hf g; simp [h1, h2, h3]
      · rfl) }

theorem mapGroups {s t : State} {F : Nat × Group → Nat × Group} (h1 : t.tasks = s.tasks) (h2 : t.clusters = s.clusters)
    (h3 : t.groups = s.groups.map F) (h4 : t.graphs = s.graphs) (h5 : t.roots = s.roots) (h6 : t.groves = s.groves)
    (hF : ∀ e, (F e).1 = e.1 ∧ (F e).2.part = e.2.part ∧ (F e).2.cid = e.2.cid
      ∧ (F e).2.host.isNone = e.2.host.isNone) : Prunes T C G s t := by
  refine (of_same (t := { t with groups := s.groups }) h1 h2 rfl h4 h5 fun gr => ?_).trans
    { refl (T := T) (C := C) (G := G) { t with groups := s.groups } with groups := fun k => .inl ?_ }
  · simp only [State.grove, h6]
  · simp only [State.groupAt, h3, SMap.find?_map_keyed _ (fun e => (hF e).1), Option.map_map]
    exact Option.map_congr fun g _ => by simp [hF]

theorem mapGroves {s t : State} {F : Nat × Grove → Nat × Grove} (h1 : t.tasks = s.tasks) (h2 : t.clusters = s.clusters)
    (h3 : t.groups = s.groups) (h4 : t.graphs = s.graphs) (h5 : ∀ r ∈ t.roots, r ∈ s.roots)
    (h6 : t.groves = s.groves.map F)
    (hF : ∀ e, (F e).1 = e.1 ∧ ∀ q x, x ∈ (F e).2.queue q → x ∈ e.2.queue q) : Prunes T C G s t := by
  refine (of_same (t := { t with groves := s.groves, roots := s.roots }) h1 h2 h3 h4 rfl fun gr => rfl).trans
    { refl (T := T) (C := C) (G := G) { t with groves := s.groves, roots := s.roots } with
      roots := h5, queues := fun gr q x hx => ?_ }
  simp only [State.grove, h6, SMap.find?_map_keyed _ (fun e => (hF e).1)] at hx ⊢
  cases hg : SMap.find? s.groves gr with
  | none => simpa [hg] using hx
  | some g => simp only [hg, Option.map_some, Option.getD_some] at hx ⊢; exact (hF (gr, g)).2 q x hx

theorem eraseTask (s : State) (n : Nat) : Prunes (· = n) C G s { s with tasks := SMap.erase s.tasks n } :=
  { refl (T := (· = n)) (C := C) (G := G) s with
    tasks := fun k => by
      simp only [State.taskAt, SMap.find?_erase]
      split
      · rename_i h; exact .inr ⟨h.symm, rfl⟩
      · exact .inl rfl }

theorem eraseCluster (s : State) (n : Nat) : Prunes T (· = n) G s { s with clusters := SMap.erase s.clusters n } :=
  { refl (T := T) (C := (· = n)) (G := G) s with
    clusters := fun k => by
      simp only [State.clusterAt, SMap.find?_erase]
      split
      · rename_i h; exact .inr ⟨h.symm, rfl⟩
      · exact .inl rfl }

theorem eraseGroup (s : State) (n : Nat) (r : List (Nat × Nat × Nat × Nat × Nat)) :
    Prunes T C (· = n) s { s with groups := SMap.erase s.groups n, resvs := r } :=
  { refl (T := T) (C := C) (G := (· = n)) s with
    groups := fun k => by
      simp only [State.groupAt, SMap.find?_erase]
      split
      · rename_i h; exact .inr ⟨h.symm, rfl⟩
      · exact .inl rfl }

theorem eraseGraph (s : State) (n : Nat) : Prunes T C G s { s with graphs := SMap.erase s.graphs n } :=
  { refl (T := T) (C := C) (G := G) s with
    graphs := fun k => by
      simp only [State.graphAt, SMap.find?_erase]
      split
      · exact .inr rfl
      · exact .inl rfl }

end Prunes

end Sys2Proof.Machine
end

section
/-! SUPPORT. The operations of the end of work (R83, R389, R409), each with what it may take away. -/
namespace Sys2Proof.Machine

namespace Prunes

variable {T C G : Nat → Prop}

/-! ## Requests, streams, tags, images -/

theorem cancelWaiter (s : State) (part w : Nat) : Prunes T C G s (s.cancelWaiter part w) := modPart _ _ _

theorem reclaimAt (s : State) (part : Nat) (path : List Word) (c : Charge) :
    Prunes T C G s (s.reclaimAt part path c) := of_work (WorkSame.reclaimAt _ _ _ _)

theorem reapStream (s : State) (sid : Nat) : Prunes T C G s (s.reapStream sid) := by
  unfold State.reapStream
  split
  · exact refl _
  · split
    · refine trans ?_ (reclaimAt _ _ _ _)
      split <;> exact of_same rfl rfl rfl rfl rfl fun _ => rfl
    · exact refl _

theorem unbindAll (s : State) (gid : Nat) (drop : Bool) : Prunes T C G s (s.unbindAll gid drop) := by
  unfold State.unbindAll
  dsimp only
  refine trans ?_ (foldl _ (fun s e => ?_) _ _)
  · exact of_same rfl rfl rfl rfl rfl fun _ => rfl
  · refine trans ?_ (reapStream _ _)
    exact of_same rfl rfl rfl rfl rfl fun _ => rfl

theorem passTags (s : State) (tid : Nat) (tags : List Nat) : Prunes T C G s (s.passTags tid tags) := by
  unfold State.passTags
  split
  · exact refl _
  · exact modCluster _ _ fun _ => rfl

theorem unbindTags (s : State) (tid : Nat) : Prunes T C G s (s.unbindTags tid) := by
  unfold State.unbindTags
  split
  · exact refl _
  · split
    · exact refl _
    · refine trans (trans ?_ (modTask _ _ _)) (passTags _ _ _)
      split
      · exact reclaimAt _ _ _ _
      · exact refl _

theorem dropFifos (s : State) (cid part : Nat) (path : List Word) : Prunes T C G s (s.dropFifos cid part path) :=
  (foldl _ (fun s (gb : Nat × Nat) => of_work (WorkSame.modBank s gb.1 gb.2 _)) _ _).trans (reclaimAt _ _ _ _)

theorem freeImage (s : State) (c : Cluster) : Prunes T C G s (s.freeImage c) := by
  unfold State.freeImage
  split
  · exact of_work (WorkSame.modDie _ _ _)
  · split
    · exact modPart _ _ _
    · exact refl _
  · exact refl _

theorem reopen (s : State) (part : Nat) (r : Word) : Prunes T C G s (s.reopen part r) := by
  unfold State.reopen
  dsimp only
  refine trans (modPart s part _) (mapGroups rfl rfl rfl rfl rfl rfl fun e => ⟨rfl, rfl, rfl, ?_⟩)
  simp

theorem answerPreempts (s : State) (part : Nat) : Prunes T C G s (s.answerPreempts part) := by
  unfold State.answerPreempts
  split
  · exact refl _
  · refine foldl _ (fun s x => ?_) _ _
    refine trans ?_ (answer _ _)
    split
    · exact (modPart _ _ _).trans (modPart _ _ _)
    · exact (modPart _ _ _).trans (reopen _ _ _)

theorem answerInvs (s : State) (part : Nat) : Prunes T C G s (s.answerInvs part) := by
  unfold State.answerInvs
  split
  · exact refl _
  · split
    · exact refl _
    · exact (modPart _ _ _).trans (foldl _ (fun s _ => answer s _) _ _)

/-! ## Groups that leave (R83) -/

theorem flushBusy (s : State) (gid : Nat) : Prunes T C G s (s.flushBusy gid) := by
  unfold State.flushBusy
  split
  · exact refl _
  · split
    · exact refl _
    · exact (of_work (WorkSame.foldl _ (fun s _ => WorkSame.devMod s _ _ _ _) _ _)).trans
        (modGroup _ _ fun _ => ⟨rfl, rfl, rfl⟩)

theorem takeReads (s : State) (u : Group) (lo : Nat) : Prunes T C G s (s.takeReads u lo) := by
  unfold State.takeReads
  dsimp only
  refine mapGroups rfl rfl rfl rfl rfl rfl fun e => ?_
  split <;> exact ⟨rfl, rfl, rfl, rfl⟩

theorem dropGroup (s : State) (gid : Nat) (kill : Bool) : Prunes T C (· = gid) s (s.dropGroup gid kill) := by
  unfold State.dropGroup
  split
  · exact refl _
  · rename_i g _
    have h1 (u : State) : Prunes T C (· = gid) u (match g.core with
        | some c => u.clearGrowStuck c
        | none => u) := by
      split
      · exact of_work (WorkSame.clearGrowStuck _ _)
      · exact refl _
    have h2 (u : State) : Prunes T C (· = gid) u (match g.host with
        | none => (u.reclaimBy g { lreg := g.charged }).takeReads g 0
        | some _ => u) := by
      split
      · exact (reclaimAt _ _ _ _).trans (takeReads _ _ _)
      · exact refl _
    exact (((((flushBusy _ _).trans (unbindAll _ _ _)).trans (h1 _)).trans (h2 _)).trans (eraseGroup _ gid _)).trans
      (answerInvs _ _)

/-- A group that was dropped is gone. -/
theorem groupAt_dropGroup (s : State) (gid : Nat) (kill : Bool) : (s.dropGroup gid kill).groupAt gid = none := by
  unfold State.dropGroup
  split
  · rename_i h; simp [State.groupAt, h]
  · refine (answerInvs (T := Nobody) (C := Nobody) (G := Nobody) _ _).groupAt_none ?_
    simp [State.groupAt, SMap.find?_erase]

/-! ## Engine and matrix work -/

theorem queue_filter (g : Grove) (p : QEntry → Bool) (q : Nat) :
    Grove.queue { g with queues := g.queues.map (fun e => (e.1, e.2.filter p)) } q = (g.queue q).filter p := by
  simp only [Grove.queue, SMap.find?_map_values (fun l : List QEntry => l.filter p)]
  cases SMap.find? g.queues q <;> rfl

theorem dropEngineWork (s : State) (gs : List Nat) : Prunes T C G s (s.dropEngineWork gs) := by
  unfold State.dropEngineWork
  refine mapGroves rfl rfl rfl rfl (fun _ h => h) rfl fun e => ⟨rfl, fun q x hx => ?_⟩
  rw [queue_filter] at hx
  exact (List.mem_filter.mp hx).1

theorem dropMatrixWork (s : State) (gs : List Nat) : Prunes T C G s (s.dropMatrixWork gs) := by
  unfold State.dropMatrixWork
  exact mapGroves rfl rfl rfl rfl (fun _ h => h) rfl fun e => ⟨rfl, fun q x hx => hx⟩

theorem dropFifoReqs (s : State) (gs : List Nat) : Prunes T C G s (s.dropFifoReqs gs) := by
  unfold State.dropFifoReqs
  exact mapGroves rfl rfl rfl rfl (fun _ h => h) rfl fun e => ⟨rfl, fun q x hx => hx⟩

theorem dropBuds (s : State) (gs : List Nat) : Prunes T C G s (s.dropBuds gs) :=
  of_same rfl rfl rfl rfl rfl fun _ => rfl

/-! ## Barriers -/

theorem barCheckAll (s : State) (tid : Nat) : Prunes T C G s (s.barCheckAll tid) := by
  refine foldl _ (fun s t => ?_) _ _
  unfold State.barCheck
  dsimp only
  split
  · refine foldl _ (fun s e => ?_) _ _
    exact modGroup _ _ fun _ => ⟨rfl, rfl, rfl⟩
  · exact refl _

/-! ## Clusters and tasks that leave (R14, R26, R409) -/

theorem dropCluster (s : State) (cid : Nat) : Prunes T (· = cid) G s (s.dropCluster cid) := by
  unfold State.dropCluster
  split
  · exact refl _
  · split
    · exact eraseCluster _ _
    · dsimp only
      refine trans (trans (trans ?_ (eraseCluster _ cid)) (unbindTags _ _)) (answerPreempts _ _)
      split
      · exact ((dropFifos _ _ _ _).trans (freeImage _ _)).trans (reclaimAt _ _ _ _)
      · exact (dropFifos _ _ _ _).trans (freeImage _ _)

theorem wakeRanges (s : State) : Prunes T C G s s.wakeRanges :=
  foldl _ (fun _ _ => (of_work (WorkSame.setTaskState _ _ _ _ _)).trans (modTask _ _ _)) _ _

theorem dropTask (s : State) (tid : Nat) : Prunes (· = tid) C G s (s.dropTask tid) :=
  (eraseTask s tid).trans (wakeRanges _)

theorem graphStuck (s : State) (gn : Nat) : Prunes T C G s (s.graphStuck gn) := by
  unfold State.graphStuck
  split
  · exact refl _
  · dsimp only
    split
    · exact (of_work (WorkSame.graphMod _ _ _ _)).trans (eraseGraph _ gn)
    · exact refl _

theorem nodeFault (s : State) (gn i : Nat) : Prunes T C G s (s.nodeFault gn i) := by
  unfold State.nodeFault
  split
  · exact refl _
  · exact ((of_work (WorkSame.setNodeState _ _ _ _)).trans
      (of_work (WorkSame.foldl _ (fun _ _ => WorkSame.setNodeState _ _ _ _) _ _))).trans (graphStuck _ _)

/-- A cluster that was dropped is gone. -/
theorem clusterAt_dropCluster (s : State) (cid : Nat) : (s.dropCluster cid).clusterAt cid = none := by
  unfold State.dropCluster
  split
  · rename_i h; simp [State.clusterAt, h]
  · split
    · simp [State.clusterAt, SMap.find?_erase]
    · dsimp only
      have h (u : State) (n p : Nat) (hu : u.clusterAt cid = none) :
          ((u.unbindTags n).answerPreempts p).clusterAt cid = none :=
        ((unbindTags (T := Nobody) (C := Nobody) (G := Nobody) u n).trans (answerPreempts _ p)).clusterAt_none hu
      exact h _ _ _ (by simp [State.clusterAt, SMap.find?_erase])

/-- A task that was dropped is gone. -/
theorem taskAt_dropTask (s : State) (tid : Nat) : (s.dropTask tid).taskAt tid = false :=
  (wakeRanges (T := Nobody) (C := Nobody) (G := Nobody) _).taskAt_false (by simp [State.taskAt, SMap.find?_erase])

end Prunes

/-- No engine operation of a group stands in a queue. -/
def State.Quiet (s : State) (i : Nat) : Prop := ∀ gr q o, .op o ∈ (s.grove gr).queue q → o.gid ≠ i

theorem State.Quiet.prunes {T C G : Nat → Prop} {s t : State} {i : Nat} (h : s.Quiet i) (hp : Prunes T C G s t) :
    t.Quiet i := fun gr q o ho => h gr q o (hp.queues gr q _ ho)

theorem State.quiet_dropEngineWork (s : State) {gs : List Nat} {i : Nat} (hi : i ∈ gs) :
    (s.dropEngineWork gs).Quiet i := by
  intro gr q o ho
  rw [State.grove, State.dropEngineWork, SMap.find?_map_keyed] at ho
  · cases hg : SMap.find? s.groves gr with
    | none => simp [hg, Grove.queue] at ho
    | some g =>
      rw [hg, Option.map_some, Option.getD_some, Prunes.queue_filter] at ho
      have hkeep := (List.mem_filter.mp ho).2
      rintro rfl
      simp [hi] at hkeep
  · intro e; rfl

end Sys2Proof.Machine
end

section
/-! SUPPORT. Kills (R389, R408, R409): what a kill takes goes with its engine work. -/
namespace Sys2Proof.Machine

/-- From `s` to `t` work may go, of tasks those that `T` names; a cluster that goes leaves no engine operation of its
groups, and neither does a group of a cluster that goes. -/
structure Kills (T : Nat → Prop) (s t : State) : Prop where
  prunes : Prunes T (fun _ => True) (fun _ => True) s t
  quiet : ∀ k i p, s.clusterAt k ≠ none → s.groupAt i = some (p, k, true) →
    t.clusterAt k = none ∨ t.groupAt i = none → t.Quiet i

namespace Kills

variable {T : Nat → Prop} {s t u : State}

theorem of_prunes (h : Prunes T Nobody Nobody s t) : Kills T s t where
  prunes := h.mono (fun _ h => h) (fun _ => False.elim) (fun _ => False.elim)
  quiet k i p hk hi hg := by
    have h1 : t.clusterAt k = s.clusterAt k := (h.clusters k).resolve_right (fun h => h.1)
    have h2 : t.groupAt i = s.groupAt i := (h.groups i).resolve_right (fun h => h.1)
    rw [h1, h2, hi] at hg
    exact absurd hg (by simp [hk])

theorem refl (s : State) : Kills T s s := of_prunes (Prunes.refl s)

theorem trans (h : Kills T s t) (h' : Kills T t u) : Kills T s u where
  prunes := h.prunes.trans h'.prunes
  quiet k i p hk hi hg := by
    by_cases ht : t.clusterAt k = none ∨ t.groupAt i = none
    · exact (h.quiet k i p hk hi ht).prunes h'.prunes
    · rw [not_or] at ht
      have hgi : t.groupAt i = some (p, k, true) :=
        ((h.prunes.groups i).resolve_right (fun h => ht.2 h.2)).trans hi
      exact h'.quiet k i p ht.1 hgi hg

theorem mono {T' : Nat → Prop} (h : Kills T s t) (hT : ∀ k, T k → T' k) : Kills T' s t :=
  ⟨h.prunes.mono hT (fun _ h => h) (fun _ h => h), h.quiet⟩

end Kills

/-! ## A cluster that is killed (R409) -/

/-- The numbers of a cluster's groups. -/
def State.memberIds (s : State) (cid : Nat) : List Nat := (s.groupsIn cid).map (·.1)

theorem State.mem_memberIds {s : State} {cid i p : Nat} (h : s.groupAt i = some (p, cid, true)) :
    i ∈ s.memberIds cid := by
  obtain ⟨g, hg, he⟩ := Option.map_eq_some_iff.mp h
  simp only [Prod.mk.injEq] at he
  obtain ⟨-, hc, hh⟩ := he
  exact List.mem_map_of_mem (List.mem_filter.mpr ⟨SMap.mem_of_find? hg, by simp [hc, hh]⟩)

/-- The rest of a discard, from where the groups' engine work is gone. -/
theorem Prunes.discardRest (s : State) (ids : List Nat) (tid : Nat) :
    Prunes Nobody Nobody (· ∈ ids) (s.dropEngineWork ids) ((ids.foldl (fun s i => s.dropGroup i true)
      ((((s.dropEngineWork ids).dropMatrixWork ids).dropFifoReqs ids).dropBuds ids)).barCheckAll tid) :=
  ((((Prunes.dropMatrixWork _ _).trans (Prunes.dropFifoReqs _ _)).trans (Prunes.dropBuds _ _)).trans
    (Prunes.foldl_mem _ _ (fun s i hi => (Prunes.dropGroup s i true).mono (fun _ h => h) (fun _ h => h)
      (fun _ hk => hk ▸ hi)) _)).trans (Prunes.barCheckAll _ _)

theorem State.discardCluster_prunes (s : State) (cid : Nat) :
    Prunes Nobody Nobody (· ∈ s.memberIds cid) s (s.discardCluster cid)
      ∧ ∀ i ∈ s.memberIds cid, (s.discardCluster cid).Quiet i := by
  have h1 := Prunes.foldl (T := Nobody) (C := Nobody) (G := (· ∈ s.memberIds cid))
    (fun (s : State) (e : Nat × Group) => (s.performStnts e.2).cancelWaiter e.2.part (2 * e.1))
    (fun s e => (Prunes.of_work (WorkSame.performStnts s e.2)).trans (Prunes.cancelWaiter _ _ _)) (s.groupsIn cid) s
  have h2 (u : State) := Prunes.discardRest u (s.memberIds cid) (((SMap.find? s.clusters cid).map (·.tid)).getD 0)
  exact ⟨((h1.trans (Prunes.cancelWaiter _ _ _)).trans (Prunes.dropEngineWork _ _)).trans (h2 _),
    fun i hi => (State.quiet_dropEngineWork _ hi).prunes (h2 _)⟩

theorem State.killCluster_kills (s : State) (cid : Nat) : Kills Nobody s (s.killCluster cid) := by
  obtain ⟨hd, hq⟩ := s.discardCluster_prunes cid
  have hc := Prunes.dropCluster (T := Nobody) (G := Nobody) (s.discardCluster cid) cid
  have h : Prunes Nobody (· = cid) (· ∈ s.memberIds cid) s (s.killCluster cid) :=
    (hd.mono (fun _ h => h) (fun _ => False.elim) (fun _ h => h)).trans
      (hc.mono (fun _ h => h) (fun _ h => h) (fun _ => False.elim))
  refine ⟨h.mono (fun _ h => h) (fun _ _ => trivial) (fun _ _ => trivial), fun k i p hk hi hg => ?_⟩
  refine (hq i ?_).prunes hc
  rcases hg with hg | hg
  · have hkc : k = cid := ((h.clusters k).resolve_left (fun e => hk (e ▸ hg))).1
    exact State.mem_memberIds (hkc ▸ hi)
  · exact ((h.groups i).resolve_left (fun e => by rw [hg, hi] at e; cases e)).1

/-! ## A task that is killed (R408, R409) -/

theorem State.clusterAt_killCluster (s : State) (cid : Nat) : (s.killCluster cid).clusterAt cid = none :=
  Prunes.clusterAt_dropCluster _ _

/-- What a kill leaves of a task that is not there: nothing changes. -/
theorem State.killTask_of_absent {s : State} {tid : Nat} (v : Nat) (h : s.taskAt tid = false) :
    s.killTask tid v = s := by
  unfold State.killTask
  split
  · rfl
  · rename_i hs; simp [State.taskAt, hs] at h

/-- What follows the kill of a task's clusters: its STATE, its record, the fault of its node. -/
def State.endTask (s : State) (t : Task) (tid v : Nat) : State :=
  let s := ((s.setTaskState t.part t.desc v).cancelWaiter t.part (2 * tid)).dropTask tid
  match t.node with
  | some (gn, i) => s.nodeFault gn i
  | none => s

theorem State.killTask_of_some {s : State} {tid : Nat} {t : Task} (v : Nat) (h : SMap.find? s.tasks tid = some t) :
    s.killTask tid v = ((s.clustersOf tid).foldl (fun s e => s.killCluster e.1) s).endTask t tid v := by
  unfold State.killTask
  rw [h]
  rfl

theorem State.endTask_prunes (s : State) (t : Task) (tid v : Nat) :
    Prunes (· = tid) Nobody Nobody s (s.endTask t tid v) := by
  have h := ((Prunes.of_work (WorkSame.setTaskState s t.part t.desc v none)).trans
    (Prunes.cancelWaiter _ t.part (2 * tid))).trans (Prunes.dropTask (C := Nobody) (G := Nobody) _ tid)
  unfold State.endTask
  split
  · exact h.trans (Prunes.nodeFault _ _ _)
  · exact h

theorem State.taskAt_endTask (s : State) (t : Task) (tid v : Nat) : (s.endTask t tid v).taskAt tid = false := by
  unfold State.endTask
  split
  · exact (Prunes.nodeFault (T := Nobody) (C := Nobody) (G := Nobody) _ _ _).taskAt_false (Prunes.taskAt_dropTask _ _)
  · exact Prunes.taskAt_dropTask _ _

theorem State.killClusters_kills (l : List (Nat × Cluster)) (s : State) :
    Kills Nobody s (l.foldl (fun s e => s.killCluster e.1) s) := by
  induction l generalizing s with
  | nil => exact Kills.refl _
  | cons e l ih => rw [List.foldl_cons]; exact (s.killCluster_kills e.1).trans (ih _)

theorem State.killTask_kills (s : State) (tid v : Nat) : Kills (· = tid) s (s.killTask tid v) := by
  cases ht : SMap.find? s.tasks tid with
  | none => rw [State.killTask_of_absent v (by simp [State.taskAt, ht])]; exact Kills.refl s
  | some t =>
    rw [State.killTask_of_some v ht]
    exact ((State.killClusters_kills _ s).mono fun _ => False.elim).trans
      (Kills.of_prunes (State.endTask_prunes _ t tid v))

/-- A task that was killed is gone. -/
theorem State.taskAt_killTask (s : State) (tid v : Nat) : (s.killTask tid v).taskAt tid = false := by
  cases ht : SMap.find? s.tasks tid with
  | none => rw [State.killTask_of_absent v (by simp [State.taskAt, ht])]; simp [State.taskAt, ht]
  | some t => rw [State.killTask_of_some v ht]; exact State.taskAt_endTask _ _ _ _

/-- The clusters of a task that was killed are gone. -/
theorem State.clusterAt_killTask {s : State} {tid : Nat} (v k : Nat) (h : s.taskAt tid = true) :
    (s.killTask tid v).clusterAt k ≠ some tid := by
  obtain ⟨t, ht⟩ := Option.isSome_iff_exists.mp h
  have hgone : ((s.clustersOf tid).foldl (fun s e => s.killCluster e.1) s).clusterAt k ≠ some tid := by
    by_cases hk : s.clusterAt k = some tid
    · obtain ⟨c, hc, hct⟩ := Option.map_eq_some_iff.mp hk
      have hm : (k, c) ∈ s.clustersOf tid := List.mem_filter.mpr ⟨SMap.mem_of_find? hc, by simp [hct]⟩
      have hkeep (s : State) (e : Nat × Cluster) : s.clusterAt k = none → (s.killCluster e.1).clusterAt k = none :=
        (s.killCluster_kills e.1).prunes.clusterAt_none
      rw [foldl_reaches (fun s : State => s.clusterAt k = none)
        (fun (s : State) (e : Nat × Cluster) => s.killCluster e.1) hm (fun s => s.clusterAt_killCluster k) hkeep s]
      simp
    · rcases (State.killClusters_kills (s.clustersOf tid) s).prunes.clusters k with h | h
      · rwa [h]
      · simp [h.2]
  rw [State.killTask_of_some v ht]
  rcases (State.endTask_prunes ((s.clustersOf tid).foldl (fun s e => s.killCluster e.1) s) t tid v).clusters k
    with h | h
  · exact h ▸ hgone
  · exact h.1.elim

end Sys2Proof.Machine
end

section
/-! SUPPORT. The end of a partition's work (R389). -/
namespace Sys2Proof.Machine

/-! ## Its tasks are killed -/

/-- A partition's tasks are killed, one after another. -/
def State.killTasks (s : State) (l : List (Nat × Task)) : State := l.foldl (fun s e => s.killTask e.1 5) s

theorem State.killTasks_kills (l : List (Nat × Task)) (s : State) : Kills (fun _ => True) s (s.killTasks l) := by
  unfold State.killTasks
  induction l generalizing s with
  | nil => exact Kills.refl _
  | cons e l ih =>
    rw [List.foldl_cons]
    exact ((s.killTask_kills e.1 5).mono fun _ _ => trivial).trans (ih _)

theorem State.taskAt_killTasks {l : List (Nat × Task)} {e : Nat × Task} (he : e ∈ l) (s : State) :
    (s.killTasks l).taskAt e.1 = false :=
  foldl_reaches (fun s : State => s.taskAt e.1 = false) (fun (s : State) (e : Nat × Task) => s.killTask e.1 5) he
    (fun s => s.taskAt_killTask e.1 5) (fun s x => (s.killTask_kills x.1 5).prunes.taskAt_false) s

/-- A task that is gone has left no cluster. -/
def State.TaskLeft (s : State) (tid k : Nat) : Prop := s.taskAt tid = false → s.clusterAt k ≠ some tid

theorem State.TaskLeft.killTask {s : State} {tid k : Nat} (h : s.TaskLeft tid k) (n v : Nat) :
    (s.killTask n v).TaskLeft tid k := by
  have hk := (s.killTask_kills n v).prunes
  intro hgone
  cases ht : s.taskAt tid with
  | true =>
    have hn : tid = n := ((hk.tasks tid).resolve_left (fun e => by rw [hgone, ht] at e; cases e)).1
    exact hn ▸ State.clusterAt_killTask v k (hn ▸ ht)
  | false =>
    rcases hk.clusters k with e | e
    · exact e ▸ h ht
    · simp [e.2]

/-- The clusters of the killed tasks are gone, and no engine operation of their groups is left. -/
theorem State.clusterAt_killTasks {l : List (Nat × Task)} {e : Nat × Task} (he : e ∈ l) {s : State} {k : Nat}
    (ht : s.taskAt e.1 = true) (hk : s.clusterAt k = some e.1) : (s.killTasks l).clusterAt k = none := by
  have hleft : (s.killTasks l).TaskLeft e.1 k :=
    foldl_keeps (fun s : State => s.TaskLeft e.1 k) _ (fun s x hs => hs.killTask x.1 5) l s
      (fun h => by rw [ht] at h; cases h)
  rcases (State.killTasks_kills l s).prunes.clusters k with h | h
  · exact absurd (h.trans hk) (hleft (State.taskAt_killTasks he s))
  · exact h.2

/-! ## Its graphs and root nodes stop -/

theorem WorkSame.freeRow (s : State) (r : RootNode) (i : Nat) : WorkSame s (s.freeRow r i) := by
  have h := WorkSame.freeWord s
  unfold State.freeRow
  dsimp only
  split
  · exact h
  · split
    · exact h
    · split
      · exact h
      · split
        · exact h.trans (WorkSame.homeStore _ _ _ _)
        · exact h.trans (WorkSame.modWrite _ _ _ _)
        · exact h.trans (WorkSame.hostWrite _ _)
        · exact h

theorem WorkSame.freeRows (s : State) (rs : List RootNode) : WorkSame s (s.freeRows rs) :=
  WorkSame.foldl _ (fun s r => WorkSame.foldl _ (fun s i => WorkSame.freeRow s r i) _ s) _ s

/-- The root nodes of a partition, with their requests and their engine operations, are gone. -/
def State.dropRoots (s : State) (part : Nat) : State :=
  { s with
    roots := s.roots.filter (fun r => r.part != part)
    hbmCtl := s.hbmCtl.map (fun e => (e.1, { e.2 with
      reqs := e.2.reqs.filter (fun q => !s.roots.any (fun r => r.part == part && some r.order == q.burst.map (·.1))) }))
    groves := s.groves.map (fun e => (e.1, { e.2 with
      queues := e.2.queues.map (fun q => (q.1, q.2.filter (fun x => match x with
        | .op o => !(o.node.isSome && o.part == part)
        | .fence _ _ _ _ => true))) })) }

/-- A graph stops: GSTATE 3. -/
def State.stopGraph (s : State) (e : Nat × Graph) : State :=
  let s := s.graphMod e.2 0x18 (fun _ => 3)
  { s with graphs := SMap.erase s.graphs e.1 }

theorem State.stopGraphs_eq (s : State) (part : Nat) : s.stopGraphs part =
    (s.graphs.filter (fun e => e.2.part == part)).foldl State.stopGraph
      ((s.dropRoots part).freeRows (s.roots.filter (fun r => r.part == part))) := rfl

theorem State.dropRoots_prunes {T C G : Nat → Prop} (s : State) (part : Nat) : Prunes T C G s (s.dropRoots part) := by
  refine Prunes.mapGroves rfl rfl rfl rfl (fun r hr => (List.mem_filter.mp hr).1) rfl fun e => ⟨rfl, fun q x hx => ?_⟩
  rw [Prunes.queue_filter] at hx
  exact (List.mem_filter.mp hx).1

theorem State.stopGraph_prunes {T C G : Nat → Prop} (s : State) (e : Nat × Graph) : Prunes T C G s (s.stopGraph e) :=
  (Prunes.of_work (WorkSame.graphMod _ _ _ _)).trans (Prunes.eraseGraph _ e.1)

theorem State.graphAt_stopGraph (s : State) (e : Nat × Graph) : (s.stopGraph e).graphAt e.1 = none := by
  simp [State.graphAt, State.stopGraph, SMap.find?_erase]

theorem State.stopGraphs_prunes {T C G : Nat → Prop} (s : State) (part : Nat) : Prunes T C G s (s.stopGraphs part) := by
  rw [State.stopGraphs_eq]
  exact ((s.dropRoots_prunes part).trans (Prunes.of_work (WorkSame.freeRows _ _))).trans
    (Prunes.foldl State.stopGraph (fun s e => s.stopGraph_prunes e) _ _)

theorem State.roots_stopGraphs {s : State} {part : Nat} {r : RootNode} (hr : r ∈ (s.stopGraphs part).roots) :
    r.part ≠ part := by
  rw [State.stopGraphs_eq] at hr
  have h := (Prunes.foldl (T := Nobody) (C := Nobody) (G := Nobody) State.stopGraph
    (fun s e => s.stopGraph_prunes e) _ _).roots r hr
  rw [(WorkSame.freeRows _ _).roots] at h
  simpa using (List.mem_filter.mp h).2

theorem State.graphAt_stopGraphs {s : State} {part k : Nat} (h : s.graphAt k = some part) :
    (s.stopGraphs part).graphAt k = none := by
  obtain ⟨g, hg, hp⟩ := Option.map_eq_some_iff.mp h
  rw [State.stopGraphs_eq]
  exact foldl_reaches (fun s : State => s.graphAt k = none) State.stopGraph (a := (k, g))
    (List.mem_filter.mpr ⟨SMap.mem_of_find? hg, by simp [hp]⟩) (fun s => s.graphAt_stopGraph (k, g))
    (fun s e => (s.stopGraph_prunes (T := Nobody) (C := Nobody) (G := Nobody) e).graphAt_none) _

/-! ## Its host groups leave -/

/-- A group of an erased partition leaves: its stores are performed, and it is dropped. -/
def State.killGroup (s : State) (g : Nat) : State :=
  (match SMap.find? s.groups g with
    | some x => s.performStnts x
    | none => s).dropGroup g true

theorem State.killGroup_prunes {T C : Nat → Prop} (s : State) (g : Nat) :
    Prunes T C (fun _ => True) s (s.killGroup g) := by
  have h : Prunes T C (fun _ => True) s (match SMap.find? s.groups g with
      | some x => s.performStnts x
      | none => s) := by
    split
    · exact Prunes.of_work (WorkSame.performStnts _ _)
    · exact Prunes.refl _
  exact h.trans ((Prunes.dropGroup _ g true).mono (fun _ h => h) (fun _ h => h) (fun _ _ => trivial))

/-- The groups of a partition leave. -/
def State.killGroups (s : State) (part : Nat) : State :=
  let hosts := (s.groups.filter (fun e => e.2.part == part)).map (·.1)
  hosts.foldl State.killGroup ((s.dropBuds hosts).dropFifoReqs hosts)

theorem State.killGroups_prunes {T C : Nat → Prop} (s : State) (part : Nat) :
    Prunes T C (fun _ => True) s (s.killGroups part) :=
  ((Prunes.dropBuds _ _).trans (Prunes.dropFifoReqs _ _)).trans
    (Prunes.foldl State.killGroup (fun s g => s.killGroup_prunes g) _ _)

theorem State.groupAt_killGroups {s : State} {part k c : Nat} {b : Bool} (h : s.groupAt k = some (part, c, b)) :
    (s.killGroups part).groupAt k = none := by
  obtain ⟨g, hg, hp⟩ := Option.map_eq_some_iff.mp h
  simp only [Prod.mk.injEq] at hp
  exact foldl_reaches (fun s : State => s.groupAt k = none) State.killGroup
    (List.mem_map_of_mem (f := Prod.fst) (a := (k, g)) (List.mem_filter.mpr ⟨SMap.mem_of_find? hg, by simp [hp.1]⟩))
    (fun s => Prunes.groupAt_dropGroup _ k true)
    (fun s e => (s.killGroup_prunes (T := Nobody) (C := Nobody) e).groupAt_none) _

end Sys2Proof.Machine
end

section
/-! SUPPORT. A partition that is destroyed (R19, R389). -/
namespace Sys2Proof.Machine

/-- The work of a partition is killed. -/
def State.killPart (s : State) (part : Nat) : State :=
  ((s.killTasks (s.tasks.filter (fun e => e.2.part == part))).stopGraphs part).killGroups part

/-- What is in the dies, the crown controller and the streams for a partition whose work is killed goes, and its
commands are answered. -/
def State.clearPart (s : State) (part : Nat) (p : Part) : State :=
  let mine := s.migrations.filter (fun m => m.part == part)
  let s : State := { s with
    dies := s.dies.map (fun e => (e.1, { e.2 with
      recvs := e.2.recvs.map (fun r => (r.1, { r.2 with
        queue := r.2.queue.filter (fun b => b.dpart != part), taken := r.2.taken.filter (fun b => b.dpart != part) }))
      preempts := e.2.preempts.filter (fun x => x.1 != part) }))
    migrations := s.migrations.filter (fun m => m.part != part)
    streams := s.streams.map (fun e => (e.1, if e.2.part = part then { e.2 with part := 255 } else e.2))
    budsOut := s.budsOut.map (fun o => if o.part = part then { o with part := 255 } else o) }
  let s := mine.foldl (fun s _ => s.refuse .migrateAbort) s
  let s := (List.range p.invs).foldl (fun s _ => s.answer) s
  p.answers.foldl (fun s _ => s.answer) s

/-- The keys of a partition whose work is gone are erased, with its requests and its commands. -/
def State.eraseKeys (s : State) (part : Nat) (p : Part) : State :=
  let (k, s) := (s.dropKeyCopies p.keyId).newId
  let s := s.modPart part (fun p => { p with
    keyId := k, handles := [], reqs := [], invs := 0, answers := [], preempted := [], tdi := .unlocked })
  (s.invalidate part none none).modCrown (fun c => { c with tdiKeys := SMap.erase c.tdiKeys part })

theorem State.erasePart_eq {s : State} {part : Nat} {p : Part} (h : SMap.find? s.parts part = some p) :
    s.erasePart part = (((s.killPart part).clearPart part p).eraseKeys part p).startMigs := by
  unfold State.erasePart
  rw [h]
  rfl

/-! ## Migrations -/

/-- No migration is of a partition. -/
def State.NoMigs (s : State) (part : Nat) : Prop := ∀ m ∈ s.migrations, m.part ≠ part

theorem WorkSame.setMcause (s : State) (p : Part) (obj : Nat) (c : Code) : WorkSame s (s.setMcause p obj c) := by
  unfold State.setMcause
  split
  · exact WorkSame.refl _
  · exact WorkSame.homeStore _ _ _ _

theorem Prunes.beginMig {T C G : Nat → Prop} (s : State) (m : Migration) : Prunes T C G s (s.beginMig m) := by
  have hd : Prunes T C G s (s.dropMig m) := Prunes.of_same rfl rfl rfl rfl rfl fun _ => rfl
  unfold State.beginMig
  split
  · exact hd
  · split
    · exact (hd.trans (Prunes.of_work (WorkSame.setMcause _ _ _ _))).trans (Prunes.refuse _ _)
    · exact hd.trans (Prunes.refuse _ _)
    · split
      · exact hd.trans (Prunes.refuse _ _)
      · refine Prunes.trans ?_ (Prunes.of_work (WorkSame.homeStore _ _ _ _))
        exact Prunes.of_same rfl rfl rfl rfl rfl fun _ => rfl

theorem Prunes.startMigs {T C G : Nat → Prop} (s : State) : Prunes T C G s s.startMigs := by
  refine Prunes.foldl _ (fun s m => ?_) _ _
  split
  · exact Prunes.refl _
  · exact Prunes.beginMig _ _

theorem State.NoMigs.beginMig {s : State} {part : Nat} {m : Migration} (h : s.NoMigs part) (hm : m.part ≠ part) :
    (s.beginMig m).NoMigs part := by
  have hd : (s.dropMig m).NoMigs part := fun x hx => h x (List.mem_of_mem_erase hx)
  unfold State.beginMig
  split
  · exact hd
  · split
    · intro x hx
      rw [State.refuse_migrations, (WorkSame.setMcause _ _ _ _).migrations] at hx
      exact hd x hx
    · exact hd
    · split
      · exact hd
      · intro x hx
        rw [State.putEntry, (WorkSame.homeStore _ _ _ _).migrations] at hx
        obtain ⟨y, hy, rfl⟩ := List.mem_map.mp hx
        split
        · exact hm
        · exact h y hy

theorem State.NoMigs.startMigs {s : State} {part : Nat} (h : s.NoMigs part) : s.startMigs.NoMigs part := by
  unfold State.startMigs
  have hl (l : List Migration) (hl : ∀ m ∈ l, m.part ≠ part) (u : State) (hu : u.NoMigs part) :
      (l.foldl (fun s m => if m.started || decide (16 ≤ (s.migrations.filter (·.started)).length)
        || s.roots.any (fun r => r.part == m.part && r.uses m.obj m.page) then s else s.beginMig m) u).NoMigs part := by
    induction l generalizing u with
    | nil => exact hu
    | cons m l ih =>
      rw [List.foldl_cons]
      refine ih (fun x hx => hl x (by simp [hx])) _ ?_
      split
      · exact hu
      · exact hu.beginMig (hl m (by simp))
  exact hl _ h s h

theorem State.clearPart_prunes {T C G : Nat → Prop} (s : State) (part : Nat) (p : Part) :
    Prunes T C G s (s.clearPart part p) := by
  unfold State.clearPart
  dsimp only
  refine Prunes.trans (Prunes.trans (Prunes.trans ?_ (Prunes.foldl _ (fun s _ => Prunes.refuse s _) _ _))
    (Prunes.foldl _ (fun s _ => Prunes.answer s _) _ _)) (Prunes.foldl _ (fun s _ => Prunes.answer s _) _ _)
  exact Prunes.of_same rfl rfl rfl rfl rfl fun _ => rfl

theorem State.clearPart_migrations (s : State) (part : Nat) (p : Part) :
    (s.clearPart part p).migrations = s.migrations.filter (fun m => m.part != part) := by
  unfold State.clearPart
  dsimp only
  rw [foldl_same State.migrations (fun (s : State) (_ : Word × Bool) => s.answer) (fun _ _ => rfl),
    foldl_same State.migrations (fun (s : State) (_ : Nat) => s.answer) (fun _ _ => rfl),
    foldl_same State.migrations (fun (s : State) (_ : Migration) => s.refuse .migrateAbort) (fun _ _ => rfl)]

theorem State.eraseKeys_prunes {T C G : Nat → Prop} (s : State) (part : Nat) (p : Part) :
    Prunes T C G s (s.eraseKeys part p) :=
  Prunes.mapGroves rfl rfl rfl rfl (fun _ h => h) rfl fun _ => ⟨rfl, fun _ _ h => h⟩

/-! ## The whole of it -/

/-- Nothing of a partition's work in `s` is left in `t`. -/
structure WorkGone (s t : State) (part : Nat) : Prop where
  tasks : ∀ k x, SMap.find? s.tasks k = some x → x.part = part → t.taskAt k = false
  groups : ∀ k g, SMap.find? s.groups k = some g → g.part = part → t.groupAt k = none
  graphs : ∀ k g, SMap.find? s.graphs k = some g → g.part = part → t.graphAt k = none
  roots : ∀ r ∈ t.roots, r.part ≠ part
  clusters : ∀ k c x, SMap.find? s.clusters k = some c → SMap.find? s.tasks c.tid = some x → x.part = part →
    t.clusterAt k = none
  engines : ∀ k c x i g, SMap.find? s.clusters k = some c → SMap.find? s.tasks c.tid = some x → x.part = part →
    SMap.find? s.groups i = some g → g.cid = k → g.host = none → t.Quiet i

theorem WorkGone.prunes {T C G : Nat → Prop} {s t u : State} {part : Nat} (h : WorkGone s t part)
    (hp : Prunes T C G t u) : WorkGone s u part where
  tasks k x hk hx := hp.taskAt_false (h.tasks k x hk hx)
  groups k g hk hg := hp.groupAt_none (h.groups k g hk hg)
  graphs k g hk hg := hp.graphAt_none (h.graphs k g hk hg)
  roots r hr := h.roots r (hp.roots r hr)
  clusters k c x hk ht hx := hp.clusterAt_none (h.clusters k c x hk ht hx)
  engines k c x i g hk ht hx hi hc hh := (h.engines k c x i g hk ht hx hi hc hh).prunes hp

theorem State.killPart_workGone (s : State) (part : Nat) : WorkGone s (s.killPart part) part := by
  let l := s.tasks.filter (fun e => e.2.part == part)
  have hl {k : Nat} {x : Task} (hk : SMap.find? s.tasks k = some x) (hx : x.part = part) : (k, x) ∈ l :=
    List.mem_filter.mpr ⟨SMap.mem_of_find? hk, by simp [hx]⟩
  have h1 := State.killTasks_kills l s
  have h2 := (s.killTasks l).stopGraphs_prunes (T := Nobody) (C := Nobody) (G := Nobody) part
  have h3 := ((s.killTasks l).stopGraphs part).killGroups_prunes (T := Nobody) (C := Nobody) part
  have h23 := (h2.mono (fun _ h => h) (fun _ h => h) (fun _ => False.elim)).trans h3
  have hcl {k : Nat} {c : Cluster} {x : Task} (hk : SMap.find? s.clusters k = some c)
      (ht : SMap.find? s.tasks c.tid = some x) (hx : x.part = part) : (s.killTasks l).clusterAt k = none :=
    State.clusterAt_killTasks (hl ht hx) (by simp [State.taskAt, ht]) (by simp [State.clusterAt, hk])
  refine ⟨fun k x hk hx => ?_, fun k g hk hg => ?_, fun k g hk hg => ?_, fun r hr => ?_, fun k c x hk ht hx => ?_,
    fun k c x i g hk ht hx hi hc hh => ?_⟩
  · exact h23.taskAt_false (State.taskAt_killTasks (hl hk hx) s)
  · have hs : s.groupAt k = some (part, g.cid, g.host.isNone) := by simp [State.groupAt, hk, hg]
    rcases (h1.prunes.trans h2.widen).groups k with h | h
    · exact State.groupAt_killGroups (h.trans hs)
    · exact h3.groupAt_none h.2
  · have hs : s.graphAt k = some part := by simp [State.graphAt, hk, hg]
    rcases h1.prunes.graphs k with h | h
    · exact h3.graphAt_none (State.graphAt_stopGraphs (h.trans hs))
    · exact h23.graphAt_none h
  · exact State.roots_stopGraphs (h3.roots r hr)
  · exact h23.clusterAt_none (hcl hk ht hx)
  · exact (h1.quiet k i g.part (by simp [State.clusterAt, hk]) (by simp [State.groupAt, hi, hc, hh])
      (.inl (hcl hk ht hx))).prunes h23

/-- Nothing of an erased partition's work is left, and none of its migrations (R389). -/
theorem State.erasePart_gone {s : State} {part : Nat} {p : Part} (h : SMap.find? s.parts part = some p) :
    WorkGone s (s.erasePart part) part ∧ (s.erasePart part).NoMigs part := by
  rw [State.erasePart_eq h]
  have hrest (u : State) : Prunes Nobody Nobody Nobody u ((u.clearPart part p).eraseKeys part p).startMigs :=
    ((u.clearPart_prunes part p).trans (State.eraseKeys_prunes _ part p)).trans (Prunes.startMigs _)
  refine ⟨(s.killPart_workGone part).prunes (hrest _), State.NoMigs.startMigs fun m hm => ?_⟩
  have hm : m ∈ ((s.killPart part).clearPart part p).migrations := hm
  rw [State.clearPart_migrations] at hm
  simpa using (List.mem_filter.mp hm).2

/-- What the end of a partition leaves of it beside its work: the number goes, and its groves are nobody's (R19). -/
def State.forgetPart (s : State) (part : Nat) : State :=
  { s with
    parts := SMap.erase s.parts part
    groves := s.groves.map (fun e =>
      (e.1, if e.2.lastUser = some part then { e.2 with lastUser := some 255 } else e.2)) }

theorem State.forgetPart_prunes {T C G : Nat → Prop} (s : State) (part : Nat) : Prunes T C G s (s.forgetPart part) :=
  Prunes.mapGroves rfl rfl rfl rfl (fun _ h => h) rfl fun _ => ⟨rfl, fun _ _ h => by
    dsimp only at h
    split at h <;> exact h⟩

/-- The state that `PARTDESTROY` answers from. -/
def State.destroyPart (s : State) (part : Nat) : State :=
  ((s.erasePart part).forgetPart part).modCrown (fun c => { c with tdiKeys := SMap.erase c.tdiKeys part })

theorem execPartdestroy_ready {s : State} {v : Via} {part : Nat} {p : Part} (h : CommandReady s v false)
    (hp : SMap.find? s.parts part = some p) : execPartdestroy v part s = .next (s.destroyPart part).answer := by
  rw [execPartdestroy, mailbox_ready h, onPart, hp]
  rfl

theorem State.NoMigs.forgetPart {s : State} {part : Nat} (h : s.NoMigs part) (f : Crown → Crown) :
    ((s.forgetPart part).modCrown f).answer.NoMigs part := h

/-- A destroyed partition is gone, with its work and its migrations (R389). -/
theorem State.destroyPart_gone {s : State} {part : Nat} {p : Part} (h : SMap.find? s.parts part = some p) :
    WorkGone s (s.destroyPart part).answer part ∧ (s.destroyPart part).answer.NoMigs part := by
  obtain ⟨hw, hm⟩ := State.erasePart_gone h
  exact ⟨hw.prunes (((State.forgetPart_prunes (T := Nobody) (C := Nobody) (G := Nobody) _ part).trans
    (Prunes.modCrown _ _)).trans (Prunes.answer _ _)), hm.forgetPart _⟩

end Sys2Proof.Machine
end

section
/-! SUPPORT. The commands of partitions (R19, R278, R284, R294, R411), one lemma for each, and what they settle. -/
namespace Sys2Proof.Machine

variable {s : State} {v : Via} {n : Nat} {p : Part}

/-! ## Acceptance -/

/-- A command comes through a system partition's range exactly where the range is a partition's that has the mark. -/
theorem State.viaSystem_iff (s : State) (v : Via) :
    s.viaSystem v = true ↔ ∃ k q, v = .part k ∧ SMap.find? s.parts k = some q ∧ q.system = true := by
  cases v with
  | base => simp [State.viaSystem]
  | part k => cases h : SMap.find? s.parts k <;> simp [State.viaSystem, h]

theorem onPart_found (hp : SMap.find? s.parts n = some p) (body : Part → State → State) :
    onPart n body s = body p s := by
  simp [onPart, hp]

theorem onUnlocked_unlocked (hp : SMap.find? s.parts n = some p) (ht : p.tdi = .unlocked)
    (body : Part → State → State) : onUnlocked n body s = body p s := by
  simp [onUnlocked, onPart_found hp, ht]

theorem onUnlocked_locked (hp : SMap.find? s.parts n = some p) (ht : p.tdi ≠ .unlocked)
    (body : Part → State → State) : onUnlocked n body s = s.refuse := by
  simp [onUnlocked, onPart_found hp, ht]

/-- A command of an unlocked partition does what its body says. -/
theorem mailbox_unlocked (h : CommandReady s v false) (hp : SMap.find? s.parts n = some p) (ht : p.tdi = .unlocked)
    (body : Part → State → State) : mailbox s v false (onUnlocked n body) = .next (body p s) := by
  rw [mailbox_ready h, onUnlocked_unlocked hp ht]

/-- A command of a locked or running partition is refused (R399). -/
theorem mailbox_locked (h : CommandReady s v false) (hp : SMap.find? s.parts n = some p) (ht : p.tdi ≠ .unlocked)
    (body : Part → State → State) : mailbox s v false (onUnlocked n body) = .next s.refuse := by
  rw [mailbox_ready h, onUnlocked_locked hp ht]

/-! ## Settings of a root (R18, R19) -/

/-- A budget fits its fields and holds no inherit code. -/
theorem budgetsOk_iff (b : Budgets) : budgetsOk b = true ↔ b.blreg < 0xFFFFF ∧ b.bsram < 0xFFFFF ∧ b.bob < 0xFFFFF ∧
    b.btag < 15 ∧ b.bgrove < 255 ∧ b.bstrm < 0xFFF ∧ b.bbud < 0xFFFF := by
  simp [budgetsOk, and_assoc]

theorem State.poolOk_iff (s : State) (base cnt : Nat) : s.poolOk base cnt = true ↔
    cnt ≤ 2048 ∧ 2048 * s.pkg ≤ base ∧ base + cnt ≤ 2048 * s.pkg + 2032 := by
  simp [State.poolOk, and_assoc]

theorem policyOk_iff (prio lease fp : Nat) : policyOk prio lease fp = true ↔
    prio ≤ 15 ∧ 1 ≤ lease ∧ lease ≤ 255 ∧ fp ≤ 2 := by
  simp [policyOk, and_assoc]

theorem execPartcreate_system {a : PartParams} (h : CommandReady s v false) (hv : s.viaSystem v = true)
    (hn : a.num ≤ 15) (hfree : SMap.find? s.parts a.num = none) (ht : a.tenant ≠ 0xFFFFFFFF)
    (hb : budgetsOk a.bud = true) (hp : s.poolOk a.poolBase a.poolCnt = true)
    (hl : policyOk a.prio a.lease a.fpolicy = true) :
    execPartcreate v a s = .next (State.answer { s with nextId := s.nextId + 1, parts := SMap.put s.parts a.num {
      num := a.num, tenant := a.tenant, poolBase := a.poolBase, poolCnt := a.poolCnt, bud := a.bud, prio := a.prio
      lease := a.lease, fpolicy := a.fpolicy, system := a.system, keyId := s.nextId } }) := by
  have hcond : (!s.viaSystem v || decide (15 < a.num) || (SMap.find? s.parts a.num).isSome || a.tenant == 0xFFFFFFFF
      || !budgetsOk a.bud || !s.poolOk a.poolBase a.poolCnt || !policyOk a.prio a.lease a.fpolicy) = false := by
    rw [hv, hfree, hb, hp, hl, beq_eq_false_iff_ne.mpr ht, decide_eq_false (Nat.not_lt.mpr hn)]
    rfl
  rw [execPartcreate, mailbox_ready h]
  cases v with
  | base => cases hv
  | part k => exact congrArg _ (if_neg (Bool.not_eq_true _ ▸ hcond))

/-- Through the package's range no further partition is created (R19). -/
theorem execPartcreate_base (a : PartParams) (h : CommandReady s .base false) (hp : SMap.find? s.parts n = some p) :
    execPartcreate .base a s = .next s.refuse := by
  have hne : s.parts.isEmpty = false := by cases hs : s.parts <;> simp_all
  rw [execPartcreate, mailbox_ready h]
  simp [hne]

/-- `ROOTSET` writes the root's image and notes its address; no more of the partition changes, and it is answered. -/
theorem execRootset_unlocked {ptr : Word} (h : CommandReady s v false) (hp : SMap.find? s.parts n = some p)
    (ht : p.tdi = .unlocked) (hd : p.dir.isSome = true) (hr : (s.rootPlace p ptr).isSome = true)
    (hno : ∀ e ∈ s.tasks, e.2.part ≠ n) : ∃ u, WorkSame s u
      ∧ execRootset v n ptr s = .next (u.modPart n (fun p => { p with root := some ptr })).answer := by
  have hany : s.tasks.any (fun e => e.2.part == n) = false := by simpa [List.any_eq_false] using hno
  rw [execRootset, mailbox_unlocked h hp ht]
  simp only [Option.isNone_eq_false_iff.mpr hd, Option.isNone_eq_false_iff.mpr hr, hany, Bool.or_self,
    Bool.false_eq_true, if_false]
  refine ⟨_, WorkSame.foldl _ (fun s i => ?_) _ s, rfl⟩
  split
  · exact (WorkSame.freeWord s).trans (WorkSame.devStore _ _ _ _ _)
  · exact WorkSame.devStore _ _ _ _ _

/-- The settings of a partition that a patch asks for. -/
def Part.patched (p : Part) (a : PartPatch) : Part :=
  { p with
    poolBase := a.poolBase.getD p.poolBase, poolCnt := a.poolCnt.getD p.poolCnt, bud := a.bud.getD p.bud
    prio := a.prio.getD p.prio, lease := a.lease.getD p.lease, fpolicy := a.fpolicy.getD p.fpolicy }

theorem execPartset_unlocked {a : PartPatch} (h : CommandReady s v false) (hp : SMap.find? s.parts n = some p)
    (ht : p.tdi = .unlocked) (hb : budgetsOk (p.patched a).bud = true)
    (hpool : s.poolOk (p.patched a).poolBase (p.patched a).poolCnt = true)
    (hl : policyOk (p.patched a).prio (p.patched a).lease (p.patched a).fpolicy = true)
    (hs : ∀ e ∈ s.streams, e.2.part = n → e.1 < 2048 * s.pkg + 2032 →
      (p.patched a).poolBase ≤ e.1 ∧ e.1 < (p.patched a).poolBase + (p.patched a).poolCnt) :
    execPartset v n a s = .next (((s.modPart n (fun _ => p.patched a)).rewriteRoot (p.patched a)).answer) := by
  have hany : s.streams.any (fun e => e.2.part == n && e.1 < 2048 * s.pkg + 2032
      && !(decide ((p.patched a).poolBase ≤ e.1) && decide (e.1 < (p.patched a).poolBase + (p.patched a).poolCnt)))
      = false := by
    rw [List.any_eq_false]
    intro e he
    have := hs e he
    simp only [Bool.and_eq_true, beq_iff_eq, decide_eq_true_eq, Bool.not_eq_true', not_and, Bool.not_eq_false]
    exact fun h => this h.1 h.2
  have hcond : (!budgetsOk (p.patched a).bud || !s.poolOk (p.patched a).poolBase (p.patched a).poolCnt
      || !policyOk (p.patched a).prio (p.patched a).lease (p.patched a).fpolicy || s.streams.any (fun e =>
        e.2.part == n && e.1 < 2048 * s.pkg + 2032
        && !(decide ((p.patched a).poolBase ≤ e.1) && decide (e.1 < (p.patched a).poolBase + (p.patched a).poolCnt))))
      = false := by
    rw [hb, hpool, hl, hany]
    rfl
  rw [execPartset, mailbox_unlocked h hp ht]
  exact congrArg _ (if_neg (Bool.not_eq_true _ ▸ hcond))

theorem execLocalset_unlocked {base count size : Nat} (h : CommandReady s v false) (hp : SMap.find? s.parts n = some p)
    (ht : p.tdi = .unlocked) (hb : base % 65536 = 0) (hc : 1 ≤ count ∧ count ≤ 65536) (hz : 1 ≤ size ∧ size ≤ 64)
    (he : base + count * frameBytes size ≤ 2 ^ 39) (hg : ∀ e ∈ s.groups, e.2.part ≠ n) :
    ∃ c, execLocalset v n base count size s = .next (State.answer (State.modPart { s with cores := c } n
      (fun p => { p with localBase := base, frames := count, localS := size }))) := by
  have hany : s.groups.any (fun e => e.2.part == n) = false := by simpa [List.any_eq_false] using hg
  rw [execLocalset, mailbox_unlocked h hp ht]
  rw [if_neg (by simp only [hany, hb, hbmEnd]; simp; omega)]
  exact ⟨_, rfl⟩

theorem execSysmark_system {on : Bool} (h : CommandReady s v false) (hp : SMap.find? s.parts n = some p)
    (ht : p.tdi = .unlocked) (hv : s.viaSystem v = true) (hn : v ≠ .part n) :
    execSysmark v n on s = .next (s.modPart n (fun p => { p with system := on })).answer := by
  rw [execSysmark, mailbox_unlocked h hp ht]
  simp [hv, hn]

theorem execSysmark_other {on : Bool} (h : CommandReady s v false) (hp : SMap.find? s.parts n = some p)
    (ht : p.tdi = .unlocked) (hv : s.viaSystem v = false ∨ v = .part n) : execSysmark v n on s = .next s.refuse := by
  rw [execSysmark, mailbox_unlocked h hp ht]
  rcases hv with hv | hv <;> simp [hv]

/-! ## Tables, log and context area (R278, R284, R294, R411) -/

theorem execDirset_unlocked {base count : Nat} (h : CommandReady s v false) (hp : SMap.find? s.parts n = some p)
    (ht : p.tdi = .unlocked) (hb : base % 65536 = 0) (hc : 1 ≤ count ∧ count ≤ 2 ^ 21)
    (he : base + 64 * count ≤ 2 ^ 39) : execDirset v n base count s =
      .next ((s.modPart n (fun p => { p with dir := some (base, count) })).objInv n none none) := by
  rw [execDirset, mailbox_unlocked h hp ht, if_neg (by simp only [hbmEnd]; omega)]

/-- The sizes that a log may have (R294). -/
theorem logSize_ok {k : Nat} (h6 : 6 ≤ k) (h16 : k ≤ 16) : 64 ≤ 2 ^ k ∧ 2 ^ k ≤ 65536
    ∧ (List.range 17).all (fun i => 2 ^ k != 2 ^ i) = false := by
  refine ⟨Nat.pow_le_pow_right (n := 2) (by omega) h6, Nat.pow_le_pow_right (n := 2) (by omega) h16, ?_⟩
  rw [List.all_eq_false]
  exact ⟨k, List.mem_range.mpr (by omega), by simp⟩

theorem execLogset_unlocked {base k ans cons : Nat} (h : CommandReady s v false) (hp : SMap.find? s.parts n = some p)
    (ht : p.tdi = .unlocked) (hb : base % 4096 = 0) (h6 : 6 ≤ k) (h16 : k ≤ 16) (ha : ans % 32768 = 0)
    (hc : cons % 8 = 0) (hae : ans + 32768 ≤ 2 ^ 39) (hce : cons + 8 ≤ 2 ^ 39) :
    execLogset v n base (2 ^ k) ans cons s =
      .next (s.modPart n (fun p => { p with log := some { base, size := 2 ^ k, ans, cons } })).answer := by
  obtain ⟨h64, hmax, hpow⟩ := logSize_ok h6 h16
  rw [execLogset, mailbox_unlocked h hp ht, if_neg (by rw [hpow]; simp only [hbmEnd]; simp; omega)]

theorem execCtxset_unlocked {base size : Nat} (h : CommandReady s v false) (hp : SMap.find? s.parts n = some p)
    (ht : p.tdi = .unlocked) (hb : base % 65536 = 0) (hz : size % 65536 = 0) (he : base + size ≤ 2 ^ 39)
    (hu : p.ctxUsed = 0) :
    execCtxset v n base size s = .next (s.modPart n (fun p => { p with ctx := some (base, size) })).answer := by
  rw [execCtxset, mailbox_unlocked h hp ht, if_neg (by simp only [hbmEnd]; omega)]

/-! ## Invalidations (R284) -/

/-- Whether translated accesses are still to be performed does not depend on translations or on partitions' records. -/
theorem State.translated_congr {s t : State} (h1 : t.groups = s.groups) (h2 : t.streams = s.streams)
    (h3 : t.groves = s.groves) (part : Nat) : t.translated part = s.translated part := by
  simp only [State.translated, h1, h2, h3]

theorem State.answerInvs_of_translated {s : State} (h : s.translated n = true) : s.answerInvs n = s := by
  unfold State.answerInvs
  split
  · rfl
  · simp [h]

/-- The one invalidation that is counted is answered where nothing translated is left to perform. -/
theorem State.answerInvs_one {s : State} (hp : SMap.find? s.parts n = some p) (hi : p.invs = 1)
    (h : s.translated n = false) : s.answerInvs n = (s.modPart n (fun p => { p with invs := 0 })).answer := by
  simp [State.answerInvs, hp, hi, h, List.range_succ]

theorem State.answerInvs_cores (s : State) : (s.answerInvs n).cores = s.cores := by
  unfold State.answerInvs
  split
  · rfl
  · split
    · rfl
    · exact foldl_same State.cores (fun (s : State) (_ : Nat) => s.answer) (fun _ _ => rfl) _ _

/-- No core keeps a descriptor that an invalidation of a whole object, or of all, names. -/
theorem State.invalidate_otlb {s : State} {obj : Option Nat} {c : Nat × Core} {x : Nat × Desc}
    (hc : c ∈ (s.invalidate n obj none).cores) (hx : x ∈ c.2.otlb) :
    ¬ (x.1 / 2 ^ 21 = n ∧ (obj = none ∨ obj = some (x.1 % 2 ^ 21))) := by
  obtain ⟨e, -, rfl⟩ := List.mem_map.mp hc
  have hkeep := (List.mem_filter.mp hx).2
  rintro ⟨hn, rfl | rfl⟩
  · simp at hkeep; omega
  · simp at hkeep; omega

/-- `OBJINV` drops what is kept of the object, and is answered at once where nothing translated is left to perform. -/
theorem State.objInv_answers {s : State} (hp : SMap.find? s.parts n = some p) (obj page : Option Nat) :
    (s.translated n = true → (s.objInv n obj page).crown.events = s.crown.events)
    ∧ (s.translated n = false → p.invs = 0 →
      (s.objInv n obj page).crown.events = s.crown.events ++ [.answer true none []])
    ∧ (page = none → ∀ c ∈ (s.objInv n obj page).cores, ∀ x ∈ c.2.otlb,
        ¬ (x.1 / 2 ^ 21 = n ∧ (obj = none ∨ obj = some (x.1 % 2 ^ 21)))) := by
  have ht : ((s.invalidate n obj page).modPart n (fun p => { p with invs := p.invs + 1 })).translated n
      = s.translated n := State.translated_congr rfl rfl rfl n
  have hf : SMap.find? ((s.invalidate n obj page).modPart n (fun p => { p with invs := p.invs + 1 })).parts n
      = some { p with invs := p.invs + 1 } := by
    rw [State.modPart_parts, SMap.find?_mod, if_pos rfl, show (s.invalidate n obj page).parts = s.parts from rfl, hp]
    rfl
  refine ⟨fun h => ?_, fun h hi => ?_, ?_⟩
  · rw [State.objInv, State.answerInvs_of_translated (ht.trans h)]
    rfl
  · rw [State.objInv, State.answerInvs_one hf (by simp [hi]) (ht.trans h)]
    rfl
  · rintro rfl c hc x hx
    rw [State.objInv, State.answerInvs_cores] at hc
    exact State.invalidate_otlb (s := s) hc hx

/-- A locked or running partition keeps its settings (R399). -/
theorem exec_locked {u : State} {q : Part} (h : CommandReady u v false) (hq : SMap.find? u.parts n = some q)
    (ht : q.tdi ≠ .unlocked) (ptr : Word) (a : PartPatch) (w x y z : Nat) (b : Bool) :
    ∀ i ∈ [Instr.rootset v n ptr, .partset v n a, .localset v n w x y, .sysmark v n b, .dirset v n w x,
      .logset v n w x y z, .ctxset v n w x, .podwin v n w x y, .graftmap v n w x], exec i u = .next u.refuse := by
  simp only [List.forall_mem_cons]
  have hl := mailbox_locked h hq ht
  exact ⟨hl _, hl _, hl _, hl _, hl _, hl _, hl _, hl _, hl _, fun i hi => by cases hi⟩

/-- A destroyed partition is gone with all that was its own (R389). -/
theorem execPartdestroy_acts (h : CommandReady s v false) (hp : SMap.find? s.parts n = some p) :
    ∃ t, exec (.partdestroy v n) s = .next t ∧ SMap.find? t.parts n = none
        ∧ t.crown.events.getLast? = some (.answer true none [])
        ∧ SMap.find? t.crown.tdiKeys n = none ∧ (∀ m ∈ t.migrations, m.part ≠ n) ∧ (∀ r ∈ t.roots, r.part ≠ n)
        ∧ (∀ k x, SMap.find? s.tasks k = some x → x.part = n → SMap.find? t.tasks k = none)
        ∧ (∀ k g, SMap.find? s.groups k = some g → g.part = n → SMap.find? t.groups k = none)
        ∧ (∀ k g, SMap.find? s.graphs k = some g → g.part = n → SMap.find? t.graphs k = none)
        ∧ (∀ k c x, SMap.find? s.clusters k = some c → SMap.find? s.tasks c.tid = some x → x.part = n →
          SMap.find? t.clusters k = none ∧ ∀ i g gr q o, SMap.find? s.groups i = some g → g.cid = k → g.host = none →
            .op o ∈ (t.grove gr).queue q → o.gid ≠ i) := by
  obtain ⟨hw, hm⟩ := State.destroyPart_gone hp
  refine ⟨_, execPartdestroy_ready h hp, ?_, ?_, ?_, hm, hw.roots, fun k x hk hx => ?_, fun k g hk hg => ?_,
    fun k g hk hg => ?_, fun k c x hk ht hx => ⟨?_, fun i g gr q o hi hc hh ho => ?_⟩⟩
  · simp [State.destroyPart, State.forgetPart, SMap.find?_erase]
  · simp [State.answer, State.post]
  · exact (SMap.find?_erase _ n n).trans (if_pos rfl)
  · simpa [State.taskAt] using hw.tasks k x hk hx
  · simpa [State.groupAt] using hw.groups k g hk hg
  · simpa [State.graphAt] using hw.graphs k g hk hg
  · simpa [State.clusterAt] using hw.clusters k c x hk ht hx
  · exact hw.engines k c x i g hk ht hx hi hc hh gr q o ho

/-- Settles O35: each command by its lemma above; a destroyed partition's work by `WorkGone`. -/
theorem partitionCommandsActAndAnswer : Obligations.PartitionCommandsActAndAnswer := by
  unfold Obligations.PartitionCommandsActAndAnswer
  intro s v n p h hp ht sys ok no sets fits pool legal
  have hsys : s.viaSystem v = true ↔ sys := s.viaSystem_iff v
  refine ⟨?_, ?_, ?_, ?_, ?_, ?_, execPartdestroy_acts h hp, ?_, ?_, ?_, ?_, fun u q hu hq htu => exec_locked hu hq htu⟩
  · intro a hv hn hfree hten hb hpl hl
    exact ⟨_, _, execPartcreate_system h (hsys.mpr hv) hn hfree hten ((budgetsOk_iff _).mpr hb)
      ((s.poolOk_iff _ _).mpr hpl) ((policyOk_iff _ _ _).mpr hl), SMap.find?_put_self _ _ _, rfl, rfl,
      fun k hk => by simp [SMap.find?_put, Ne.symm hk]⟩
  · rintro a rfl
    exact execPartcreate_base a h hp
  · intro ptr hd hr hno
    obtain ⟨u, hu, he⟩ := execRootset_unlocked h hp ht hd hr hno
    exact ⟨_, he, by simp [SMap.find?_mod, hu.parts, hp], by simp [State.answer, State.post, hu.crown]; rfl⟩
  · intro a q hb hpl hl hs
    exact execPartset_unlocked h hp ht ((budgetsOk_iff _).mpr hb) ((s.poolOk_iff _ _).mpr hpl)
      ((policyOk_iff _ _ _).mpr hl) hs
  · intro base count size hb hc1 hc2 hz1 hz2 he hg
    obtain ⟨c, hc⟩ := execLocalset_unlocked h hp ht hb ⟨hc1, hc2⟩ ⟨hz1, hz2⟩ he hg
    exact ⟨_, hc, rfl, by simp [SMap.find?_mod, hp]⟩
  · refine fun on => ⟨fun hv => execSysmark_system h hp ht (hsys.mpr hv.1) hv.2, fun hv => ?_⟩
    exact execSysmark_other h hp ht (hv.imp_left fun hv => Bool.not_eq_true _ ▸ fun hc => hv (hsys.mp hc))
  · exact fun base count hb hc1 hc2 he => execDirset_unlocked h hp ht hb ⟨hc1, hc2⟩ he
  · exact fun base k ans cons hb h6 h16 ha hc hae hce => execLogset_unlocked h hp ht hb h6 h16 ha hc hae hce
  · intro obj page
    refine ⟨_, ?_, State.objInv_answers hp obj page⟩
    exact (mailbox_ready h _).trans (congrArg _ (onPart_found hp _))
  · exact fun base size hb hz he hu => execCtxset_unlocked h hp ht hb hz he hu

end Sys2Proof.Machine
end

section
/-! SUPPORT. What does not depend on the party that the state has chosen: reads of the device, what a control block's chain
resolves to, and what a `GROW` asks of its lane and budgets. -/
namespace Sys2Proof.Machine

/-! ## Translations and the device's reads (R20, R283) -/

theorem CohOnly.walkPage {s t : State} (h : CohOnly s t) (p : Part) (d : Desc) (page : Nat) :
    t.walkPage p d page = s.walkPage p d page := by
  obtain ⟨_, _, _, rfl⟩ := h; rfl

theorem LookOnly.placeOf {s t : State} (h : LookOnly s t) (d : Desc) (q : Page) (off : Nat) :
    t.placeOf d q off = s.placeOf d q off := by
  obtain ⟨_, _, _, ⟨_, _, _, rfl⟩, rfl⟩ := h; rfl

theorem State.freed_pageAt_fst (s : State) (die : Nat) (p : Part) (obj : Nat) (d : Desc) (page : Nat) (wr : Bool) :
    (s.freed.pageAt die p obj d page wr).1 = (s.pageAt die p obj d page wr).1 := by
  have hwalk : (s.freed.touch (d.plist + 8 * page) 8).walkPage p d page
      = (s.touch (d.plist + 8 * page) 8).walkPage p d page :=
    ((CohOnly.touch _ _ _).walkPage p d page).trans ((CohOnly.touch s _ _).walkPage p d page).symm
  unfold State.pageAt
  rw [show s.freed.isMigrating p.num obj page = s.isMigrating p.num obj page from rfl,
    show s.freed.die die = s.die die from rfl]
  dsimp only
  rw [hwalk]
  by_cases hm : (wr && s.isMigrating p.num obj page) = true
  · rw [if_pos hm, if_pos hm]
  · rw [if_neg hm, if_neg hm]
    cases SMap.find? (s.die die).port (portKey p.num obj page) with
    | some q => rfl
    | none => cases (s.touch (d.plist + 8 * page) 8).walkPage p d page <;> rfl

@[simp] theorem State.freed_translate_fst (s : State) (die : Nat) (p : Part) (obj : Nat) (d : Desc) (off : Nat) (wr : Bool) :
    (s.freed.translate die p obj d off wr).1 = (s.translate die p obj d off wr).1 := by
  have hpage := s.freed_pageAt_fst die p obj d (off / 65536) wr
  have hu := LookOnly.pageAt s.freed die p obj d (off / 65536) wr
  have hv := LookOnly.pageAt s die p obj d (off / 65536) wr
  unfold State.translate
  split
  · rfl
  · dsimp only
    generalize s.freed.pageAt die p obj d (off / 65536) wr = x at *
    generalize s.pageAt die p obj d (off / 65536) wr = y at *
    obtain ⟨r, u⟩ := x
    obtain ⟨_, v⟩ := y
    cases hpage
    cases r with
    | here q => dsimp only; rw [hu.placeOf, hv.placeOf]; rfl
    | bad => rfl
    | absent mal => rfl
    | migrating => rfl

@[simp] theorem State.freed_walkDesc (s : State) (p : Part) (obj : Nat) : s.freed.walkDesc p obj = s.walkDesc p obj := rfl
@[simp] theorem State.freed_hbmWord (s : State) (k a : Nat) : s.freed.hbmWord k a = s.hbmWord k a := rfl
@[simp] theorem State.freed_keyOf (s : State) (part : Nat) : s.freed.keyOf part = s.keyOf part := rfl

@[simp] theorem State.freed_devAddr (s : State) (part : Nat) (ptr : Word) : s.freed.devAddr part ptr = s.devAddr part ptr := by
  simp only [State.devAddr, freed_parts, freed_walkDesc, freed_translate_fst]
@[simp] theorem State.freed_devRead (s : State) (part : Nat) (ptr : Word) : s.freed.devRead part ptr = s.devRead part ptr := by
  simp only [State.devRead, freed_devAddr, freed_hbmWord, freed_keyOf]

/-! ## Control blocks (R13, R17, R20) -/

@[simp] theorem State.freed_rcbWord (s : State) (part : Nat) (r : Word) (off : Nat) :
    s.freed.rcbWord part r off = s.rcbWord part r off := by
  simp only [State.rcbWord, freed_devRead]
@[simp] theorem State.freed_counters (s : State) (part : Nat) (r : Word) : s.freed.counters part r = s.counters part r := by
  simp only [State.counters, freed_rcbWord]
@[simp] theorem State.freed_isRoot (s : State) (part : Nat) (r : Word) : s.freed.isRoot part r = s.isRoot part r := rfl
@[simp] theorem State.freed_ownLimits (s : State) (part : Nat) (r : Word) :
    s.freed.ownLimits part r = s.ownLimits part r := by
  simp only [State.ownLimits, freed_rcbWord, freed_isRoot, freed_parts]
@[simp] theorem State.freed_logOf (s : State) (part : Nat) (path : List Word) :
    s.freed.logOf part path = s.logOf part path := by
  simp only [State.logOf, freed_rcbWord]

@[simp] theorem State.freed_chainFrom (s : State) (part : Nat) (root : Word) (f : Nat) (seen : List Word) (r : Word) :
    s.freed.chainFrom part root f seen r = s.chainFrom part root f seen r := by
  induction f generalizing seen r with
  | zero => rfl
  | succ f ih => simp only [State.chainFrom, freed_devRead, ih]
@[simp] theorem State.freed_chain (s : State) (part : Nat) (rcb : Word) : s.freed.chain part rcb = s.chain part rcb := by
  simp only [State.chain, freed_chainFrom, freed_parts]

@[simp] theorem State.freed_effective (s : State) (part : Nat) (rcb : Word) (own : Word → Option Nat) (top : Part → Nat) :
    s.freed.effective part rcb own top = s.effective part rcb own top := by
  unfold State.effective
  rw [freed_parts, freed_chain]
  rfl
@[simp] theorem State.freed_resolve (s : State) (part : Nat) (rcb : Word) : s.freed.resolve part rcb = s.resolve part rcb := by
  simp only [State.resolve, State.effPrio, State.effLease, State.effPolicy, State.domainRoot, State.effPool, freed_effective,
    freed_chain, freed_logOf, freed_parts, freed_rcbWord, freed_isRoot, freed_ownLimits]

/-! ## What a group's requests are held against (R13, R16, R103, R104) -/

@[simp] theorem State.freed_taskOf (s : State) (g : Group) : s.freed.taskOf g = s.taskOf g := rfl
@[simp] theorem State.freed_rcbOf (s : State) (g : Group) : s.freed.rcbOf g = s.rcbOf g := rfl
@[simp] theorem State.freed_groupsOf (s : State) (p : Group → Bool) : s.freed.groupsOf p = s.groupsOf p := rfl
@[simp] theorem State.freed_clusterChunks (s : State) (cid : Nat) : s.freed.clusterChunks cid = s.clusterChunks cid := rfl
@[simp] theorem State.freed_effOf (s : State) (g : Group) : s.freed.effOf g = s.effOf g := by
  simp only [State.effOf, freed_taskOf, freed_rcbOf, freed_resolve]
@[simp] theorem State.freed_limitsOf (s : State) (g : Group) : s.freed.limitsOf g = s.limitsOf g := by
  simp only [State.limitsOf, freed_effOf, freed_clusters]
@[simp] theorem State.freed_pathOf (s : State) (g : Group) : s.freed.pathOf g = s.pathOf g := by
  simp only [State.pathOf, freed_rcbOf, freed_chain, freed_clusters]
@[simp] theorem State.freed_groupFitsAlone (s : State) (g : Group) (c : Charge) :
    s.freed.groupFitsAlone g c = s.groupFitsAlone g c := by
  simp only [State.groupFitsAlone, freed_limitsOf]
@[simp] theorem State.freed_fitTogether (s : State) (rs : List (Group × Nat)) :
    s.freed.fitTogether rs = s.fitTogether rs := by
  simp only [State.fitTogether, freed_limitsOf, freed_pathOf, freed_counters]
@[simp] theorem State.freed_outranks (s : State) (g h : Group) : s.freed.outranks g h = s.outranks g h := by
  unfold State.outranks
  rw [freed_effOf, freed_effOf]
  rfl

@[simp] theorem State.freed_olderGrows (s : State) (gid core lane : Nat) (g : Group) :
    s.freed.olderGrows gid core lane g = s.olderGrows gid core lane g := rfl
@[simp] theorem State.freed_chunksFit (s : State) (gid core lane : Nat) (g : Group) (need : Nat) :
    s.freed.chunksFit gid core lane g need = s.chunksFit gid core lane g need := rfl
@[simp] theorem State.freed_laneHas (s : State) (e : Nat × Group) : s.freed.laneHas e = s.laneHas e := rfl
@[simp] theorem State.freed_growRivals (s : State) (gid core lane : Nat) (g : Group) :
    s.freed.growRivals gid core lane g = s.growRivals gid core lane g := by
  simp only [State.growRivals, freed_outranks, freed_laneHas, freed_fitTogether, freed_groupsOf]
@[simp] theorem State.freed_growFits (s : State) (gid core lane : Nat) (g : Group) (need charge : Nat) :
    s.freed.growFits gid core lane g need charge = s.growFits gid core lane g need charge := by
  simp only [State.growFits, freed_chunksFit, freed_fitTogether, freed_olderGrows, freed_growRivals]

end Sys2Proof.Machine
end

section
/-! SUPPORT. A group's allotment of lane registers (R103-R106): `GROW`, `SHRINK`, the eviction from a deadlock of `GROW`s
and the way back. -/
namespace Sys2Proof.Machine

/-! ## Lane registers that go, and a stem word that is complete -/

theorem SMap.find?_filter_key {β : Type} (m : SMap β) (p : Nat → Bool) (k : Nat) :
    SMap.find? (m.filter (fun e => p e.1)) k = if p k then SMap.find? m k else none := by
  induction m with
  | nil => simp
  | cons e m ih =>
    obtain ⟨n, v⟩ := e
    by_cases hn : n = k
    · subst hn
      cases hp : p n <;> simp [hp, SMap.find?, ih]
    · cases hp : p n <;> simp [hp, SMap.find?, hn, ih]

/-- What the registers from `n` on read once they have gone, and those below (R103). -/
theorem Group.lreg_clearFrom (g : Group) (n k th : Nat) (ht : th < 32) :
    (g.clearFrom n).lreg k th = if k < n then g.lreg k th else {} := by
  have h := SMap.find?_filter_key g.v (fun a => decide (a < 32 * n)) (laneKey k th)
  have hk : laneKey k th < 32 * n ↔ k < n := by unfold laneKey; omega
  simp only [Group.lreg, Group.clearFrom, SMap.get_eq_find?, h, decide_eq_true_eq, hk]
  split <;> rfl

@[simp] theorem Group.stemMove_pc (g : Group) (pc : Word) (c n : Nat) : (g.stemMove pc c n).pc = pc := by
  unfold Group.stemMove; dsimp only; split <;> rfl
@[simp] theorem Group.stemMove_chunks (g : Group) (pc : Word) (c n : Nat) : (g.stemMove pc c n).chunks = g.chunks := by
  unfold Group.stemMove Group.stemIssue; dsimp only; split <;> split <;> rfl
@[simp] theorem Group.stemMove_lreg (g : Group) (pc : Word) (c n k th : Nat) :
    (g.stemMove pc c n).lreg k th = g.lreg k th := by
  unfold Group.stemMove Group.stemIssue; dsimp only; split <;> split <;> rfl

theorem State.find?_stemEnd {s : State} {gid : Nat} {g' : Group} (h : SMap.find? s.groups gid = some g') (g : Group) :
    SMap.find? (s.stemEnd gid g).groups gid = some (g'.stemMove (pcPlus g.pc 4) s.cycle 1) := by
  simp [State.stemEnd, State.stemPass, SMap.find?_mod, h]

/-- Where chain reads take a group's registers before these go, a group changes in its own reads and scans alone. -/
theorem State.find?_takeReads {s : State} {k : Nat} {g : Group} (h : SMap.find? s.groups k = some g) (u : Group) (lo : Nat) :
    ∃ fs qs, SMap.find? (s.takeReads u lo).groups k = some { g with fills := fs, scans := qs } := by
  unfold State.takeReads; dsimp only
  rw [SMap.find?_map_keyed _ (fun e => by split <;> rfl), h, Option.map_some]
  dsimp only
  split
  · exact ⟨_, _, rfl⟩
  · exact ⟨_, _, rfl⟩

/-! ## GROW and SHRINK (R103) -/

/-- A `GROW` that the lane and the budgets allow. -/
theorem exec_grow_granted {s : State} {gid : Nat} {g : Group} {n : BitVec 5} (h : StemReady s gid g) (hr : g.noRuns = true)
    (hc : g.chunks + n.toNat ≤ 16)
    (ha : s.groupFitsAlone g { lreg := n.toNat + s.clusterChunks g.cid } = true)
    (hf : s.growFits gid g.coreN g.lane g n.toNat n.toNat = true) :
    ∃ t g', exec (.grow n) s = .next t ∧ SMap.find? t.groups gid = some g' ∧ g'.chunks = g.chunks + n.toNat
      ∧ g'.pc = pcPlus g.pc 4 ∧ ∀ k th, g'.lreg k th = (g.clearFrom (8 * g.chunks)).lreg k th := by
  let g1 : Group := { g.clearFrom (8 * g.chunks) with chunks := g.chunks + n.toNat }
  let u := ((s.freed.chargeBy g { lreg := n.toNat }).putGroup gid g1).clearGrowStuck g.coreN
  have hu : SMap.find? u.groups gid = some g1 := by
    rw [(WorkSame.clearGrowStuck _ _).groups]; exact SMap.find?_put_self _ _ _
  have he : execGrow n s = .next (u.stemEnd gid g) := runStem_end h (by simp [hr, hc, ha, hf, u, g1])
  refine ⟨_, _, he, State.find?_stemEnd hu g, ?_, ?_, fun k th => ?_⟩
  · rw [Group.stemMove_chunks]
  · rw [Group.stemMove_pc]
  · rw [Group.stemMove_lreg]; rfl

/-- A `SHRINK` with no fill pending in the registers that go. -/
theorem exec_shrink_done {s : State} {gid : Nat} {g : Group} {n : BitVec 5} (h : StemReady s gid g) (hr : g.noRuns = true)
    (hc : n.toNat < g.chunks) (hf : ∀ f ∈ g.fills, f.reg < 8 * (g.chunks - n.toNat)) :
    ∃ t g', exec (.shrink n) s = .next t ∧ SMap.find? t.groups gid = some g' ∧ g'.chunks = g.chunks - n.toNat
      ∧ g'.pc = pcPlus g.pc 4 ∧ ∀ k th, g'.lreg k th = (g.clearFrom (8 * (g.chunks - n.toNat))).lreg k th := by
  let c := g.chunks - n.toNat
  let u := (s.freed.reclaimBy g { lreg := n.toNat }).putGroup gid { g.clearFrom (8 * c) with chunks := c }
  obtain ⟨fs, qs, hu⟩ := State.find?_takeReads (s := u) (SMap.find?_put_self _ _ _) g (8 * c)
  have hfills : g.fills.any (fun f => decide (8 * c ≤ f.reg)) = false := by simpa [c] using hf
  have hleft : ¬ g.chunks < n.toNat + 1 := by omega
  have he : execShrink n s = .next ((u.takeReads g (8 * c)).stemEnd gid g) :=
    runStem_end h (by simp only [hr, hleft, hfills, Bool.not_true, Bool.false_eq_true, if_false, u, c])
  refine ⟨_, _, he, State.find?_stemEnd hu g, ?_, ?_, fun k th => ?_⟩
  · rw [Group.stemMove_chunks]
  · rw [Group.stemMove_pc]
  · rw [Group.stemMove_lreg]; rfl

/-! ## The watch for a deadlock (R105) -/

theorem State.core_modCore_self (s : State) (c : Nat) (f : Core → Core) : (s.modCore c f).core c = f (s.core c) := by
  simp [State.core, State.modCore, State.putCore]

/-- A deadlock is noted in the step that finds it. -/
theorem exec_growDeadlockEviction_notes {s : State} {core : Nat}
    (he : (s.residents core).find? (fun e => e.2.evicting) = none) (hd : s.growDead core = true)
    (hs : (s.core core).growStuck = none) :
    exec (.growDeadlockEviction core) s = .next (s.modCore core (fun c => { c with growStuck := some s.cycle })) := by
  show execGrowDeadlockEviction core s = _
  simp [execGrowDeadlockEviction, he, State.watchGrow, hd, hs, State.core_modCore_self]

/-- A deadlock that has lasted 32 cycles: the eviction of the youngest begins. -/
theorem exec_growDeadlockEviction_begins {s : State} {core t : Nat} {e : Nat × Group}
    (he : (s.residents core).find? (fun e => e.2.evicting) = none) (hd : s.growDead core = true)
    (hs : (s.core core).growStuck = some t) (ht : t + 32 ≤ s.cycle) (hy : s.youngest (s.residents core) = some e) :
    exec (.growDeadlockEviction core) s =
      .next (((s.modGroup e.1 (fun g => { g with evicting := true })).clearGrowStuck core).evict e.1) := by
  show execGrowDeadlockEviction core s = _
  have hc : ¬ s.cycle < t + 32 := by omega
  simp [execGrowDeadlockEviction, he, State.watchGrow, hd, hs, hc, hy]

/-- An eviction that has begun goes on. -/
theorem exec_growDeadlockEviction_goesOn {s : State} {core : Nat} {e : Nat × Group}
    (he : (s.residents core).find? (fun e => e.2.evicting) = some e) :
    exec (.growDeadlockEviction core) s = .next (s.evict e.1) := by
  show execGrowDeadlockEviction core s = _
  simp [execGrowDeadlockEviction, he]

/-! ## The eviction of a group (R105, R116) -/

theorem Group.savedForm_pc (g : Group) : g.savedForm.pc = g.pc := by unfold Group.savedForm; split <;> rfl
theorem Group.savedForm_chunks (g : Group) : g.savedForm.chunks = g.chunks := by unfold Group.savedForm; split <;> rfl
theorem Group.savedForm_areg (g : Group) (r : Nat) : g.savedForm.areg r = g.areg r := by
  unfold Group.savedForm; split <;> rfl

/-- A save changes only the record of its group, which takes its saved form together with the requests `rs` that it has
withdrawn. -/
theorem State.saveGroup_groups {s : State} {gid : Nat} {g : Group} (h : SMap.find? s.groups gid = some g) :
    ∃ rs, (s.saveGroup gid).groups =
      SMap.put s.groups gid (Group.savedForm { g with drainTs := [], fifoAgain := g.fifoAgain ++ rs }) := by
  have hdrain : (s.drainNow gid g).groups = SMap.put s.groups gid { g with drainTs := [] } := by
    rw [State.drainNow, State.modGroup_groups, (WorkSame.foldl _ (fun s t => WorkSame.raisePts s g.coreN t) _ s).groups,
      SMap.mod_of_find h]
  have hwithdraw (u : State) : ∃ rs, (u.withdrawFifo gid g).groups =
      SMap.mod u.groups gid (fun g => { g with fifoAgain := g.fifoAgain ++ rs }) := ⟨_, rfl⟩
  obtain ⟨rs, hrs⟩ := hwithdraw (s.drainNow gid g)
  refine ⟨rs, ?_⟩
  unfold State.saveGroup
  rw [h]
  dsimp only
  rw [State.modGroup_groups, hrs, hdrain, SMap.mod_put, SMap.mod_put]

/-- A group whose save may be written is evicted: its program counter, its stem registers and its number of chunks stay, and
every other group is as it was. -/
theorem State.evict_saved {s : State} {gid : Nat} {g : Group} (h : SMap.find? s.groups gid = some g)
    (hs : s.saveReady gid g = true) :
    (∃ e, SMap.find? (s.evict gid).groups gid = some e ∧ e.evicted = true ∧ e.evicting = false ∧ e.pc = g.pc
      ∧ e.chunks = g.chunks ∧ ∀ r, e.areg r = g.areg r)
    ∧ ∀ k, k ≠ gid → SMap.find? (s.evict gid).groups k = SMap.find? s.groups k := by
  obtain ⟨rs, hsave⟩ := State.saveGroup_groups h
  have he : (s.evict gid).groups = SMap.put s.groups gid
      { Group.savedForm { g with drainTs := [], fifoAgain := g.fifoAgain ++ rs } with
        evicted := true, evicting := false, pendingSet := false } := by
    unfold State.evict
    rw [h]
    dsimp only
    rw [if_pos hs, State.modGroup_groups, State.reclaimBy, (WorkSame.reclaimAt _ _ _ _).groups, hsave, SMap.mod_put]
  constructor
  · refine ⟨_, by rw [he]; exact SMap.find?_put_self _ _ _, rfl, rfl, ?_, ?_, fun r => ?_⟩
    · exact Group.savedForm_pc _
    · exact Group.savedForm_chunks _
    · exact Group.savedForm_areg _ r
  · intro k hk
    rw [he, SMap.find?_put, if_neg (Ne.symm hk)]

/-! ## The way back (R104, R106) -/

/-- The record of an evicted group that has returned to a place of a lane with `n` more chunks: its `GROW` is complete. -/
def Group.readmitted (g : Group) (n lane pos : Nat) (pending : Bool) : Group :=
  { g.clearFrom 16 with
    chunks := g.chunks + n, lane, pos, evicted := false, wait := .none, retry := [], redo := none, blocked := false
    pendingSet := pending, pc := pcPlus g.pc 4 }

/-- With no request withdrawn, none is sent again. -/
theorem State.reissueFifo_groups {s : State} {gid : Nat} {g : Group} (h : SMap.find? s.groups gid = some g)
    (hf : g.fifoAgain = []) : (s.reissueFifo gid).groups = SMap.put s.groups gid { g with fifoAgain := [] } := by
  unfold State.reissueFifo
  rw [h]
  dsimp only
  rw [hf, List.foldl_nil, State.modGroup_groups, SMap.mod_of_find h]

/-- An evicted group that fits a lane returns there. -/
theorem exec_growReadmission_returns {s : State} {gid lane core n pos : Nat} {g : Group}
    (hg : SMap.find? s.groups gid = some g) (hcore : g.core = some core) (hw : g.wait = .grow n)
    (hp : s.placesFit gid core lane g = true) (hst : s.stopping g = false) (hpos : s.freePos core lane = some pos)
    (hev : g.evicted = true) (hl : lane < 32) (hfi : g.fifoAgain = [])
    (hfit : s.growFits gid core lane g (g.chunks + n) (g.chunks - Nat.min g.chunks 2 + n) = true) :
    ∃ t, exec (.growReadmission gid lane) s = .next t
      ∧ SMap.find? t.groups gid = some { g.readmitted n lane pos (s.laneFull core lane) with fifoAgain := [] } := by
  let g1 := g.readmitted n lane pos (s.laneFull core lane)
  let u := (s.chargeBy g { lreg := g.chunks - Nat.min g.chunks 2 + n }).modGroup gid (fun x => { x.clearFrom 16 with
    chunks := g.chunks + n, lane, pos, evicted := false, wait := .none, retry := [], redo := none, blocked := false
    pendingSet := s.laneFull core lane, pc := pcPlus g.pc 4 })
  have hlane : ¬ coreLanes ≤ lane := by unfold coreLanes; omega
  have he : execGrowReadmission gid lane s = .next ((u.reissueFifo gid).clearGrowStuck core) := by
    simp only [execGrowReadmission, hg, hcore, hw, hp, hst, hpos, hev, hlane, hfit, Bool.not_true, Bool.not_false,
      Bool.and_self, if_true, decide_false, Bool.or_self, Bool.false_eq_true, if_false, u]
  have hu : SMap.find? u.groups gid = some g1 := by
    rw [State.modGroup_groups, State.chargeBy, (WorkSame.chargeAt _ _ _ _).groups, SMap.mod_of_find hg, SMap.find?_put_self]
    rfl
  refine ⟨_, he, ?_⟩
  rw [(WorkSame.clearGrowStuck _ _).groups, State.reissueFifo_groups hu hfi, SMap.find?_put_self]

/-- Settles O12: `GROW` and `SHRINK` by what the registers read that are left (`Group.lreg_clearFrom`), the deadlock's three
steps by the cases of its watch, the eviction by `State.evict_saved`, the way back by `exec_growReadmission_returns`. -/
theorem growAndShrinkChangeTheAllotment : Obligations.GrowAndShrinkChangeTheAllotment := by
  unfold Obligations.GrowAndShrinkChangeTheAllotment
  refine ⟨fun s gid g n h hr hp => ⟨fun hc ha hf => ?_, fun hc hf => ?_⟩, fun s core he hd => ?_,
    fun s core gid g he hg hs => ?_, fun s gid lane core n pos g hg hcore hw hp hst hpos hev hl hfi hfit => ?_⟩
  · obtain ⟨t, g', ht, hg', hchunks, hpc, hregs⟩ := exec_grow_granted h (by simp [Group.noRuns, hr, hp]) hc ha hf
    refine ⟨t, g', ht, hg', hchunks, hpc, fun k th hth hk => ?_, fun k th hth hk => ?_⟩
    · rw [hregs, Group.lreg_clearFrom _ _ _ _ hth, if_pos hk]
    · rw [hregs, Group.lreg_clearFrom _ _ _ _ hth, if_neg (by omega)]
  · obtain ⟨t, g', ht, hg', hchunks, hpc, hregs⟩ := exec_shrink_done h (by simp [Group.noRuns, hr, hp]) hc hf
    refine ⟨t, g', ht, hg', hchunks, hpc, fun k th hth hk => ?_⟩
    rw [hregs, Group.lreg_clearFrom _ _ _ _ hth, if_pos hk]
  · exact ⟨exec_growDeadlockEviction_notes he hd, fun t e hs ht hy => exec_growDeadlockEviction_begins he hd hs ht hy⟩
  · obtain ⟨⟨h, hh, hev, hevg, hpc, hch, ha⟩, hothers⟩ := State.evict_saved hg hs
    exact ⟨_, h, exec_growDeadlockEviction_goesOn he, hh, hev, hevg, hpc, hch, ha, fun k hk => by rw [hothers k hk]⟩
  · obtain ⟨t, ht, hback⟩ := exec_growReadmission_returns hg hcore hw hp hst hpos hev hl hfi hfit
    exact ⟨t, _, ht, hback, rfl, rfl, rfl, rfl, hcore, rfl⟩

end Sys2Proof.Machine
end

section
/-! SUPPORT. The slot of an arithmetic instruction (R117): the arbitration occupies the lane for it before it executes, so
that `laneDone`, which says what it does when it executes, leaves the lane's next slot where it stands. -/
namespace Sys2Proof.Machine

/-- Thread 0 at the first instruction of a run. -/
def firstPath : Path := { off := 0, mask := 1, jrec := none }
/-- A group at home on lane 0 of core 0, at an instruction of leaf slot 0. -/
def laneGroup : Group :=
  { part := 0, tid := 0, cid := 0, wg := 0, idx := 0, core := some 0, pc := 0, chunks := 2, lease := 10
    run := some { off := 0, a := [], x := [], lease := 10 }, slot0 := some firstPath }
/-- The machine after reset with that group, its instruction due; no slot of its lane is noted. -/
def laneState : State := { State.reset with groups := [(0, laneGroup)], cur := some (.leaf 0 0 8) }
/-- v1 from v0 and an immediate. -/
def laneLeaf : Leaf := { ty := .b32, d := .lane 1, s1 := .lane 0, imm := some 3 }

/-- Refutes O24, by its last clause alone: an instruction of one slot occupies its lane for no slot beyond the one that the
arbitration has noted (`State.leafApply`), so where none was noted, none is noted afterwards. -/
theorem not_arithmeticLaneInstructionFrame : ¬ Obligations.ArithmeticLaneInstructionFrame := by
  unfold Obligations.ArithmeticLaneInstructionFrame
  intro h
  obtain ⟨t, _, ht, -, -, -, -, -, -, -, -, -, -, -, -, -, -, -, -, -, hslot⟩ :=
    h laneState 0 0 8 laneGroup _ firstPath laneLeaf [0] (fun _ => (3, 0)) ⟨rfl, rfl, rfl, rfl⟩ rfl (by decide)
  have hnone : SMap.find? (t.core laneGroup.coreN).slotAt laneGroup.lane = none := by
    cases ht; decide +kernel
  rw [hnone] at hslot
  cases hslot

end Sys2Proof.Machine
end

section
/-! SUPPORT. `ZMOV` and the registers that it waits for (R112, R258): each thread waits for the eight that it names itself. -/
namespace Sys2Proof.Machine

/-- A `ZMOV` waits while a register that one of its threads names for itself has a fill pending. -/
theorem exec_zmov_waits {s : State} {gid slot next : Nat} {g : Group} {r : Run} {p : Path} {w : Leaf} {ts : List Nat}
    {fs : List TFault} {t k : Nat} (h : LeafReady s gid slot next g r p) (hh : g.host = none)
    (hs : s.holdsSlice g = true) (hm : moveThreads g r w (takersOf g slot p w.ctl) w.d = some (ts, fs)) (ht : t ∈ ts)
    (hk : k ∈ span (regOf g r t w.d) 8) (hp : (g.lreg k t).fe = .pending) :
    exec (.zmov w) s = .next (s.freed.leafApply (leafCtx gid slot next g p w.ctl) w.ctl .wait) := by
  have hslice : s.freed.holdsSlice g = true := hs
  have hbusy : ts.any (fun t => (span (regOf g r t w.d) 8).any (fun k => (g.lreg k t).fe == .pending)) = true :=
    List.any_eq_true.mpr ⟨t, ht, List.any_eq_true.mpr ⟨k, hk, by rw [hp]; rfl⟩⟩
  show execZmov w s = _
  unfold execZmov moveOp
  refine runLeaf_body h ?_
  simp [hh, hslice, leafCtx, hm, hbusy]

/-- Threads 0 and 31 at the first instruction of a run. -/
def endsPath : Path := { off := 0, mask := 0x80000001, jrec := none }
/-- A run whose index register 0 reaches v0 to v15. -/
def indexedRun : Run := { off := 0, a := [], x := [(0, { base := 0, limit := 16 })], lease := 10 }
/-- Index register 0 names v0 for thread 0 and v8 for thread 31, whose v8 waits for a fill. -/
def indexedGroup : Group :=
  { part := 0, tid := 0, cid := 0, wg := 0, idx := 0, core := some 0, pc := 0, chunks := 2, lease := 10
    run := some indexedRun, slot0 := some endsPath, xval := [(31, 8)]
    v := [(laneKey 8 31, { val := 0, fe := .pending })], fills := [{ reg := 8, thread := 31, src := .value 0 }] }
/-- The machine after reset with that group, in a workgroup that holds its slice, and its instruction due. -/
def indexedState : State :=
  { State.reset with
    groups := [(0, indexedGroup)], cur := some (.leaf 0 0 8)
    clusters := [(0, { tid := 0, idx := 0, st := .resident, wgs := [{ core := some 0, slice := true }] })] }
/-- A move of tile 0 to the eight registers from the one that index register 0 names. -/
def indexedMove : Leaf := { ty := .f32, d := .indexed 0 0, s2 := .const 0 }

/-- Refutes O33, by its clause on `ZMOV`, which asks that the first thread's eight registers wait for no fill in any thread
and leaves the instruction free: with an indexed d, which no encoding of `ZMOV` has (R258), another thread names other
registers, and the move waits for those. The clause would have it issue and take a new number for its fills. -/
theorem not_laneStateAndTileInstructionsAct : ¬ Obligations.LaneStateAndTileInstructionsAct := by
  unfold Obligations.LaneStateAndTileInstructionsAct
  rintro ⟨-, h⟩
  have hready : LeafReady indexedState 0 0 8 indexedGroup indexedRun endsPath := ⟨rfl, rfl, rfl, rfl⟩
  have hslice : indexedState.holdsSlice indexedGroup = true := by decide +kernel
  have hmove : moveThreads indexedGroup indexedRun indexedMove (takersOf indexedGroup 0 endsPath indexedMove.ctl)
      indexedMove.d = some ([0, 31], []) := by decide +kernel
  have hissues := (h indexedState 0 0 8 indexedGroup indexedRun endsPath indexedMove [0, 31] [] 0 hready rfl hslice rfl).1
    hmove (by decide +kernel) (by decide +kernel)
  have hwaits := exec_zmov_waits hready rfl hslice hmove (t := 31) (k := 8) (by decide) (by decide +kernel) (by decide +kernel)
  have hsame := congrArg State.nextId (Host.Outcome.next.inj (hissues.symm.trans hwaits))
  exact absurd hsame (by decide +kernel)

end Sys2Proof.Machine
end
